-- ==== Sys2Proof/Word.lean ====
section
/-! DEFINITION. The byte, the bits and the 16-bit word that cross a link or number a frame, and the index types of the part. -/

namespace Sys2Proof

/-- A byte of the link (00_scope.md conventions). -/
abbrev Byte := BitVec 8

/-- Eight bits of a link, in the order of the rising edges that sample them; the part groups the bits of a transfer so, counted from its
start (R127). -/
structure Octet where
  bit1 : Bool
  bit2 : Bool
  bit3 : Bool
  bit4 : Bool
  bit5 : Bool
  bit6 : Bool
  bit7 : Bool
  bit8 : Bool
  deriving DecidableEq, Repr

/-- A 16-bit number that wraps from 65535 to 0: a frame number (R89, R90) or the link CRC (R193). -/
abbrev Word := BitVec 16

/-- A client port, CP0 to CP5. -/
abbrev Port := Fin 6

/-- A time slot of the frame, 0 to 511 (R1). -/
abbrev SlotIx := Fin 512

/-- A record index, 0 to 191 (R24). -/
abbrev RecIx := Fin 192

/-- A move context number, 0 to 3 (R103). -/
abbrev CtxIx := Fin 4

/-- A watch unit number, 0 to 7 (R161). -/
abbrev UnitIx := Fin 8

end Sys2Proof
end

