-- ==== Sys2Proof/Syntax.lean ====
section
/-! DEFINITION. The commands of the block: one constructor per row of spec/opcode_table.json, with its operands. -/

namespace Sys2Proof

/-- The fifty steps of the part, in the order of the table.
A completion carries no operand: the engine holds the command it completes (R46). -/
inductive Instr where
  /-- RESET is asserted low (R189). -/
  | powerOnReset
  /-- RESET returns high with the levels of ADM5 to ADM0 (R144). -/
  | resetRelease (straps : BitVec 6)
  /-- CPnSEL falls (R127, R128). -/
  | transferStart (port : Port)
  /-- A transfer whose type byte is neither 0x5A nor 0xA5 ends (R129). -/
  | faultedTransfer (port : Port) (typeByte : Byte)
  /-- A transfer of type 0x5A ends: the bits sampled on CPnDI after the type byte, one for each rising edge, in groups of eight, and
  the fewer than eight of a partial last byte (R127, R130, R131). -/
  | commandTransfer (port : Port) (octets : List Octet) (rest : List Bool)
  /-- The type byte 0xA5 is taken (R136). -/
  | collectChoice (port : Port)
  /-- A collect transfer ends after so many rising edges of CPnCLK, the type byte's eight included (R137). With fewer than
  eight edges the transfer is empty (R127). -/
  | collectEnd (port : Port) (edges : Nat)
  /-- The free engine takes a table command (R47). -/
  | engineTakeCommand
  /-- Completion of RESERVE (R59). -/
  | reserve
  /-- Completion of RELEASE (R39). -/
  | release
  /-- Completion of RENEW (R40). -/
  | renew
  /-- Completion of QUERY_RESERVATION (R41). -/
  | queryReservation
  /-- Completion of LIST_OWNED (R42). -/
  | listOwned
  /-- Completion of READ_MAP (R22). -/
  | readMap
  /-- Completion of CANCEL_WAIT (R82). -/
  | cancelWait
  /-- Completion of RELOCATE (R108). -/
  | relocate
  /-- Completion of CONFIRM_MOVE (R110). -/
  | confirmMove
  /-- Completion of DECLINE_MOVE (R111). -/
  | declineMove
  /-- Completion of SET_WATCH (R164). -/
  | setWatch
  /-- Completion of CLEAR_WATCH (R169). -/
  | clearWatch
  /-- Completion of REARM_WATCH (R168). -/
  | rearmWatch
  /-- Completion of BAR (R175). -/
  | bar
  /-- Completion of UNBAR (R177). -/
  | unbar
  /-- Completion of FORCE_RELEASE (R178). -/
  | forceRelease
  /-- Completion of SET_PARAM (R179). -/
  | setParam
  /-- Completion of SET_PORT (R182). -/
  | setPort
  /-- Completion of RESET_PORT (R187). -/
  | resetPort
  /-- Completion of READ_PARAMS (R181). -/
  | readParams
  /-- The port answers FETCH_EVENTS (R154). -/
  | fetchEvents (port : Port)
  /-- The port answers READ_STATUS (R139). -/
  | readStatus (port : Port)
  /-- The port answers SELF_RESET (R186). -/
  | selfReset (port : Port)
  /-- The port answers ECHO (R140). -/
  | echo (port : Port)
  /-- The free engine begins a pass over the Wait List (R68). -/
  | waitPassBegin
  /-- The pass completes (R77). -/
  | waitPassCompletion
  /-- A frame start on FSYNC (R86, R87). -/
  | frameStart
  /-- The sync-watch timer runs out (R88). -/
  | syncWatchTimeout
  /-- An edge of SLOTCLK (R91). -/
  | slotEdge
  /-- The Slot Map's reaction to its next mark (R14). -/
  | slotMapFrameReaction
  /-- The Slot Map's reaction, where it ends the drain of the named slot (R15, log 4). -/
  | drainComplete (slot : SlotIx)
  /-- The Record Pool takes a promotion report (R34). -/
  | promotionReportPool
  /-- The Move Unit takes a promotion report (R114). -/
  | promotionReportMove
  /-- The Lease Counter's reaction to its next mark (R95). -/
  | leaseCounterReaction
  /-- The Lease Counter's reaction, where it ends the lease of the named record (R97, log 4). -/
  | leaseExpiry (record : RecIx)
  /-- The Move Unit's reaction to its next mark (R112). -/
  | moveUnitFrameReaction
  /-- The Move Unit's reaction, where it times out the offer of the named context (R113, log 4). -/
  | confirmTimeout (context : CtxIx)
  /-- The Move Unit's reaction, where it cuts over the move of the named context (R116, log 4). -/
  | cutover (context : CtxIx)
  /-- The Wait List's reaction to its next mark (R79). -/
  | waitListFrameReaction
  /-- The Wait List's reaction, where it expires the entry holding the ticket (R80, log 4). -/
  | waitExpiry (ticket : Byte)
  /-- The Watch Units take a watch report (R165). -/
  | watchReport
  /-- The Watch Units take a record report (R166). -/
  | recordReport
  deriving DecidableEq, Repr

end Sys2Proof
end

