-- ==== Sys2Proof/Decode.lean ====
section
/-! DEFINITION. The decoder over the opcode table's bits. No row of spec/opcode_table.json gives bits: the commands are
steps of the part, not words. (The command frames of the links are decoded in Machine/Operands.lean, R190.) -/

namespace Sys2Proof

/-- The command a word of `nbits` bits spells by the table's bits: none, since no row gives any. -/
def decodeTableWord (_nbits _w : Nat) : Option Instr :=
  none

end Sys2Proof
end

