-- ==== Sys2Proof/Config.lean ====
section
/-! DEFINITION. What the SA512 fixes: the sizes of its tables and queues, and the straps that `State.reset` assumes.
The spec leaves no value open, so there is no free value here. -/

namespace Sys2Proof.Config

/-- Commands one port may have accepted and unanswered (R133). -/
def queueDepth : Nat := 4

/-- Response places of a port (R134). -/
def responsePlaces : Nat := 8

/-- Event records a port's event queue holds (R150). -/
def eventDepth : Nat := 16

/-- Wait entries on the list (R69). -/
def waitEntries : Nat := 24

/-- Wait entries of one port (R69). -/
def waitEntriesPerPort : Nat := 8

/-- Longest run, in slots (R1, R191). -/
def maxRun : Nat := 64

/-- Runs of a set (R24). -/
def maxRuns : Nat := 4

/-- Handles one LIST_OWNED response carries (R42). -/
def listLimit : Nat := 48

/-- Records between POOL_LOW and the recovery level (R32). -/
def recoveryStep : Nat := 4

/-- Largest body of a command or response (R130). -/
def maxBody : Nat := 250

/-- The generator of the link CRC below x^16 (R193). -/
def crcPoly : Word := 0x1021#16

/-- DESIGN CHOICE (unsafe, log 5): the levels of ADM5 to ADM0 that `State.reset` takes as sampled.
The spec samples the straps and gives them no value; RESET_RELEASE samples any value. -/
def resetStraps : BitVec 6 := 0#6

end Sys2Proof.Config
end

