-- ==== Sys2Proof/Machine/Table.lean ====
section
/-! DEFINITION. A table of a fixed number of entries, as a list that carries its length. -/

namespace Sys2Proof.Machine

/-- `n` entries of type `α`, indexed 0 to n - 1. -/
structure Table (α : Type) (n : Nat) where
  /-- The entries in order of index. -/
  toList : List α
  /-- There are `n` of them. -/
  size : toList.length = n
  deriving DecidableEq, Repr

/-- `f i a` for each entry `a` at position `i`, counting from `from`. -/
def mapFrom {α β : Type} (f : Nat → α → β) : Nat → List α → List β
  | _, [] => []
  | i, a :: rest => f i a :: mapFrom f (i + 1) rest

theorem mapFrom_length {α β : Type} (f : Nat → α → β) (l : List α) (i : Nat) :
    (mapFrom f i l).length = l.length := by
  induction l generalizing i with
  | nil => rfl
  | cons a l ih => simp [mapFrom, ih]

theorem mapFrom_getElem {α β : Type} (f : Nat → α → β) (l : List α) (i k : Nat)
    (h : k < (mapFrom f i l).length) :
    (mapFrom f i l)[k] = f (i + k) (l[k]'(by rwa [mapFrom_length] at h)) := by
  induction l generalizing i k with
  | nil => simp [mapFrom] at h
  | cons a l ih =>
    cases k with
    | zero => simp [mapFrom]
    | succ k =>
      simp only [mapFrom, List.getElem_cons_succ]
      rw [ih]
      congr 1
      omega

namespace Table

variable {α β : Type} {n : Nat}

/-- The entry at index `i`. -/
def get (t : Table α n) (i : Fin n) : α :=
  t.toList[(i : Nat)]'(by rw [t.size]; exact i.isLt)

/-- The table with entry `i` replaced. -/
def set (t : Table α n) (i : Fin n) (a : α) : Table α n :=
  ⟨t.toList.set i a, by rw [List.length_set]; exact t.size⟩

/-- The table with entry `i` changed by `f`. -/
def modify (t : Table α n) (i : Fin n) (f : α → α) : Table α n :=
  t.set i (f (t.get i))

/-- The table with every entry changed by `f`, which is given the index. -/
def map (t : Table α n) (f : Nat → α → β) : Table β n :=
  ⟨mapFrom f 0 t.toList, by rw [mapFrom_length]; exact t.size⟩

/-- The table whose entries are all `a`. -/
def replicate (n : Nat) (a : α) : Table α n :=
  ⟨List.replicate n a, List.length_replicate⟩

@[ext] theorem ext {t u : Table α n} (h : ∀ i, t.get i = u.get i) : t = u := by
  rcases t with ⟨a, ha⟩
  rcases u with ⟨b, hb⟩
  have : a = b := by
    apply List.ext_getElem (by rw [ha, hb])
    intro k h1 h2
    exact h ⟨k, by omega⟩
  subst this
  rfl

@[simp] theorem get_set_self (t : Table α n) (i : Fin n) (a : α) : (t.set i a).get i = a := by
  simp [get, set]

theorem get_set_ne (t : Table α n) {i j : Fin n} (a : α) (h : i ≠ j) :
    (t.set i a).get j = t.get j := by
  have : (i : Nat) ≠ j := fun e => h (Fin.ext e)
  simp [get, set, this]

theorem get_set (t : Table α n) (i j : Fin n) (a : α) :
    (t.set i a).get j = if i = j then a else t.get j := by
  split
  · next h => subst h; simp
  · next h => exact get_set_ne t a h

@[simp] theorem get_modify_self (t : Table α n) (i : Fin n) (f : α → α) :
    (t.modify i f).get i = f (t.get i) := by
  simp [modify]

theorem get_modify_ne (t : Table α n) {i j : Fin n} (f : α → α) (h : i ≠ j) :
    (t.modify i f).get j = t.get j :=
  get_set_ne t _ h

theorem get_modify (t : Table α n) (i j : Fin n) (f : α → α) :
    (t.modify i f).get j = if i = j then f (t.get j) else t.get j := by
  unfold modify
  rw [get_set]
  split
  · next h => rw [h]
  · rfl

@[simp] theorem get_map (t : Table α n) (f : Nat → α → β) (i : Fin n) :
    (t.map f).get i = f i (t.get i) := by
  simp [get, map, mapFrom_getElem]

@[simp] theorem get_replicate (a : α) (i : Fin n) : (replicate n a).get i = a := by
  simp [get, replicate]

end Table

end Sys2Proof.Machine
end

