-- ==== Sys2Proof/Machine/State.lean ====
section
/-! DEFINITION. The state of the SA512, block by block, as plain data, and the state after reset.
Types and fields only: what acts on them stands in the other files of this folder. -/

namespace Sys2Proof.Machine

/-! ## The Slot Map (chapter 1) -/

/-- A run: first slot and length (00_scope.md conventions). -/
structure Run where
  first : Nat
  len : Nat
  deriving DecidableEq, Repr

/-- The five states of a slot (R1). -/
inductive SlotState where
  | free | held | live | draining | barred
  deriving DecidableEq, Repr

/-- The set a HELD or LIVE slot belongs to (R1, R2). -/
inductive Role where
  | current | target
  deriving DecidableEq, Repr

/-- A slot entry with the fields its state calls for (R1, Table 1-1). -/
inductive Slot where
  | free
  | held (index : RecIx) (role : Role) (armed barPending : Bool)
  | live (index : RecIx) (role : Role) (barPending : Bool)
  | draining (count : Nat) (barPending : Bool)
  | barred
  deriving DecidableEq, Repr

/-- A carry entry: the frame number of a cutover whose mark the Slot Map has not yet latched, the owner port and the
old set (R10). -/
structure CarryEntry where
  mark : Word
  port : Port
  set : List Run
  deriving DecidableEq, Repr

/-- The Slot Map (R1, R3, R10, R16). -/
structure SlotMap where
  entries : Table Slot 512
  freeCount : Nat
  barredCount : Nat
  drainingCount : Nat
  image : Table (Option Port) 512
  imageMark : Option Word
  carry : List CarryEntry
  deriving DecidableEq, Repr

/-- A slot named in a watch report, with its state before and after (R20). -/
structure SlotChange where
  slot : Nat
  before : SlotState
  after : SlotState
  deriving DecidableEq, Repr

/-! ## Reservation records (chapter 2) -/

/-- Reservation states (R25). -/
inductive ResState where
  | pending | live | moving
  deriving DecidableEq, Repr

/-- Classes of a reservation or wait entry (Table 0-4). -/
inductive ResClass where
  | urgent | normal | bulk
  deriving DecidableEq, Repr

/-- A lease (R24): length, remaining and warned mark. -/
structure Lease where
  length : Nat
  remaining : Nat
  warned : Bool
  deriving DecidableEq, Repr

/-- The fields of an allocated record (R24, Table 2-1). -/
structure Reservation where
  state : ResState
  owner : Port
  cls : ResClass
  set : List Run
  lease : Option Lease
  context : Option CtxIx
  ticket : Option Byte
  grantFrame : Word
  deriving DecidableEq, Repr

/-- A record: its generation and, while it is allocated, its fields (R24). -/
structure Record where
  gen : Byte
  alloc : Option Reservation
  deriving DecidableEq, Repr

/-- The Record Pool (R24, R28, R31). -/
structure RecordPool where
  records : Table Record 192
  fifo : List RecIx
  warnArmed : Bool
  deriving DecidableEq, Repr

/-- A handle as it is carried on the link: an index byte and a generation (R26, R191). -/
structure Handle where
  index : Byte
  gen : Byte
  deriving DecidableEq, Repr

/-! ## Requests: the table commands as the engine reads them (chapters 2 to 10) -/

/-- Shape of a request (Table 3-3). With placement AT it is carried and not used. -/
inductive Shape where
  | contiguous
  | split (minRun maxRuns : Nat)
  deriving DecidableEq, Repr

/-- Placement of a request (Table 3-3). -/
inductive Placement where
  | nextFit
  | lowFit
  | atRuns (runs : List Run)
  deriving DecidableEq, Repr

/-- What a placement search is given: count, shape, placement and window (R61 to R66). -/
structure SearchArgs where
  n : Nat
  shape : Shape
  place : Placement
  lo : Nat
  hi : Nat
  deriving DecidableEq, Repr

/-- The wait option of RESERVE (Table 3-3); the limit 0 means until cancelled. -/
inductive WaitOption where
  | noWait
  | wait (limit : Nat)
  deriving DecidableEq, Repr

/-- The arguments of RESERVE (Table 3-3). -/
structure ReserveArgs where
  search : SearchArgs
  cls : ResClass
  lease : Nat
  wait : WaitOption
  deriving DecidableEq, Repr

/-- The arguments of RELOCATE (R105); an absent shape is SPLIT with min run 1 and max runs 4. -/
structure RelocateArgs where
  handle : Handle
  shape : Shape
  place : Placement
  lo : Nat
  hi : Nat
  deriving DecidableEq, Repr

/-- Required state of a RES_STATE unit (R163). -/
inductive Required where
  | live | present
  deriving DecidableEq, Repr

/-- Combination of a RES_STATE unit (R163). -/
inductive Combination where
  | all | any
  deriving DecidableEq, Repr

/-- Edge of a watch unit (R167). -/
inductive Edge where
  | rise | fall | both
  deriving DecidableEq, Repr

/-- Mode of a watch unit (R167). -/
inductive WatchMode where
  | oneShot | continuous
  deriving DecidableEq, Repr

/-- The condition a SET_WATCH carries (R164). -/
inductive WatchSpec where
  | freeCount (lo hi threshold : Nat)
  | resState (required : Required) (comb : Combination) (members : List Handle)
  deriving DecidableEq, Repr

/-- The arguments of SET_WATCH (R164); `unit` is none for ANY. Bit p of `targets` is port p. -/
structure SetWatchArgs where
  unit : Option UnitIx
  spec : WatchSpec
  edge : Edge
  mode : WatchMode
  targets : BitVec 6
  deriving DecidableEq, Repr

/-- What a port reset does with the port's reservations (Table 7-4). -/
inductive ResetPolicy where
  | reclaim | retain
  deriving DecidableEq, Repr

/-- The attributes of a port (R143, Table 7-4). -/
structure Attributes where
  slotQuota : Nat
  recordQuota : Nat
  policy : ResetPolicy
  urgent : Bool
  unleased : Bool
  notices : Bool
  deriving DecidableEq, Repr

/-- The part parameters by name (Table 10-1). -/
inductive ParamName where
  | guard | overlap | confirmWindow | leaseWarn | poolLow | poolFloor | waitPolicy | syncWindow
  deriving DecidableEq, Repr

/-- A table command with its arguments, as the engine holds it (R46). -/
inductive Request where
  | reserve (a : ReserveArgs)
  | release (h : Handle)
  | renew (h : Handle) (length : Nat)
  | query (h : Handle)
  | listOwned (start : Nat)
  | readMap (range : Run)
  | cancelWait (ticket : Byte)
  | relocate (a : RelocateArgs)
  | confirmMove (h : Handle)
  | declineMove (h : Handle)
  | setWatch (a : SetWatchArgs)
  | clearWatch (unit : UnitIx)
  | rearmWatch (unit : UnitIx)
  | bar (run : Run)
  | unbar (run : Run)
  | forceRelease (h : Handle)
  | setParam (name : ParamName) (value : Nat)
  | setPort (port : Port) (attrs : Attributes)
  | resetPort (port : Port)
  | readParams
  deriving DecidableEq, Repr

/-! ## The Allocation Engine (chapter 3) -/

/-- A placement search under way (R52, R61): its arguments, the roving pointer as read when it began, and the readings
made so far, one for each slot in scan order, oldest first (true: the slot was read as FREE). -/
structure Scan where
  args : SearchArgs
  start : Nat
  seen : List Bool
  deriving DecidableEq, Repr

/-- The command in the engine (R46). `withdrawn` is set when its port is reset (R54). -/
structure Command where
  port : Port
  tag : Byte
  req : Request
  withdrawn : Bool
  scan : Option Scan
  deriving DecidableEq, Repr

/-- A successful trial of a pass: the entry's ticket and the set found (R68). -/
structure Trial where
  ticket : Byte
  set : List Run
  deriving DecidableEq, Repr

/-- A pass under way (R68, R74): the tickets of the entries still to be tried in service order, the search of the trial
in hand, the successful trials in the order made, and the roving pointer as they would leave it. -/
structure Pass where
  todo : List Byte
  inHand : Option (Byte × Scan)
  trials : List Trial
  rover : Nat
  deriving DecidableEq, Repr

/-- The work in hand (R46): IDLE, COMMAND or PASS. -/
inductive Work where
  | idle
  | command (c : Command)
  | pass (p : Pass)
  deriving DecidableEq, Repr

/-- The Allocation Engine (R46, Table 3-1). -/
structure Engine where
  work : Work
  rrPos : Port
  rover : Nat
  waitReq : Bool
  deriving DecidableEq, Repr

/-! ## The Wait List (chapter 4) -/

/-- A wait entry (R69, Table 4-1). `remaining` is none for an unlimited wait.
Its arrival number is its place in the list (R70). -/
structure WaitEntry where
  ticket : Byte
  port : Port
  cls : ResClass
  search : SearchArgs
  lease : Nat
  remaining : Option Nat
  deriving DecidableEq, Repr

/-- The Wait List: the entries in the order of their making, and the last ticket issued (R69, R71). -/
structure WaitList where
  entries : List WaitEntry
  lastTicket : Byte
  deriving DecidableEq, Repr

/-! ## The Frame Timing Unit (chapter 5) -/

/-- Sync states (R85). -/
inductive Sync where
  | searching | locked | lost
  deriving DecidableEq, Repr

/-- The slot index (R91). -/
inductive SlotIndex where
  | none
  | slot (i : SlotIx)
  | beyond
  deriving DecidableEq, Repr

/-- The Frame Timing Unit with the owner lines it drives (R85, Table 5-1, R93). `timer` is none while stopped, else
the span in microseconds. -/
structure FrameTiming where
  sync : Sync
  lastMark : Word
  frameCounter : Word
  timer : Option Nat
  slotIndex : SlotIndex
  edgeCount : Nat
  errorCount : Nat
  ownv : Bool
  own : BitVec 3
  deriving DecidableEq, Repr

/-- The marks handed to each of the four blocks and not yet reacted to, oldest first (R89). -/
structure OutstandingMarks where
  slotMap : List Word
  lease : List Word
  move : List Word
  wait : List Word
  deriving DecidableEq, Repr

/-! ## The Move Unit (chapter 6) -/

/-- The stage of a move with the fields of the stage (R103, Table 6-1). -/
inductive Stage where
  | offered (confirm : Nat)
  | armed
  | overlap (remaining : Nat) (start : Word)
  deriving DecidableEq, Repr

/-- A move context in use (R103, Table 6-1). `requester` is the port and the tag, none once dropped (R121). -/
structure MoveContext where
  index : RecIx
  gen : Byte
  requester : Option (Port × Byte)
  stage : Stage
  target : List Run
  deriving DecidableEq, Repr

/-! ## Client ports, event queues and responses (chapters 7, 8, 11) -/

/-- Status codes (Table 11-9). -/
inductive Status where
  | ok | queued | empty | busy | linkFault | badTag | badCommand | badArgument | notPermitted
  | badHandle | notOwner | wrongState | noRoom | waitFull | quotaExceeded | poolExhausted | noMoveContext
  deriving DecidableEq, Repr

/-- A stored response (R134). `answers` tells whether it answers an accepted command, so that its tag is in flight. -/
structure Response where
  tag : Byte
  status : Status
  body : List Byte
  answers : Bool
  deriving DecidableEq, Repr

/-- An accepted command that is still unanswered (R133). -/
structure QueuedCommand where
  tag : Byte
  code : Byte
  body : List Byte
  taken : Bool
  deriving DecidableEq, Repr

/-- The transfer on a link (R127). -/
inductive Link where
  /-- CPnSEL is high. -/
  | none
  /-- A transfer is open; its status byte was formed at the fall of CPnSEL (R128). -/
  | opened (status : Byte)
  /-- A collect transfer: its status byte, the chosen frame, and whether the chosen response still stands stored
  (R136, R137). -/
  | collecting (status : Byte) (frame : List Byte) (stored : Bool)
  /-- CPnSEL was low while RESET was low: ignored until it rises (R146). -/
  | ignored
  deriving DecidableEq, Repr

/-- Reasons of MOVE_ABANDONED (Table 8-1). -/
inductive Reason where
  | declined | timeout | slotBarred | ownerReset | released
  deriving DecidableEq, Repr

/-- The sixteen event kinds, each with the fields it carries (R147, R148, Table 8-2). `tag` is the ticket field of a
move event: the requester tag, or 255 where the requester has been dropped (R124). -/
inductive EventBody where
  | granted (ticket : Byte) (h : Handle) (set : List Run)
  | live (h : Handle) (set : List Run)
  | expired (h : Handle) (set : List Run)
  | leaseLow (h : Handle) (remaining : Nat)
  | releasedByAdmin (h : Handle) (set : List Run)
  | waitExpired (ticket : Byte)
  | moveOffer (h : Handle) (tag : Byte) (target : List Run) (deadline : Word)
  | moveStarted (h : Handle) (tag : Byte) (target : List Run)
  | moveDone (h : Handle) (tag : Byte) (set : List Run)
  | moveAbandoned (h : Handle) (tag : Byte) (target : List Run) (reason : Reason)
  | watch (unit : UnitIx) (result : Bool)
  | poolLow (free : Nat)
  | poolRecovered (free : Nat)
  | syncLocked
  | syncLost
  | barDone (total : Nat) (set : List Run)
  deriving DecidableEq, Repr

/-- An event record: kind with fields, and frame stamp (R147). -/
structure Event where
  stamp : Word
  body : EventBody
  deriving DecidableEq, Repr

/-- All that the part keeps for one port: the link, queues, tags and counters of the Client Port (R127 to R142), the
event queue and lost count (R150), the attributes and the administrator right of the Configuration block (R173), the
holdings of the Record Pool (R33) and the promised count of the Wait List (R73). -/
structure ClientPort where
  link : Link
  queue : List QueuedCommand
  stored : List Response
  inFlight : List Byte
  faultCount : Nat
  lastFaulted : Bool
  dropped : Nat
  events : List Event
  lost : Nat
  attrs : Attributes
  admin : Bool
  ownedSlots : Nat
  ownedRecords : Nat
  promised : Nat
  deriving DecidableEq, Repr

/-! ## Watch Units and reports (chapters 1, 2, 9) -/

/-- A member of a RES_STATE unit with its met mark (R163). -/
structure Member where
  handle : Handle
  met : Bool
  deriving DecidableEq, Repr

/-- The condition of a unit with the state it keeps for it (R162, R163). -/
inductive WatchCond where
  | freeCount (lo hi threshold count : Nat)
  | resState (required : Required) (comb : Combination) (members : List Member)
  deriving DecidableEq, Repr

/-- A watch unit in use (R161, Table 9-1). `armed` tells ARMED from HELD; `last` is the last result. -/
structure WatchUnit where
  owner : Port
  armed : Bool
  cond : WatchCond
  edge : Edge
  targets : BitVec 6
  mode : WatchMode
  last : Bool
  deriving DecidableEq, Repr

/-- A report handed to the Watch Units: a watch report of the Slot Map (R20), or a record report naming a handle with
its state, none for not present (R166). -/
inductive Report where
  | slots (changes : List SlotChange)
  | record (h : Handle) (state : Option ResState)
  deriving DecidableEq, Repr

/-- A promotion report: the mark's number and the promoted indices with the role, in ascending order of index (R17). -/
structure PromotionReport where
  mark : Word
  promoted : List (RecIx × Role)
  deriving DecidableEq, Repr

/-- The reports handed and not yet taken, oldest first. -/
structure Reports where
  pool : List PromotionReport
  move : List PromotionReport
  watch : List Report
  deriving DecidableEq, Repr

/-! ## Configuration (chapter 10) -/

/-- Policies of a pass (R74). -/
inductive WaitPolicy where
  | strict | fit
  deriving DecidableEq, Repr

/-- The part parameters (R173, Table 10-1). -/
structure Params where
  guard : Nat
  overlap : Nat
  confirmWindow : Nat
  leaseWarn : Nat
  poolLow : Nat
  poolFloor : Nat
  waitPolicy : WaitPolicy
  syncWindow : Nat
  deriving DecidableEq, Repr

/-! ## The machine -/

/-- The whole part, with the queue of commands that wait (`pending`, the host's interface, log 1). `resetLow` is the
level of RESET: true while it is held low (R189). -/
structure State where
  pending : List Instr
  resetLow : Bool
  map : SlotMap
  pool : RecordPool
  engine : Engine
  waits : WaitList
  timing : FrameTiming
  marks : OutstandingMarks
  moves : Table (Option MoveContext) 4
  ports : Table ClientPort 6
  units : Table (Option WatchUnit) 8
  reports : Reports
  params : Params
  deriving DecidableEq, Repr

/-- Reasons for which a step stops with a fault: none. The spec gives the part no fault that stops it; every error is an
answer on a link (Table 11-9) or a count, and the machine goes on. -/
inductive Fault where
  deriving DecidableEq, Repr

/-- Reasons for which a command is turned away without a meaning. -/
inductive Refusal where
  /-- Raised by `exec` alone, for a row that has no meaning yet (safe). No arm raises it: every row has its meaning. -/
  | notModelled (mnemonic : String)
  deriving DecidableEq, Repr

/-! ## Reset -/

/-- Table 1-8. -/
def SlotMap.reset : SlotMap where
  entries := Table.replicate 512 .free
  freeCount := 512
  barredCount := 0
  drainingCount := 0
  image := Table.replicate 512 none
  imageMark := none
  carry := []

/-- Table 2-3. -/
def RecordPool.reset : RecordPool where
  records := Table.replicate 192 ⟨0#8, none⟩
  fifo := List.finRange 192
  warnArmed := true

/-- Table 3-1. -/
def Engine.reset : Engine where
  work := .idle
  rrPos := 5
  rover := 0
  waitReq := false

/-- Table 4-2. -/
def WaitList.reset : WaitList where
  entries := []
  lastTicket := 255#8

/-- Table 5-1; OWNV is low (R85). -/
def FrameTiming.reset : FrameTiming where
  sync := .searching
  lastMark := 0#16
  frameCounter := 0#16
  timer := none
  slotIndex := .none
  edgeCount := 0
  errorCount := 0
  ownv := false
  own := 0#3

/-- The defaults of Table 7-4 for a port whose administrator right is `admin`. -/
def Attributes.reset (admin : Bool) : Attributes where
  slotQuota := 128
  recordQuota := 48
  policy := .reclaim
  urgent := admin
  unleased := admin
  notices := admin

/-- Tables 2-3, 4-2, 7-5 and 8-3 for one port; the link is given, since CPnSEL is an input. -/
def ClientPort.reset (link : Link) (admin : Bool) : ClientPort where
  link := link
  queue := []
  stored := []
  inFlight := []
  faultCount := 0
  lastFaulted := false
  dropped := 0
  events := []
  lost := 0
  attrs := Attributes.reset admin
  admin := admin
  ownedSlots := 0
  ownedRecords := 0
  promised := 0

/-- Table 10-6. -/
def Params.reset : Params where
  guard := 2
  overlap := 4
  confirmWindow := 800
  leaseWarn := 64
  poolLow := 16
  poolFloor := 4
  waitPolicy := .fit
  syncWindow := 125

/-- The level of strap n in `straps`. -/
def strapOf (straps : BitVec 6) (n : Nat) : Bool :=
  straps.getLsbD n

/-- The machine right after power-on reset: RESET has returned high with the straps of `Config.resetStraps`
(DESIGN CHOICE, unsafe, log 5), every block at its power-on values (R189), and no command waits. -/
def State.reset : State where
  pending := []
  resetLow := false
  map := SlotMap.reset
  pool := RecordPool.reset
  engine := Engine.reset
  waits := WaitList.reset
  timing := FrameTiming.reset
  marks := ⟨[], [], [], []⟩
  moves := Table.replicate 4 none
  ports := (Table.replicate 6 ()).map fun n _ => ClientPort.reset .none (strapOf Config.resetStraps n)
  units := Table.replicate 8 none
  reports := ⟨[], [], []⟩
  params := Params.reset

end Sys2Proof.Machine
end

