-- ==== Sys2Proof/Machine/Ops.lean ====
section
/-! DEFINITION. The operations every command is built from: runs and sets, claims on the Slot Map, postings, the record
pool, wait entries, moves and the port reset. Each is whole, as the rule it cites says. -/

namespace Sys2Proof.Machine

/-! ## Runs, sets and entries -/

/-- The slot lies in the run. -/
def Run.has (r : Run) (i : Nat) : Bool :=
  decide (r.first ≤ i) && decide (i < r.first + r.len)

/-- The slots of a run in ascending order. -/
def Run.slots (r : Run) : List Nat :=
  List.range' r.first r.len

/-- The slot lies in one of the runs. -/
def inSet (set : List Run) (i : Nat) : Bool :=
  set.any fun r => r.has i

/-- The number of slots of a set. -/
def setTotal (set : List Run) : Nat :=
  (set.map Run.len).sum

/-- The state of an entry (R1). -/
def Slot.state : Slot → SlotState
  | .free => .free
  | .held .. => .held
  | .live .. => .live
  | .draining .. => .draining
  | .barred => .barred

/-- Bar pending of an entry, no where the field is absent (R1, R22). -/
def Slot.barPending : Slot → Bool
  | .held _ _ _ b => b
  | .live _ _ b => b
  | .draining _ b => b
  | .free => false
  | .barred => false

/-- The slot is FREE; a number above 511 is no slot. -/
def SlotMap.isFree (m : SlotMap) (i : Nat) : Bool :=
  m.entries.toList[i]? == some .free

/-- All record indices, ascending. -/
def allRecords : List RecIx := List.finRange 192

/-- All contexts, ascending. -/
def allContexts : List CtxIx := List.finRange 4

/-- All ports, ascending. -/
def allPorts : List Port := List.finRange 6

/-- All watch units, ascending. -/
def allUnits : List UnitIx := List.finRange 8

/-! ## Small updates of the state -/

/-- Change what the part keeps for one port. -/
def State.modPort (p : Port) (f : ClientPort → ClientPort) (s : State) : State :=
  { s with ports := s.ports.modify p f }

/-- Set the wait-pass request; setting it while it is set leaves it set (R67). -/
def State.requestPass (s : State) : State :=
  { s with engine := { s.engine with waitReq := true } }

/-- Hand a report to the Watch Units, behind those already handed (R165). -/
def State.handReport (r : Report) (s : State) : State :=
  { s with reports := { s.reports with watch := s.reports.watch ++ [r] } }

/-- Change the fields of an allocated record; a free record has none. -/
def State.modReservation (i : RecIx) (f : Reservation → Reservation) (s : State) : State :=
  { s with pool := { s.pool with
      records := s.pool.records.modify i fun r => { r with alloc := r.alloc.map f } } }

/-- Write a move context, or free it (R103). -/
def State.setMove (k : CtxIx) (c : Option MoveContext) (s : State) : State :=
  { s with moves := s.moves.set k c }

/-- Write a watch unit, or free it (R161). -/
def State.setUnit (k : UnitIx) (u : Option WatchUnit) (s : State) : State :=
  { s with units := s.units.set k u }

/-- Put other work, or none, in the engine's hand (R46). -/
def State.setWork (w : Work) (s : State) : State :=
  { s with engine := { s.engine with work := w } }

/-! ## Events (chapter 8) -/

/-- A posting at one queue: the record joins the tail, or is discarded and counted (R151). -/
def ClientPort.post (e : Event) (c : ClientPort) : ClientPort :=
  if c.events.length < Config.eventDepth then { c with events := c.events ++ [e] }
  else { c with lost := min 255 (c.lost + 1) }

/-- Post an event to a port, save to `mute`, a port being reset (R188). -/
def State.post (mute : Option Port) (stamp : Word) (body : EventBody) (p : Port) (s : State) : State :=
  if mute = some p then s else s.modPort p (ClientPort.post ⟨stamp, body⟩)

/-- Post a part-wide event to every notice port save `mute` (R143, R153). -/
def State.postNotices (mute : Option Port) (stamp : Word) (body : EventBody) (s : State) : State :=
  { s with ports := s.ports.map fun n c =>
      if c.attrs.notices && mute.all (fun q => q.val != n) then c.post ⟨stamp, body⟩ else c }

/-- Post an event to each port of a list, in order, each port once (R152). -/
def State.postEach (mute : Option Port) (stamp : Word) (body : EventBody) (ps : List Port) (s : State) :
    State :=
  ps.foldl (fun s p => s.post mute stamp body p) s

/-- The stamp of an event whose rule gives no number of its own: the frame counter (R149). -/
def State.now (s : State) : Word :=
  s.timing.frameCounter

/-! ## Claims on the Slot Map (chapter 1) -/

/-- The slots whose state differs between two lists of entries, counting from slot `i`, ascending (R20). -/
def changesFrom : Nat → List Slot → List Slot → List SlotChange
  | i, a :: as, b :: bs =>
    if a.state = b.state then changesFrom (i + 1) as bs
    else ⟨i, a.state, b.state⟩ :: changesFrom (i + 1) as bs
  | _, [], _ => []
  | _, _ :: _, [] => []

/-- The changes of state a claim would make. -/
def SlotMap.changes (m : SlotMap) (f : Nat → Slot → Slot) : List SlotChange :=
  changesFrom 0 m.entries.toList (m.entries.map f).toList

/-- How many of the changes end in a state. -/
def entering (st : SlotState) (ch : List SlotChange) : Nat :=
  ch.countP fun c => c.after = st

/-- How many of the changes begin in a state. -/
def leaving (st : SlotState) (ch : List SlotChange) : Nat :=
  ch.countP fun c => c.before = st

/-- Apply a claim to every entry, whole, and move the three counts by the slots moved (R3, R4). -/
def SlotMap.rewrite (f : Nat → Slot → Slot) (m : SlotMap) : SlotMap :=
  let ch := m.changes f
  { m with
    entries := m.entries.map f
    freeCount := m.freeCount + entering .free ch - leaving .free ch
    barredCount := m.barredCount + entering .barred ch - leaving .barred ch
    drainingCount := m.drainingCount + entering .draining ch - leaving .draining ch }

/-- The slots of a claim's changes whose pending bar completed: into BARRED from HELD or DRAINING, ascending (R12).
A slot barred from FREE had no pending bar (R175). -/
def completedBars (ch : List SlotChange) : List Nat :=
  (ch.filter fun c => c.after = .barred && c.before ≠ .free).map SlotChange.slot

/-- Ascending slots as maximal runs of adjacent slots, split after 64 slots (R12). -/
def barRuns : List Nat → List Run
  | [] => []
  | i :: rest =>
    match barRuns rest with
    | [] => [⟨i, 1⟩]
    | r :: rs => if r.first = i + 1 then ⟨i, r.len + 1⟩ :: rs else ⟨i, 1⟩ :: r :: rs

/-- One maximal stretch cut into pieces of 64 slots, the last of what is left (R12). -/
def splitRun : Nat → Run → List Run
  | 0, r => [r]
  | k + 1, r =>
    if r.len ≤ Config.maxRun then [r]
    else ⟨r.first, Config.maxRun⟩ :: splitRun k ⟨r.first + Config.maxRun, r.len - Config.maxRun⟩

/-- The slot set of a BAR_DONE: the first four runs of the completed slots (R12). -/
def barDoneSet (slots : List Nat) : List Run :=
  ((barRuns slots).flatMap (splitRun 8)).take Config.maxRuns

/-- The reports of a claim or reaction once it is whole: capacity returned where a slot turned FREE (R19), BAR_DONE
where a pending bar completed (R12), and the watch report where a state changed (R20). -/
def State.reportChanges (mute : Option Port) (ch : List SlotChange) (s : State) : State :=
  let s1 := if ch.any (fun c => c.after = .free) then s.requestPass else s
  let bars := completedBars ch
  let s2 := if bars.isEmpty then s1
    else s1.postNotices mute s1.now (.barDone bars.length (barDoneSet bars))
  if ch.isEmpty then s2 else s2.handReport (.slots ch)

/-- A claim on the Slot Map: applied whole, then its reports (R4). `mute` is a port being reset (R188). -/
def State.claim (mute : Option Port) (f : Nat → Slot → Slot) (s : State) : State :=
  State.reportChanges mute (s.map.changes f) { s with map := s.map.rewrite f }

/-- Grant claim: the slots of the set go to HELD, armed, CURRENT, bar pending no (R5). -/
def grantSlot (idx : RecIx) (set : List Run) (i : Nat) (e : Slot) : Slot :=
  if inSet set i then .held idx .current true false else e

/-- Target claim: the slots of the set go to HELD, TARGET, armed as given, bar pending no (R6). -/
def targetSlot (idx : RecIx) (set : List Run) (armed : Bool) (i : Nat) (e : Slot) : Slot :=
  if inSet set i then .held idx .target armed false else e

/-- Arm claim: the HELD slots of the set take armed yes (R7). -/
def armSlot (set : List Run) (i : Nat) (e : Slot) : Slot :=
  if inSet set i then
    match e with
    | .held idx role _ b => .held idx role true b
    | .free => .free
    | .live idx role b => .live idx role b
    | .draining n b => .draining n b
    | .barred => .barred
  else e

/-- Give-up claim: each slot of the set by its state, as Table 1-4 gives (R8, R12). -/
def giveUpSlot (guard : Nat) (set : List Run) (i : Nat) (e : Slot) : Slot :=
  if inSet set i then
    match e with
    | .held _ _ _ b => if b then .barred else .free
    | .live _ _ b => .draining guard b
    | .free => .free
    | .draining n b => .draining n b
    | .barred => .barred
  else e

/-- Cutover claim: the old set drains for GUARD, the new set takes role CURRENT; bar pending is kept (R10). -/
def cutoverSlot (guard : Nat) (old new : List Run) (i : Nat) (e : Slot) : Slot :=
  match e with
  | .live idx role b =>
    if inSet old i then .draining guard b
    else if inSet new i then .live idx .current b
    else .live idx role b
  | .free => .free
  | .held idx role a b => .held idx role a b
  | .draining n b => .draining n b
  | .barred => .barred

/-- Bar claim: FREE goes to BARRED; HELD, LIVE and DRAINING take bar pending (R11). -/
def barSlot (run : Run) (i : Nat) (e : Slot) : Slot :=
  if run.has i then
    match e with
    | .free => .barred
    | .held idx role a _ => .held idx role a true
    | .live idx role _ => .live idx role true
    | .draining n _ => .draining n true
    | .barred => .barred
  else e

/-- Unbar claim: BARRED goes to FREE; bar pending is cleared (R13). -/
def unbarSlot (run : Run) (i : Nat) (e : Slot) : Slot :=
  if run.has i then
    match e with
    | .barred => .free
    | .held idx role a _ => .held idx role a false
    | .live idx role _ => .live idx role false
    | .draining n _ => .draining n false
    | .free => .free
  else e

/-! ## Records and holdings (chapter 2) -/

/-- The handle that names record `i` at generation `gen`. -/
def handleOf (i : RecIx) (gen : Byte) : Handle :=
  ⟨BitVec.ofNat 8 i.val, gen⟩

/-- The check of a handle: index at most 191, record allocated, generation equal (R26). -/
def State.lookup (h : Handle) (s : State) : Option (RecIx × Reservation) :=
  if lt : h.index.toNat < 192 then
    let r := s.pool.records.get ⟨h.index.toNat, lt⟩
    match r.alloc with
    | some a => if r.gen = h.gen then some (⟨h.index.toNat, lt⟩, a) else none
    | none => none
  else none

/-- The fields of record `i` while it is allocated. -/
def State.reservation (i : RecIx) (s : State) : Option Reservation :=
  (s.pool.records.get i).alloc

/-- The owner of record `i` while it is allocated. -/
def State.ownerOf (i : RecIx) (s : State) : Option Port :=
  (s.reservation i).map Reservation.owner

/-- The free record count (R28). -/
def State.freeRecords (s : State) : Nat :=
  s.pool.fifo.length

/-- The pool check for a class at a free record count (R30). -/
def poolCheck (cls : ResClass) (free floor : Nat) : Bool :=
  decide (free ≠ 0) && (decide (cls = .urgent) || decide (floor < free))

/-- The quota check of a port for `n` further slots and one further record (R57, R68). -/
def quotaCheck (c : ClientPort) (n : Nat) : Bool :=
  decide (c.ownedSlots + c.promised + n ≤ c.attrs.slotQuota) &&
    decide (c.ownedRecords + 1 ≤ c.attrs.recordQuota)

/-- The lease of an allocation: absent for 0 (R29, R102). -/
def leaseOf (length : Nat) : Option Lease :=
  if length = 0 then none else some ⟨length, length, false⟩

/-- Allocate record `i`, which left the head of the FIFO (`rest` is what stays), and raise the owner's holdings
(R29, R33). -/
def State.allocate (i : RecIx) (rest : List RecIx) (owner : Port) (cls : ResClass) (set : List Run)
    (lease : Nat) (ticket : Option Byte) (s : State) : State :=
  let a : Reservation :=
    { state := .pending, owner := owner, cls := cls, set := set, lease := leaseOf lease,
      context := none, ticket := ticket, grantFrame := s.now }
  State.modPort owner
    (fun c => { c with ownedSlots := c.ownedSlots + setTotal set, ownedRecords := c.ownedRecords + 1 })
    { s with pool := { s.pool with
        records := s.pool.records.modify i fun r => { r with alloc := some a }
        fifo := rest } }

/-- The warning after an allocation (R31). -/
def State.judgeWarning (s : State) : State :=
  if s.pool.warnArmed && decide (s.freeRecords ≤ s.params.poolLow) then
    State.postNotices none s.now (.poolLow s.freeRecords)
      { s with pool := { s.pool with warnArmed := false } }
  else s

/-- The recovery level (R32). -/
def State.recoveryLevel (s : State) : Nat :=
  min 192 (s.params.poolLow + Config.recoveryStep)

/-- The recovery is due: the flag is clear and the free record count is at or above the recovery level (R32). -/
def State.recoveryDue (s : State) : Bool :=
  !s.pool.warnArmed && decide (s.recoveryLevel ≤ s.freeRecords)

/-- The recovery after a change of the free record count (R32). -/
def State.judgeRecovery (mute : Option Port) (s : State) : State :=
  if s.recoveryDue then
    State.postNotices mute s.now (.poolRecovered s.freeRecords)
      { s with pool := { s.pool with warnArmed := true } }
  else s

/-- The slot after the last slot of the last run of a set, 512 giving 0 (R65). -/
def roverAfter (set : List Run) (p : Nat) : Nat :=
  match set.getLast? with
  | some r => if r.first + r.len = 512 then 0 else r.first + r.len
  | none => p

/-- The roving pointer after a search with this placement found this set: an AT search does not move it (R65). -/
def roverMoved (place : Placement) (set : List Run) (p : Nat) : Nat :=
  match place with
  | .atRuns _ => p
  | .nextFit => roverAfter set p
  | .lowFit => roverAfter set p

/-- Move the roving pointer for a grant (R65). -/
def State.moveRover (place : Placement) (set : List Run) (s : State) : State :=
  { s with engine := { s.engine with rover := roverMoved place set s.engine.rover } }

/-- A grant up to the pointer: allocation, grant claim, roving pointer (R59, R77). -/
def State.grant (i : RecIx) (rest : List RecIx) (owner : Port) (cls : ResClass) (set : List Run)
    (lease : Nat) (ticket : Option Byte) (place : Placement) (s : State) : State :=
  State.moveRover place set
    (State.claim none (grantSlot i set) (s.allocate i rest owner cls set lease ticket))

/-- The end of a grant of record `i`: the warning and the recovery are judged and the record report is handed with
state PENDING (R29, R31, R32, R59, R77). R77 places the warning after GRANTED and does not place the recovery; judging it here,
with the warning and so after GRANTED, is the model's choice (DESIGN CHOICE, log 15). -/
def State.grantReports (i : RecIx) (s : State) : State :=
  State.handReport (.record (handleOf i (s.pool.records.get i).gen) (some .pending))
    (State.judgeRecovery none s.judgeWarning)

/-- Free record `i` with fields `a`: the generation advances, the record joins the tail of the FIFO, the owner's
holdings fall (R27, R28, R33, R36). -/
def State.freeRecord (i : RecIx) (a : Reservation) (s : State) : State :=
  State.modPort a.owner
    (fun c => { c with ownedSlots := c.ownedSlots - setTotal a.set, ownedRecords := c.ownedRecords - 1 })
    { s with pool := { s.pool with
        records := s.pool.records.modify i fun r => ⟨r.gen + 1#8, none⟩
        fifo := s.pool.fifo ++ [i] } }

/-- Causes of the release procedure (R36). -/
inductive Cause where
  | release | force | expiry | reset
  deriving DecidableEq, Repr

/-- The move context of a MOVING record (R24, R104). -/
def State.contextOf (a : Reservation) (s : State) : Option (CtxIx × MoveContext) :=
  match a.state, a.context with
  | .moving, some k => (s.moves.get k).map fun c => (k, c)
  | .moving, none => none
  | .pending, _ => none
  | .live, _ => none

/-- The target set of a MOVING record, empty for any other. -/
def State.targetOf (a : Reservation) (s : State) : List Run :=
  match s.contextOf a with
  | some (_, c) => c.target
  | none => []

/-- The claim the release procedure makes on the sets of `a` (R36). -/
def State.releaseClaim (a : Reservation) (s : State) : Nat → Slot → Slot :=
  giveUpSlot s.params.guard (a.set ++ s.targetOf a)

/-- The number of slots that releasing `a` puts into DRAINING (R39). -/
def State.releaseDrained (a : Reservation) (s : State) : Nat :=
  entering .draining (s.map.changes (s.releaseClaim a))

/-- The ticket field of a move event: the requester tag, or 255 where the requester has been dropped (R124). -/
def MoveContext.tagField (c : MoveContext) : Byte :=
  match c.requester with
  | some (_, t) => t
  | none => 255#8

/-- Free the context of a moving record, if it has one. -/
def State.freeContextOf (a : Reservation) (s : State) : State :=
  match s.contextOf a with
  | some (k, _) => s.setMove k none
  | none => s

/-- The event of the cause (R37). -/
def State.postCause (cause : Cause) (releasing : Option Port) (h : Handle) (a : Reservation) (s : State) :
    State :=
  match cause with
  | .release => s
  | .force =>
    if releasing = some a.owner then s else s.post none s.now (.releasedByAdmin h a.set) a.owner
  | .expiry => s.post none s.now (.expired h a.set) a.owner
  | .reset => s

/-- MOVE_ABANDONED with reason RELEASED to a requester that is not the releasing port (R36, R118). -/
def State.postReleased (releasing : Option Port) (h : Handle) (ctx : Option (CtxIx × MoveContext))
    (s : State) : State :=
  match ctx with
  | some (_, c) =>
    match c.requester with
    | some (q, _) =>
      if releasing = some q then s
      else s.post none s.now (.moveAbandoned h c.tagField c.target .released) q
    | none => s
  | none => s

/-- The port a release is silent towards: the reset port, for cause RESET (R37, R188). -/
def muteOf (cause : Cause) (releasing : Option Port) : Option Port :=
  match cause with
  | .reset => releasing
  | .release => none
  | .force => none
  | .expiry => none

/-- The release procedure on record `i`, whole (R36), with its events in the order of R37: LIVE where a PENDING set was
found LIVE, MOVE_ABANDONED, the event of the cause, POOL_RECOVERED. BAR_DONE leaves with the give-up claim (log 8). -/
def State.releaseRecord (i : RecIx) (cause : Cause) (releasing : Option Port) (s : State) : State :=
  match s.reservation i with
  | none => s
  | some a =>
    let h := handleOf i (s.pool.records.get i).gen
    let mute := muteOf cause releasing
    let ctx := s.contextOf a
    let foundLive := decide (a.state = .pending) && decide (s.releaseDrained a ≠ 0)
    let s1 := s.claim mute (s.releaseClaim a)
    let s2 := (s1.freeContextOf a).freeRecord i a
    let s3 := s2.requestPass.handReport (.record h none)
    let s4 := if foundLive then s3.post mute s3.now (.live h a.set) a.owner else s3
    let s5 := s4.postReleased releasing h ctx
    let s6 := s5.postCause cause releasing h a
    s6.judgeRecovery mute

/-! ## Moves (chapter 6) -/

/-- A record leaves MOVING for LIVE (R35). -/
def State.returnToLive (i : RecIx) (s : State) : State :=
  s.modReservation i fun a => { a with state := .live, context := none }

/-- The requester's port of a context. -/
def MoveContext.requesterPort (c : MoveContext) : Option Port :=
  c.requester.map Prod.fst

/-- The owner, then the requester if present and another port: each once (R116, R117, R124). -/
def ownerThenRequester (owner : Option Port) (c : MoveContext) : List Port :=
  owner.toList ++ (c.requesterPort.toList.filter fun q => decide (owner ≠ some q))

/-- Who is told of an abandonment (R117): owner and requester, but for OWNER_RESET the requester alone. -/
def abandonRecipients (reason : Reason) (owner : Option Port) (c : MoveContext) : List Port :=
  match reason with
  | .ownerReset => c.requesterPort.toList
  | .declined => ownerThenRequester owner c
  | .timeout => ownerThenRequester owner c
  | .slotBarred => ownerThenRequester owner c
  | .released => ownerThenRequester owner c

/-- Abandon the move of context `k` outside the release procedure, whole (R117). -/
def State.abandonMove (k : CtxIx) (reason : Reason) (stamp : Word) (mute : Option Port) (s : State) :
    State :=
  match s.moves.get k with
  | none => s
  | some c =>
    let s1 := s.claim mute (giveUpSlot s.params.guard c.target)
    let s2 := (s1.returnToLive c.index).setMove k none
    let s3 := s2.postEach mute stamp
      (.moveAbandoned (handleOf c.index c.gen) c.tagField c.target reason)
      (abandonRecipients reason (s.ownerOf c.index) c)
    s3.handReport (.record (handleOf c.index c.gen) (some .live))

/-- The number of contexts in use (R103). -/
def State.contextsInUse (s : State) : Nat :=
  s.moves.toList.countP Option.isSome

/-! ## Wait entries (chapter 4) -/

/-- Service order: URGENT, then NORMAL, then BULK, each in order of arrival (R70). -/
def serviceOrder (es : List WaitEntry) : List WaitEntry :=
  (es.filter fun e => e.cls = .urgent) ++ (es.filter fun e => e.cls = .normal) ++
    es.filter fun e => e.cls = .bulk

/-- The entry that holds a ticket (R71). -/
def WaitList.find (ticket : Byte) (w : WaitList) : Option WaitEntry :=
  w.entries.find? fun e => e.ticket = ticket

/-- The first ticket at or after `t` that no entry holds, looking `k` further values on (R71). -/
def freeTicket (held : List Byte) : Nat → Byte → Byte
  | 0, t => t
  | k + 1, t => if held.contains t then freeTicket held k (t + 1#8) else t

/-- The ticket issued next (R71). -/
def WaitList.nextTicket (w : WaitList) : Byte :=
  freeTicket (w.entries.map WaitEntry.ticket) w.entries.length (w.lastTicket + 1#8)

/-- An entry leaves the list: its ticket leaves use, its port's promised count falls by its n, the wait-pass request is
set (R73, R77, R80, R82). The arrival numbers close up by themselves: they are places in the list (R70). -/
def State.removeEntry (e : WaitEntry) (s : State) : State :=
  State.requestPass
    (State.modPort e.port (fun c => { c with promised := c.promised - e.search.n })
      { s with waits := { s.waits with entries := s.waits.entries.filter fun x => x.ticket ≠ e.ticket } })

/-! ## Responses (chapter 7) -/

/-- Free response places of a port (R134). -/
def ClientPort.freePlaces (c : ClientPort) : Nat :=
  Config.responsePlaces - c.stored.length - c.queue.length

/-- The answer to the command at the head of a port's queue fills its reserved place and takes it out of the queue
(R133, R134). A port without a command has no reserved place. -/
def ClientPort.answer (tag : Byte) (status : Status) (body : List Byte) (c : ClientPort) : ClientPort :=
  match c.queue with
  | [] => c
  | _ :: rest => { c with queue := rest, stored := c.stored ++ [⟨tag, status, body, true⟩] }

/-- Answer the head command of a port. -/
def State.answer (p : Port) (tag : Byte) (status : Status) (body : List Byte) (s : State) : State :=
  s.modPort p (ClientPort.answer tag status body)

/-- A refusal takes a free place, or is dropped and counted (R132). -/
def ClientPort.refuse (tag : Byte) (status : Status) (body : List Byte) (c : ClientPort) : ClientPort :=
  if 0 < c.freePlaces then { c with stored := c.stored ++ [⟨tag, status, body, false⟩] }
  else { c with dropped := min 255 (c.dropped + 1) }

/-! ## Port reset (chapter 10) -/

/-- The five counts of a port reset (R185). -/
structure ResetCounts where
  released : Nat
  kept : Nat
  abandoned : Nat
  entries : Nat
  units : Nat
  deriving DecidableEq, Repr

/-- The chosen response of an open collect no longer stands stored (R137). -/
def Link.forget : Link → Link
  | .collecting st frame _ => .collecting st frame false
  | .none => .none
  | .opened st => .opened st
  | .ignored => .ignored

/-- Steps one to three at the port: command queue, response queue, tags, event queue and lost count (R145, R158). -/
def ClientPort.clear (c : ClientPort) : ClientPort :=
  { c with link := c.link.forget, queue := [], stored := [], inFlight := [], events := [], lost := 0 }

/-- The engine's command of a port takes the withdrawn mark (R54). -/
def Work.withdraw (p : Port) : Work → Work
  | .command c => .command (if c.port = p then { c with withdrawn := true } else c)
  | .idle => .idle
  | .pass q => .pass q

/-- Step four: every wait entry of the port leaves the list silently (R83). -/
def State.removePortEntries (p : Port) (s : State) : State :=
  let s1 := State.modPort p (fun c => { c with promised := 0 })
    { s with waits := { s.waits with entries := s.waits.entries.filter fun e => e.port ≠ p } }
  if s.waits.entries.any (fun e => e.port = p) then s1.requestPass else s1

/-- Step five: the port's watch units are freed (R171). -/
def State.freePortUnits (p : Port) (s : State) : State :=
  { s with units := s.units.map fun _ u =>
      match u with
      | some w => if w.owner = p then none else some w
      | none => none }

/-- Step six: contexts whose requester is the port and whose record has another owner drop the requester (R121). -/
def State.dropRequester (p : Port) (s : State) : State :=
  { s with moves := s.moves.map fun _ m =>
      match m with
      | some c =>
        if c.requesterPort = some p && s.ownerOf c.index != some p then some { c with requester := none }
        else some c
      | none => none }

/-- Step seven for one record: by the reset policy (R43, R120). -/
def State.resetRecord (p : Port) (policy : ResetPolicy) (s : State) (i : RecIx) : State :=
  if s.ownerOf i = some p then
    match policy with
    | .reclaim => s.releaseRecord i .reset (some p)
    | .retain =>
      match (s.reservation i).bind s.contextOf with
      | some (k, c) =>
        match c.stage with
        | .offered _ => s.abandonMove k .ownerReset s.now (some p)
        | .armed => s
        | .overlap _ _ => s
      | none => s
  else s

/-- The number of records allocated to a port. -/
def State.countOwned (p : Port) (s : State) : Nat :=
  s.pool.records.toList.countP fun r => r.alloc.map Reservation.owner = some p

/-- Steps one to six of the port reset (R185). -/
def State.resetDealings (p : Port) (s : State) : State :=
  let s1 := (s.modPort p ClientPort.clear).setWork (s.engine.work.withdraw p)
  ((s1.removePortEntries p).freePortUnits p).dropRequester p

/-- The port reset of R185, steps one to seven in their order. The response of the last step is the caller's. -/
def State.portReset (p : Port) (s : State) : State :=
  let s1 := s.resetDealings p
  allRecords.foldl (fun t i => t.resetRecord p (s1.ports.get p).attrs.policy i) s1

/-- The counts the reset gives for its response (R185). -/
def State.resetCounts (p : Port) (s : State) : ResetCounts :=
  let policy := (s.ports.get p).attrs.policy
  let owned := s.countOwned p
  { released := if policy = .reclaim then owned else 0
    kept := if policy = .retain then owned else 0
    abandoned := s.contextsInUse - (s.portReset p).contextsInUse
    entries := s.waits.entries.countP fun e => e.port = p
    units := s.units.toList.countP fun u => u.map WatchUnit.owner = some p }

/-- The OK response of a reset of the caller's own port takes a free place, its tag the one tag in flight
(R145, R186, R187). -/
def ClientPort.placeResetAnswer (tag : Byte) (body : List Byte) (c : ClientPort) : ClientPort :=
  { c with stored := c.stored ++ [⟨tag, .ok, body, true⟩], inFlight := [tag] }

/-! ## Wrappers of the commands -/

/-- What the port's rights and attributes permit, the third kind of check (R51): URGENT and unleased reservations (R56),
and the administrator commands (R174). -/
def State.permits (p : Port) (r : Request) (s : State) : Bool :=
  let c := s.ports.get p
  match r with
  | .reserve a => (decide (a.cls ≠ .urgent) || c.attrs.urgent) && (decide (a.lease ≠ 0) || c.attrs.unleased)
  | .bar _ => c.admin
  | .unbar _ => c.admin
  | .forceRelease _ => c.admin
  | .setParam .. => c.admin
  | .setPort .. => c.admin
  | .resetPort _ => c.admin
  | .readParams => c.admin
  | .release _ => true
  | .renew .. => true
  | .query _ => true
  | .listOwned _ => true
  | .readMap _ => true
  | .cancelWait _ => true
  | .relocate _ => true
  | .confirmMove _ => true
  | .declineMove _ => true
  | .setWatch _ => true
  | .clearWatch _ => true
  | .rearmWatch _ => true

/-- The event of a completion: the engine is free after it (R50). A withdrawn command is dropped with no check, no effect
and no response (R54). The right and the attributes are read at the completion (R56, R174). -/
def State.finish (c : Command) (run : State → State) (s : State) : State :=
  let s0 := s.setWork .idle
  if c.withdrawn then s0
  else if s.permits c.port c.req then run s0
  else s0.answer c.port c.tag .notPermitted []

/-- The completion of the command in the engine, where it is one that `pick` reads. Where no such command is in the
engine, or RESET is low, the completion does not come about (log 2). -/
def State.complete (pick : Request → Option (Command → State → State)) (s : State) : State :=
  if s.resetLow then s
  else
    match s.engine.work with
    | .command c =>
      match pick c.req with
      | some run => s.finish c (run c)
      | none => s
    | .idle => s
    | .pass _ => s

/-- The answer of a port-local command of this code, where it is the head of the port's queue (R138). -/
def State.answerLocal (p : Port) (code : Byte) (run : QueuedCommand → State → State) (s : State) : State :=
  if s.resetLow then s
  else
    match (s.ports.get p).queue with
    | q :: _ => if q.code = code then run q s else s
    | [] => s

/-- A block may take a reaction: RESET is high and the Frame Timing Unit is in LOCKED (R18, R101, R123, log 2). -/
def State.takesMarks (s : State) : Bool :=
  !s.resetLow && decide (s.timing.sync = .locked)

end Sys2Proof.Machine
end

