-- ==== Sys2Proof/Machine/Operands.lean ====
section
/-! DEFINITION. Byte layouts (chapter 11): the bodies of the commands as requests (R190, R191, Table 11-10), and the
bodies of responses, event records, response frames and the CRC (R191, R192, R193). -/

namespace Sys2Proof.Machine

/-! ## Bytes -/

/-- The low byte of a number. -/
def byteOf (n : Nat) : Byte := BitVec.ofNat 8 n

/-- Two bytes, most significant first (00_scope.md conventions). -/
def be16 (n : Nat) : List Byte := [byteOf (n / 256), byteOf n]

/-- The number two bytes carry, most significant first. -/
def fromBe16 (hi lo : Byte) : Nat := hi.toNat * 256 + lo.toNat

/-- A yes/no bit at a place of a byte. -/
def bitAt (b : Bool) (place : Nat) : Nat := if b then 2 ^ place else 0

/-- The byte that eight bits of a transfer spell, the bit sampled first its most significant (R127). -/
def packByte (o : Octet) : Byte :=
  byteOf (bitAt o.bit1 7 + bitAt o.bit2 6 + bitAt o.bit3 5 + bitAt o.bit4 4 + bitAt o.bit5 3 + bitAt o.bit6 2 +
    bitAt o.bit7 1 + bitAt o.bit8 0)

/-! ## The CRC (R193) -/

/-- One step of the CRC register. -/
def crcStep (r : Word) : Word :=
  if r.msb then (r <<< 1) ^^^ Config.crcPoly else r <<< 1

/-- Take one byte into the register and step it eight times. -/
def crcByte (r : Word) (b : Byte) : Word :=
  crcStep (crcStep (crcStep (crcStep (crcStep (crcStep (crcStep (crcStep
    (r ^^^ (b.zeroExtend 16 <<< 8)))))))))

/-- The CRC of a list of bytes. -/
def crcOf (bytes : List Byte) : Word :=
  bytes.foldl crcByte 0xFFFF#16

/-- The CRC as it is sent, high byte first. -/
def crcBytes (bytes : List Byte) : List Byte :=
  be16 (crcOf bytes).toNat

/-! ## Reading command bodies (R190, R191, Tables 11-4, 11-5, 11-10) -/

/-- Ranges of three bytes each: first slot, length (R191). -/
def readRanges : List Byte → Option (List Run)
  | [] => some []
  | a :: b :: c :: rest => (readRanges rest).map fun rs => ⟨fromBe16 a b, c.toNat⟩ :: rs
  | [_] => none
  | [_, _] => none

/-- A slot range within its bounds: length 1 to 64, first slot plus length at most 512 (R191). -/
def Run.valid (r : Run) : Bool :=
  decide (1 ≤ r.len) && decide (r.len ≤ Config.maxRun) && decide (r.first + r.len ≤ 512)

/-- Two runs share no slot. -/
def Run.disjoint (r q : Run) : Bool :=
  decide (r.first + r.len ≤ q.first) || decide (q.first + q.len ≤ r.first)

/-- No two runs of a list share a slot. -/
def runsDisjoint : List Run → Bool
  | [] => true
  | r :: rest => rest.all (fun q => r.disjoint q) && runsDisjoint rest

/-- The run lies wholly inside the window. -/
def Run.inside (lo hi : Nat) (r : Run) : Bool :=
  decide (lo ≤ r.first) && decide (r.first + r.len ≤ hi + 1)

/-- The conditions on an AT list that do not depend on a count (Table 3-4, R105). -/
def atListValid (lo hi : Nat) (runs : List Run) : Bool :=
  decide (1 ≤ runs.length) && decide (runs.length ≤ Config.maxRuns) && runs.all Run.valid &&
    runs.all (Run.inside lo hi) && runsDisjoint runs

/-- A window: lo at most hi, both at most 511 (Table 3-4). -/
def windowValid (lo hi : Nat) : Bool :=
  decide (lo ≤ hi) && decide (hi ≤ 511)

/-- The conditions on a shape under NEXT_FIT and LOW_FIT that do not depend on a count (Table 3-4, R105). -/
def shapeValid : Shape → Bool
  | .contiguous => true
  | .split minRun maxRuns =>
    decide (1 ≤ minRun) && decide (minRun ≤ Config.maxRun) && decide (1 ≤ maxRuns) &&
      decide (maxRuns ≤ Config.maxRuns)

/-- The conditions on a shape for a count (Table 3-4, R106). -/
def shapeHolds (shape : Shape) (n : Nat) : Bool :=
  match shape with
  | .contiguous => decide (n ≤ Config.maxRun)
  | .split _ maxRuns => decide (n ≤ Config.maxRun * maxRuns)

/-- The conditions of a search that depend on its count: shape, window and AT lengths (Table 3-4, R66, R106). -/
def SearchArgs.fits (a : SearchArgs) : Bool :=
  decide (a.n ≤ a.hi + 1 - a.lo) &&
    match a.place with
    | .atRuns runs => decide (setTotal runs = a.n)
    | .nextFit => shapeHolds a.shape a.n
    | .lowFit => shapeHolds a.shape a.n

/-- The conditions on the form of window, placement and shape (Table 3-4, R105). With AT the shape is not judged. -/
def placementValid (shape : Shape) (place : Placement) (lo hi : Nat) : Bool :=
  windowValid lo hi &&
    match place with
    | .atRuns runs => atListValid lo hi runs
    | .nextFit => shapeValid shape
    | .lowFit => shapeValid shape

/-- The shape byte with its two parameter bytes (Table 11-4); 2 is the default shape of RELOCATE. -/
def readShape (shape minRun maxRuns : Byte) : Option Shape :=
  match shape.toNat with
  | 0 => some .contiguous
  | 1 => some (.split minRun.toNat maxRuns.toNat)
  | 2 => some (.split 1 4)
  | _ => none

/-- The placement byte with the run count and the ranges: a count above 0 only with AT, and as many ranges as the count
(Tables 3-4, 11-4, 11-10). -/
def readPlacement (place count : Byte) (ranges : List Byte) : Option Placement :=
  match place.toNat, readRanges ranges with
  | 0, some [] => if count = 0#8 then some .nextFit else none
  | 1, some [] => if count = 0#8 then some .lowFit else none
  | 2, some runs => if runs.length = count.toNat then some (.atRuns runs) else none
  | _, _ => none

/-- The class byte (Table 11-4). -/
def readClass (b : Byte) : Option ResClass :=
  match b.toNat with
  | 0 => some .urgent
  | 1 => some .normal
  | 2 => some .bulk
  | _ => none

/-- The wait mode byte with the wait limit; with NO_WAIT the limit is not judged (R55, Table 11-4). -/
def readWait (mode : Byte) (limit : Nat) : Option WaitOption :=
  match mode.toNat with
  | 0 => some .noWait
  | 1 => some (.wait limit)
  | _ => none

/-- The body of RESERVE (R55, Tables 3-3, 3-4, 11-10). A shape of 2 is refused under every placement. -/
def readReserve : List Byte → Option ReserveArgs
  | n :: shape :: minRun :: maxRuns :: place :: lo1 :: lo0 :: hi1 :: hi0 :: cls :: l1 :: l0 :: mode ::
      w1 :: w0 :: count :: ranges =>
    match readShape shape minRun maxRuns, readPlacement place count ranges, readClass cls,
      readWait mode (fromBe16 w1 w0) with
    | some sh, some pl, some c, some w =>
      let a : SearchArgs := ⟨n.toNat, sh, pl, fromBe16 lo1 lo0, fromBe16 hi1 hi0⟩
      if shape ≠ 2#8 ∧ 1 ≤ a.n ∧ a.n ≤ 128 ∧ placementValid a.shape a.place a.lo a.hi ∧ a.fits then
        some ⟨a, c, fromBe16 l1 l0, w⟩
      else none
    | _, _, _, _ => none
  | _ => none

/-- The body of RELOCATE with its conditions of form (R105, Table 11-10). -/
def readRelocate : List Byte → Option RelocateArgs
  | i :: g :: shape :: minRun :: maxRuns :: place :: lo1 :: lo0 :: hi1 :: hi0 :: count :: ranges =>
    match readShape shape minRun maxRuns, readPlacement place count ranges with
    | some sh, some pl =>
      let lo := fromBe16 lo1 lo0
      let hi := fromBe16 hi1 hi0
      if placementValid sh pl lo hi then some ⟨⟨i, g⟩, sh, pl, lo, hi⟩ else none
    | _, _ => none
  | _ => none

/-- A body that is one handle. -/
def readHandle : List Byte → Option Handle
  | [i, g] => some ⟨i, g⟩
  | _ => none

/-- Handles of two bytes each. -/
def readHandles : List Byte → Option (List Handle)
  | [] => some []
  | i :: g :: rest => (readHandles rest).map fun hs => ⟨i, g⟩ :: hs
  | [_] => none

/-- A body that is one slot range within its bounds (R22, R175, R191). -/
def readRun : List Byte → Option Run
  | [a, b, c] =>
    let r : Run := ⟨fromBe16 a b, c.toNat⟩
    if r.valid then some r else none
  | _ => none

/-- A body that is one watch unit number, 0 to 7 (R168, R169). -/
def readUnit : List Byte → Option UnitIx
  | [u] => if h : u.toNat < 8 then some ⟨u.toNat, h⟩ else none
  | _ => none

/-- A body that is one port number, 0 to 5 (R187). -/
def readPort : List Byte → Option Port
  | [p] => if h : p.toNat < 6 then some ⟨p.toNat, h⟩ else none
  | _ => none

/-- The unit byte of SET_WATCH: a number 0 to 7, or 0xFF for ANY (Table 11-10). -/
def readUnitOrAny (u : Byte) : Option (Option UnitIx) :=
  if u = 0xFF#8 then some none
  else if h : u.toNat < 8 then some (some ⟨u.toNat, h⟩) else none

/-- The edge byte (Table 11-4). -/
def readEdge (b : Byte) : Option Edge :=
  match b.toNat with
  | 0 => some .rise
  | 1 => some .fall
  | 2 => some .both
  | _ => none

/-- The mode byte (Table 11-4). -/
def readMode (b : Byte) : Option WatchMode :=
  match b.toNat with
  | 0 => some .oneShot
  | 1 => some .continuous
  | _ => none

/-- The targets byte: bits 7 and 6 zero, at least one port (R164, Table 11-10). -/
def readTargets (b : Byte) : Option (BitVec 6) :=
  if b.toNat < 64 ∧ b ≠ 0#8 then some (b.truncate 6) else none

/-- The required state byte (Table 11-4). -/
def readRequired (b : Byte) : Option Required :=
  match b.toNat with
  | 0 => some .live
  | 1 => some .present
  | _ => none

/-- The combination byte (Table 11-4). -/
def readCombination (b : Byte) : Option Combination :=
  match b.toNat with
  | 0 => some .all
  | 1 => some .any
  | _ => none

/-- The condition of a SET_WATCH: the kind byte and the kind's fields (R164, Table 11-10). -/
def readSpec (kind : Byte) (rest : List Byte) : Option WatchSpec :=
  match kind.toNat, rest with
  | 0, [lo1, lo0, hi1, hi0, t1, t0] =>
    let lo := fromBe16 lo1 lo0
    let hi := fromBe16 hi1 hi0
    let t := fromBe16 t1 t0
    if windowValid lo hi ∧ t ≤ 512 then some (.freeCount lo hi t) else none
  | 1, req :: comb :: count :: handles =>
    match readRequired req, readCombination comb, readHandles handles with
    | some r, some c, some hs =>
      if hs.length = count.toNat ∧ 1 ≤ hs.length ∧ hs.length ≤ 6 then some (.resState r c hs) else none
    | _, _, _ => none
  | _, _ => none

/-- The body of SET_WATCH (R164, Table 11-10). -/
def readSetWatch : List Byte → Option SetWatchArgs
  | unit :: kind :: edge :: mode :: targets :: rest =>
    match readUnitOrAny unit, readSpec kind rest, readEdge edge, readMode mode, readTargets targets with
    | some u, some sp, some e, some m, some t => some ⟨u, sp, e, m, t⟩
    | _, _, _, _, _ => none
  | _ => none

/-- The parameter an identifier names (11, below Table 11-9). -/
def readParamName (b : Byte) : Option ParamName :=
  match b.toNat with
  | 1 => some .guard
  | 2 => some .overlap
  | 3 => some .confirmWindow
  | 4 => some .leaseWarn
  | 5 => some .poolLow
  | 6 => some .poolFloor
  | 7 => some .waitPolicy
  | 8 => some .syncWindow
  | _ => none

/-- The range of a parameter (Table 10-1). -/
def ParamName.inRange : ParamName → Nat → Bool
  | .guard, v => decide (1 ≤ v) && decide (v ≤ 15)
  | .overlap, v => decide (1 ≤ v) && decide (v ≤ 255)
  | .confirmWindow, v => decide (1 ≤ v) && decide (v ≤ 65535)
  | .leaseWarn, v => decide (v ≤ 65535)
  | .poolLow, v => decide (v ≤ 191)
  | .poolFloor, v => decide (v ≤ 32)
  | .waitPolicy, v => decide (v ≤ 1)
  | .syncWindow, v => decide (50 ≤ v) && decide (v ≤ 2000)

/-- The body of SET_PARAM (R179). -/
def readSetParam : List Byte → Option (ParamName × Nat)
  | [id, v1, v0] =>
    match readParamName id with
    | some name => if name.inRange (fromBe16 v1 v0) then some (name, fromBe16 v1 v0) else none
    | none => none
  | _ => none

/-- The reset policy byte (Table 11-4). -/
def readPolicy (b : Byte) : Option ResetPolicy :=
  match b.toNat with
  | 0 => some .reclaim
  | 1 => some .retain
  | _ => none

/-- The body of SET_PORT: a port and an attribute block (R182, Table 11-5). -/
def readSetPort : List Byte → Option (Port × Attributes)
  | [p, q1, q0, r, pol, flags] =>
    match readPort [p], readPolicy pol with
    | some port, some policy =>
      if fromBe16 q1 q0 ≤ 512 ∧ r.toNat ≤ 192 ∧ flags.toNat < 8 then
        some (port, ⟨fromBe16 q1 q0, r.toNat, policy, flags.getLsbD 2, flags.getLsbD 1, flags.getLsbD 0⟩)
      else none
    | _, _ => none
  | _ => none

/-- The start index of LIST_OWNED, 0 to 191 (R42). -/
def readStart : List Byte → Option Nat
  | [b] => if b.toNat ≤ 191 then some b.toNat else none
  | _ => none

/-- The body of RENEW (R40). -/
def readRenew : List Byte → Option (Handle × Nat)
  | [i, g, l1, l0] => some (⟨i, g⟩, fromBe16 l1 l0)
  | _ => none

/-- The ticket of CANCEL_WAIT (R82). -/
def readTicket : List Byte → Option Byte
  | [t] => some t
  | _ => none

/-- A body that must be empty (R181). -/
def readEmpty : List Byte → Option Unit
  | [] => some ()
  | _ => none

/-- A request read from a body, or BAD_ARGUMENT (R51, R190). -/
def orBadArgument (r : Option Request) : Except Status Request :=
  match r with
  | some q => .ok q
  | none => .error .badArgument

/-- A table command read by the layout of its code: BAD_COMMAND for a code that names no command, BAD_ARGUMENT for a body
that does not fit (R51, R190, Table 11-8). -/
def readRequest (code : Byte) (body : List Byte) : Except Status Request :=
  match code.toNat with
  | 0x01 => orBadArgument ((readReserve body).map .reserve)
  | 0x02 => orBadArgument ((readHandle body).map .release)
  | 0x03 => orBadArgument ((readRenew body).map fun (h, l) => .renew h l)
  | 0x04 => orBadArgument ((readHandle body).map .query)
  | 0x05 => orBadArgument ((readStart body).map .listOwned)
  | 0x06 => orBadArgument ((readRun body).map .readMap)
  | 0x07 => orBadArgument ((readTicket body).map .cancelWait)
  | 0x08 => orBadArgument ((readRelocate body).map .relocate)
  | 0x09 => orBadArgument ((readHandle body).map .confirmMove)
  | 0x0A => orBadArgument ((readHandle body).map .declineMove)
  | 0x0B => orBadArgument ((readSetWatch body).map .setWatch)
  | 0x0C => orBadArgument ((readUnit body).map .clearWatch)
  | 0x0D => orBadArgument ((readUnit body).map .rearmWatch)
  | 0x10 => orBadArgument ((readRun body).map .bar)
  | 0x11 => orBadArgument ((readRun body).map .unbar)
  | 0x12 => orBadArgument ((readHandle body).map .forceRelease)
  | 0x13 => orBadArgument ((readSetParam body).map fun (n, v) => .setParam n v)
  | 0x14 => orBadArgument ((readSetPort body).map fun (p, a) => .setPort p a)
  | 0x15 => orBadArgument ((readPort body).map .resetPort)
  | 0x16 => orBadArgument ((readEmpty body).map fun _ => .readParams)
  | _ => .error .badCommand

/-- The codes of the port-local commands (Table 11-8, R131). -/
def codeFetchEvents : Byte := 0x20#8
/-- READ_STATUS (Table 11-8). -/
def codeReadStatus : Byte := 0x21#8
/-- SELF_RESET (Table 11-8). -/
def codeSelfReset : Byte := 0x22#8
/-- ECHO (Table 11-8). -/
def codeEcho : Byte := 0x23#8

/-- The four codes that mark a command as port-local; every other marks a table command (R131). -/
def isPortLocal (code : Byte) : Bool :=
  decide (code = codeFetchEvents) || decide (code = codeReadStatus) || decide (code = codeSelfReset) ||
    decide (code = codeEcho)

/-! ## Codes of responses and events (Tables 11-4, 11-7, 11-9) -/

/-- Status codes (Table 11-9). -/
def Status.code : Status → Byte
  | .ok => 0x00#8
  | .queued => 0x01#8
  | .empty => 0x02#8
  | .busy => 0x10#8
  | .linkFault => 0x11#8
  | .badTag => 0x12#8
  | .badCommand => 0x13#8
  | .badArgument => 0x14#8
  | .notPermitted => 0x15#8
  | .badHandle => 0x20#8
  | .notOwner => 0x21#8
  | .wrongState => 0x22#8
  | .noRoom => 0x30#8
  | .waitFull => 0x31#8
  | .quotaExceeded => 0x32#8
  | .poolExhausted => 0x33#8
  | .noMoveContext => 0x34#8

/-- Class (Table 11-4). -/
def ResClass.code : ResClass → Byte
  | .urgent => 0#8
  | .normal => 1#8
  | .bulk => 2#8

/-- Reservation state (Table 11-4). -/
def ResState.code : ResState → Byte
  | .pending => 0#8
  | .live => 1#8
  | .moving => 2#8

/-- Move stage (Table 11-4). -/
def Stage.code : Stage → Byte
  | .offered _ => 0#8
  | .armed => 1#8
  | .overlap _ _ => 2#8

/-- Sync state (Table 11-4). -/
def Sync.code : Sync → Byte
  | .searching => 0#8
  | .locked => 1#8
  | .lost => 2#8

/-- Slot state (Table 11-4). -/
def SlotState.code : SlotState → Nat
  | .free => 0
  | .held => 1
  | .live => 2
  | .draining => 3
  | .barred => 4

/-- Role (Table 11-4); none is 0. -/
def Role.code : Role → Nat
  | .current => 1
  | .target => 2

/-- Reset policy (Table 11-4). -/
def ResetPolicy.code : ResetPolicy → Byte
  | .reclaim => 0#8
  | .retain => 1#8

/-- WAIT_POLICY value (Table 11-4). -/
def WaitPolicy.code : WaitPolicy → Nat
  | .strict => 0
  | .fit => 1

/-- Reason of MOVE_ABANDONED (below Table 11-7). -/
def Reason.code : Reason → Nat
  | .declined => 0
  | .timeout => 1
  | .slotBarred => 2
  | .ownerReset => 3
  | .released => 4

/-- Parameter identifiers (below Table 11-9). -/
def ParamName.code : ParamName → Byte
  | .guard => 1#8
  | .overlap => 2#8
  | .confirmWindow => 3#8
  | .leaseWarn => 4#8
  | .poolLow => 5#8
  | .poolFloor => 6#8
  | .waitPolicy => 7#8
  | .syncWindow => 8#8

/-! ## Fields of response bodies (R191, Tables 11-5, 11-10 to 11-12) -/

/-- A handle is two bytes (R191). -/
def Handle.bytes (h : Handle) : List Byte := [h.index, h.gen]

/-- A run word: first slot in bits 15-7, length less one in bits 6-1, the last-run flag in bit 0 (R191). -/
def runWord (r : Run) (last : Bool) : List Byte :=
  be16 (r.first * 128 + (r.len - 1) * 2 + bitAt last 0)

/-- A set: its run words, the flag in the last only (R191). -/
def setBytes : List Run → List Byte
  | [] => []
  | [r] => runWord r true
  | r :: q :: rest => runWord r false ++ setBytes (q :: rest)

/-- A slot range: first slot in two bytes, length in one (R191). -/
def rangeBytes (r : Run) : List Byte :=
  be16 r.first ++ [byteOf r.len]

/-- The attribute block (Table 11-5). -/
def attrBytes (a : Attributes) : List Byte :=
  be16 a.slotQuota ++
    [byteOf a.recordQuota, a.policy.code, byteOf (bitAt a.urgent 2 + bitAt a.unleased 1 + bitAt a.notices 0)]

/-- The item of one slot in READ_MAP: state, role and bar pending, then the index or 0xFF (R22, Table 11-10). -/
def slotItem (e : Slot) : List Byte :=
  let head (role : Nat) : Byte := byteOf (e.state.code * 32 + role * 8 + bitAt e.barPending 2)
  match e with
  | .held idx role _ _ => [head role.code, byteOf idx.val]
  | .live idx role _ => [head role.code, byteOf idx.val]
  | .free => [head 0, 0xFF#8]
  | .draining _ _ => [head 0, 0xFF#8]
  | .barred => [head 0, 0xFF#8]

/-! ## Event records on the link (R192, Table 11-6) -/

/-- Kind codes (Table 11-7). -/
def EventBody.code : EventBody → Nat
  | .granted .. => 0
  | .live .. => 1
  | .expired .. => 2
  | .leaseLow .. => 3
  | .releasedByAdmin .. => 4
  | .waitExpired .. => 5
  | .moveOffer .. => 6
  | .moveStarted .. => 7
  | .moveDone .. => 8
  | .moveAbandoned .. => 9
  | .watch .. => 10
  | .poolLow .. => 11
  | .poolRecovered .. => 12
  | .syncLocked => 13
  | .syncLost => 14
  | .barDone .. => 15

/-- Bits 3-0 of byte 0: the reason of MOVE_ABANDONED, zero for every other kind (R192). -/
def EventBody.reasonBits : EventBody → Nat
  | .moveAbandoned _ _ _ r => r.code
  | .granted .. => 0
  | .live .. => 0
  | .expired .. => 0
  | .leaseLow .. => 0
  | .releasedByAdmin .. => 0
  | .waitExpired .. => 0
  | .moveOffer .. => 0
  | .moveStarted .. => 0
  | .moveDone .. => 0
  | .watch .. => 0
  | .poolLow .. => 0
  | .poolRecovered .. => 0
  | .syncLocked => 0
  | .syncLost => 0
  | .barDone .. => 0

/-- Bytes 1 and 2: the stamp, but the deadline in MOVE_OFFER (R192). -/
def Event.stampField (e : Event) : Word :=
  match e.body with
  | .moveOffer _ _ _ deadline => deadline
  | .granted .. => e.stamp
  | .live .. => e.stamp
  | .expired .. => e.stamp
  | .leaseLow .. => e.stamp
  | .releasedByAdmin .. => e.stamp
  | .waitExpired .. => e.stamp
  | .moveStarted .. => e.stamp
  | .moveDone .. => e.stamp
  | .moveAbandoned .. => e.stamp
  | .watch .. => e.stamp
  | .poolLow .. => e.stamp
  | .poolRecovered .. => e.stamp
  | .syncLocked => e.stamp
  | .syncLost => e.stamp
  | .barDone .. => e.stamp

/-- The fields after bytes 0 to 2 (Table 11-6). -/
def EventBody.fieldBytes : EventBody → List Byte
  | .granted t h set => t :: h.bytes ++ setBytes set
  | .live h set => h.bytes ++ setBytes set
  | .expired h set => h.bytes ++ setBytes set
  | .leaseLow h n => h.bytes ++ be16 n
  | .releasedByAdmin h set => h.bytes ++ setBytes set
  | .waitExpired t => [t]
  | .moveOffer h tag set _ => h.bytes ++ tag :: setBytes set
  | .moveStarted h tag set => h.bytes ++ tag :: setBytes set
  | .moveDone h tag set => h.bytes ++ tag :: setBytes set
  | .moveAbandoned h tag set _ => h.bytes ++ tag :: setBytes set
  | .watch u r => byteOf u.val :: be16 (bitAt r 0)
  | .poolLow n => be16 n
  | .poolRecovered n => be16 n
  | .syncLocked => []
  | .syncLost => []
  | .barDone n set => be16 n ++ setBytes set

/-- An event record as FETCH_EVENTS carries it (R192). -/
def Event.bytes (e : Event) : List Byte :=
  byteOf (e.body.code * 16 + e.body.reasonBits) :: be16 e.stampField.toNat ++ e.body.fieldBytes

/-! ## Response frames (Table 11-2) -/

/-- A response frame: tag, status, body length, body, CRC (R136). -/
def frameOf (tag : Byte) (status : Status) (body : List Byte) : List Byte :=
  let f := tag :: status.code :: byteOf body.length :: body
  f ++ crcBytes f

/-- The empty frame of a collect with nothing stored (R136, R190). -/
def emptyFrame : List Byte :=
  frameOf 255#8 .empty []

end Sys2Proof.Machine
end

