-- ==== Sys2Proof/Machine/Search.lean ====
section
/-! DEFINITION. The placement search shared by RESERVE, wait-list trials and RELOCATE (R61 to R64), and its readings over
time (R52). -/

namespace Sys2Proof.Machine

/-- The segments of a scan, each as first slot and length, in scan order (R61); the listed runs for AT (R64). `p` is the
roving pointer as read when the search began. -/
def SearchArgs.segments (a : SearchArgs) (p : Nat) : List Run :=
  match a.place with
  | .atRuns runs => runs
  | .lowFit => [⟨a.lo, a.hi + 1 - a.lo⟩]
  | .nextFit =>
    if a.lo ≤ p ∧ p ≤ a.hi then [⟨p, a.hi + 1 - p⟩, ⟨a.lo, p - a.lo⟩]
    else [⟨a.lo, a.hi + 1 - a.lo⟩]

/-- The slots of a search in the order in which they are read. -/
def Scan.order (sc : Scan) : List Nat :=
  (sc.args.segments sc.start).flatMap Run.slots

/-- Every slot has been read. -/
def Scan.done (sc : Scan) : Bool :=
  decide (sc.order.length ≤ sc.seen.length)

/-- Read the next slot of the scan order, if one is left; `free` is the map as it stands (R52). -/
def Scan.readNext (free : Nat → Bool) (sc : Scan) : Scan :=
  match sc.order.drop sc.seen.length with
  | [] => sc
  | i :: _ => { sc with seen := sc.seen ++ [free i] }

/-- Read every slot that is left (R50: the search ends at the completion). -/
def Scan.readRest (free : Nat → Bool) (sc : Scan) : Scan :=
  { sc with seen := sc.seen ++ (sc.order.drop sc.seen.length).map free }

/-- The free stretches of one segment, from its first slot on (R61). -/
def stretchesFrom : Nat → List Bool → List Run
  | _, [] => []
  | i, false :: rest => stretchesFrom (i + 1) rest
  | i, true :: rest =>
    match stretchesFrom (i + 1) rest with
    | [] => [⟨i, 1⟩]
    | r :: rs => if r.first = i + 1 then ⟨i, r.len + 1⟩ :: rs else ⟨i, 1⟩ :: r :: rs

/-- The free stretches of all segments, in scan order; a stretch ends with its segment (R61). -/
def stretchesOf : List Run → List Bool → List Run
  | [], _ => []
  | seg :: rest, seen => stretchesFrom seg.first (seen.take seg.len) ++ stretchesOf rest (seen.drop seg.len)

/-- Shape CONTIGUOUS: the first stretch of `n` or more slots gives its first `n` (R62). -/
def findContiguous (n : Nat) (stretches : List Run) : Option (List Run) :=
  (stretches.find? fun r => n ≤ r.len).map fun r => [⟨r.first, n⟩]

/-- Candidates from one stretch, while runs may still be taken: each is the first k slots of what is left of the
stretch, k the least of its length, 64 and the remaining, accepted at or above the threshold (R63).
The result is the runs accepted and the remaining. -/
def takeRuns (minRun : Nat) : Nat → Run → Nat → List Run × Nat
  | 0, _, remaining => ([], remaining)
  | left + 1, r, remaining =>
    let k := min r.len (min Config.maxRun remaining)
    if k = 0 ∨ k < min minRun remaining then ([], remaining)
    else
      let (more, after) := takeRuns minRun left ⟨r.first + k, r.len - k⟩ (remaining - k)
      (⟨r.first, k⟩ :: more, after)

/-- Collect runs from the stretches in scan order; `left` runs may still be accepted (R63). -/
def collectRuns (minRun : Nat) : List Run → Nat → Nat → List Run × Nat
  | [], _, remaining => ([], remaining)
  | r :: rest, left, remaining =>
    let (got, now) := takeRuns minRun left r remaining
    let (more, after) := collectRuns minRun rest (left - got.length) now
    (got ++ more, after)

/-- Shape SPLIT: succeeds where the remaining reaches 0 (R63). -/
def findSplit (n minRun maxRuns : Nat) (stretches : List Run) : Option (List Run) :=
  let (runs, remaining) := collectRuns minRun stretches maxRuns n
  if remaining = 0 then some runs else none

/-- The outcome of a search from its readings: the set found, or no room (R62, R63, R64). -/
def Scan.result (sc : Scan) : Option (List Run) :=
  match sc.args.place with
  | .atRuns runs => if sc.seen.all id then some runs else none
  | .nextFit =>
    let st := stretchesOf (sc.args.segments sc.start) sc.seen
    match sc.args.shape with
    | .contiguous => findContiguous sc.args.n st
    | .split minRun maxRuns => findSplit sc.args.n minRun maxRuns st
  | .lowFit =>
    let st := stretchesOf (sc.args.segments sc.start) sc.seen
    match sc.args.shape with
    | .contiguous => findContiguous sc.args.n st
    | .split minRun maxRuns => findSplit sc.args.n minRun maxRuns st

/-- The outcome of a search that reads what is left of the map as it stands. -/
def Scan.finish (free : Nat → Bool) (sc : Scan) : Option (List Run) :=
  (sc.readRest free).result

/-! ## The trials of a pass (R68) -/

/-- A slot as a trial reads it: the slots found by earlier trials of the pass are not FREE (R68). -/
def State.trialFree (p : Pass) (s : State) (i : Nat) : Bool :=
  s.map.isFree i && !(p.trials.any fun t => inSet t.set i)

/-- The provisional checks of a trial (R68): quota, and pool less the records set aside for earlier trials. -/
def State.trialAllowed (e : WaitEntry) (p : Pass) (s : State) : Bool :=
  quotaCheck (s.ports.get e.port) 0 &&
    poolCheck e.cls (s.freeRecords - p.trials.length) s.params.poolFloor

/-- Begin the trial of the entry holding `ticket`; one that has left the list or fails a check is not searched
(R68, R74). -/
def State.beginTrial (ticket : Byte) (p : Pass) (s : State) : Pass :=
  match s.waits.find ticket with
  | none => p
  | some e =>
    if s.trialAllowed e p then { p with inHand := some (ticket, ⟨e.search, p.rover, []⟩) } else p

/-- End the trial in hand, reading what is left of its search (R68). -/
def State.endTrial (p : Pass) (s : State) : Pass :=
  match p.inHand with
  | none => p
  | some (ticket, sc) =>
    match sc.finish (s.trialFree p) with
    | none => { p with inHand := none }
    | some set =>
      { p with
        inHand := none
        trials := p.trials ++ [⟨ticket, set⟩]
        rover := roverMoved sc.args.place set p.rover }

/-- Try every entry still to be tried, in order. -/
def State.tryAll (s : State) : List Byte → Pass → Pass
  | [], p => p
  | t :: rest, p => State.tryAll s rest (s.endTrial (s.beginTrial t p))

/-- The pass with every trial made against the tables as they stand. -/
def State.finishTrials (p : Pass) (s : State) : Pass :=
  let p1 := s.endTrial p
  { s.tryAll p1.todo p1 with todo := [] }

/-- One reading of a pass: the next slot of the trial in hand, or its end once every slot is read, or the beginning of
the next trial. -/
def State.advancePass (p : Pass) (s : State) : Pass :=
  match p.inHand with
  | some (ticket, sc) =>
    if sc.done then s.endTrial p
    else { p with inHand := some (ticket, sc.readNext (s.trialFree p)) }
  | none =>
    match p.todo with
    | [] => p
    | t :: rest => s.beginTrial t { p with todo := rest }

/-- What happens when no command waits: the engine's search in hand reads one more slot, and nothing else changes
(R50, R52, log 3). -/
def State.idleStep (s : State) : State :=
  match s.engine.work with
  | .idle => s
  | .command c =>
    match c.scan with
    | some sc => s.setWork (.command { c with scan := some (sc.readNext s.map.isFree) })
    | none => s
  | .pass p => s.setWork (.pass (s.advancePass p))

end Sys2Proof.Machine
end

