-- ==== Sys2Proof/Machine/Engine.lean ====
section
/-! DEFINITION. The taking of a command by the Allocation Engine (R46 to R51, R106). -/

namespace Sys2Proof.Machine

/-- A port is eligible when its oldest unanswered command is a table command that the engine has not taken (R48). -/
def ClientPort.eligible (c : ClientPort) : Bool :=
  match c.queue with
  | [] => false
  | q :: _ => !q.taken && !isPortLocal q.code

/-- The ports in round-robin order after a position: upward, wrapping from 5 to 0 (R47). -/
def roundRobin (pos : Port) : List Port :=
  [pos + 1, pos + 2, pos + 3, pos + 4, pos + 5, pos]

/-- The eligible port that comes first in round-robin order (R47). -/
def State.nextPort (s : State) : Option Port :=
  (roundRobin s.engine.rrPos).find? fun p => (s.ports.get p).eligible

/-- The search of a RELOCATE for a current set total (R66). -/
def RelocateArgs.search (a : RelocateArgs) (total : Nat) : SearchArgs :=
  ⟨total, a.shape, a.place, a.lo, a.hi⟩

/-- The port is the owner or an administrator port (R107). -/
def State.mayMove (p : Port) (a : Reservation) (s : State) : Bool :=
  decide (a.owner = p) || (s.ports.get p).admin

/-- The answer to a RELOCATE that completes at once on being taken, or none where it goes to its search (R106). -/
def State.relocateAtTaking (p : Port) (a : RelocateArgs) (s : State) : Option Status :=
  match s.lookup a.handle with
  | none => some .badHandle
  | some (_, r) =>
    if r.state ≠ .live then some (if s.mayMove p r then .wrongState else .notOwner)
    else if (a.search (setTotal r.set)).fits then none
    else some (if s.mayMove p r then .badArgument else .notOwner)

/-- The answer to a command that completes at once on being taken (R51, R106), or none. -/
def State.answerAtTaking (p : Port) (r : Request) (s : State) : Option Status :=
  if !s.permits p r then some .notPermitted
  else
    match r with
    | .relocate a => s.relocateAtTaking p a
    | .reserve _ => none
    | .release _ => none
    | .renew .. => none
    | .query _ => none
    | .listOwned _ => none
    | .readMap _ => none
    | .cancelWait _ => none
    | .confirmMove _ => none
    | .declineMove _ => none
    | .setWatch _ => none
    | .clearWatch _ => none
    | .rearmWatch _ => none
    | .bar _ => none
    | .unbar _ => none
    | .forceRelease _ => none
    | .setParam .. => none
    | .setPort .. => none
    | .resetPort _ => none
    | .readParams => none

/-- A search that begins now, from the roving pointer as it stands (R61). -/
def State.newScan (args : SearchArgs) (s : State) : Scan :=
  ⟨args, s.engine.rover, []⟩

/-- The search of a RELOCATE of the record its handle names (R66). -/
def State.relocateScan (a : RelocateArgs) (s : State) : Option Scan :=
  (s.lookup a.handle).map fun (_, r) => s.newScan (a.search (setTotal r.set))

/-- The search a command begins with: RESERVE and RELOCATE search, the others do not (R50). -/
def State.beginScan (r : Request) (s : State) : Option Scan :=
  match r with
  | .reserve a => some (s.newScan a.search)
  | .relocate a => s.relocateScan a
  | .release _ => none
  | .renew .. => none
  | .query _ => none
  | .listOwned _ => none
  | .readMap _ => none
  | .cancelWait _ => none
  | .confirmMove _ => none
  | .declineMove _ => none
  | .setWatch _ => none
  | .clearWatch _ => none
  | .rearmWatch _ => none
  | .bar _ => none
  | .unbar _ => none
  | .forceRelease _ => none
  | .setParam .. => none
  | .setPort .. => none
  | .resetPort _ => none
  | .readParams => none

/-- The head of a port's queue is marked as taken (R133). -/
def ClientPort.markTaken (c : ClientPort) : ClientPort :=
  match c.queue with
  | [] => c
  | q :: rest => { c with queue := { q with taken := true } :: rest }

/-- The engine takes command `q` of port `p`: the position takes the port (R48), and the command completes at once with its
refusal (R51, R106) or stays in the engine. -/
def State.takeCommand (p : Port) (q : QueuedCommand) (s : State) : State :=
  let s1 := State.modPort p ClientPort.markTaken { s with engine := { s.engine with rrPos := p } }
  match readRequest q.code q.body with
  | .error st => s1.answer p q.tag st []
  | .ok r =>
    match s1.answerAtTaking p r with
    | some st => s1.answer p q.tag st []
    | none => s1.setWork (.command ⟨p, q.tag, r, false, s1.beginScan r⟩)

/-- The free engine takes the head command of the next eligible port (R47). -/
def State.engineTake (s : State) : State :=
  match s.nextPort with
  | none => s
  | some p =>
    match (s.ports.get p).queue with
    | [] => s
    | q :: _ => s.takeCommand p q

/-- ENGINE_TAKE_COMMAND: where the engine is free and no pass is asked for (R47, log 2). -/
def execEngineTakeCommand (s : State) : Host.Outcome State Fault Refusal :=
  .next
    (if s.resetLow || decide (s.engine.work ≠ .idle) || s.engine.waitReq then s else s.engineTake)

end Sys2Proof.Machine
end

