-- ==== Sys2Proof/Machine/Reservation.lean ====
section
/-! DEFINITION. Completions on reservation records: RESERVE, RELEASE, RENEW, QUERY_RESERVATION and LIST_OWNED
(chapters 2 and 3). -/

namespace Sys2Proof.Machine

/-! ## RESERVE -/

/-- The set the search of the command ends with, reading what it has not read yet (R50, R52). -/
def State.searchResult (c : Command) (args : SearchArgs) (s : State) : Option (List Run) :=
  (c.scan.getD (s.newScan args)).finish s.map.isFree

/-- The body of an OK response to RESERVE (Table 11-10). -/
def grantBody (h : Handle) (cls : ResClass) (lease : Nat) (frame : Word) (set : List Run) : List Byte :=
  h.bytes ++ cls.code :: be16 lease ++ be16 frame.toNat ++ setBytes set

/-- RESERVE granted: record `i` is the head of the FIFO and `rest` what stays (R59). -/
def State.reserveGrant (a : ReserveArgs) (c : Command) (set : List Run) (i : RecIx) (rest : List RecIx)
    (s : State) : State :=
  let h := handleOf i (s.pool.records.get i).gen
  State.grantReports i
    (State.answer c.port c.tag .ok (grantBody h a.cls a.lease s.now set)
      (s.grant i rest c.port a.cls set a.lease none a.search.place))

/-- The wait entry of a RESERVE (R72). -/
def waitEntryOf (a : ReserveArgs) (port : Port) (ticket : Byte) (limit : Nat) : WaitEntry :=
  ⟨ticket, port, a.cls, a.search, a.lease, if limit = 0 then none else some limit⟩

/-- The list has room for one more entry of the port (R60, R69). -/
def WaitList.hasRoom (p : Port) (w : WaitList) : Bool :=
  decide (w.entries.length < Config.waitEntries) &&
    decide (w.entries.countP (fun e => e.port = p) < Config.waitEntriesPerPort)

/-- The making of a wait entry (R71, R72, R73). -/
def State.makeEntry (e : WaitEntry) (s : State) : State :=
  State.modPort e.port (fun c => { c with promised := c.promised + e.search.n })
    { s with waits := ⟨s.waits.entries ++ [e], e.ticket⟩ }

/-- RESERVE that found no room (R60). -/
def State.reserveNoRoom (a : ReserveArgs) (c : Command) (s : State) : State :=
  match a.wait with
  | .noWait => s.answer c.port c.tag .noRoom []
  | .wait limit =>
    if s.waits.hasRoom c.port then
      let t := s.waits.nextTicket
      State.answer c.port c.tag .queued (t :: be16 limit) (s.makeEntry (waitEntryOf a c.port t limit))
    else s.answer c.port c.tag .waitFull []

/-- The completion of RESERVE: quota, pool, room (R57 to R60). -/
def State.reserveCompletion (a : ReserveArgs) (c : Command) (s : State) : State :=
  if !quotaCheck (s.ports.get c.port) a.search.n then s.answer c.port c.tag .quotaExceeded []
  else if !poolCheck a.cls s.freeRecords s.params.poolFloor then s.answer c.port c.tag .poolExhausted []
  else
    match s.searchResult c a.search, s.pool.fifo with
    | none, _ => s.reserveNoRoom a c
    | some _, [] => s.answer c.port c.tag .poolExhausted []
    | some set, i :: rest => s.reserveGrant a c set i rest

/-- RESERVE (R55 to R60). -/
def execReserve (s : State) : Host.Outcome State Fault Refusal :=
  .next (s.complete fun r =>
    match r with
    | .reserve a => some (State.reserveCompletion a)
    | _ => none)

/-! ## RELEASE -/

/-- The body of an OK response to RELEASE and FORCE_RELEASE, from the state before the procedure (R39, Table 11-10). -/
def State.releaseBody (a : Reservation) (s : State) : List Byte :=
  be16 (s.releaseDrained a) ++ setBytes a.set ++ setBytes (s.targetOf a)

/-- The completion of RELEASE (R39). -/
def State.releaseCompletion (h : Handle) (c : Command) (s : State) : State :=
  match s.lookup h with
  | none => s.answer c.port c.tag .badHandle []
  | some (i, a) =>
    if a.owner = c.port then
      State.answer c.port c.tag .ok (s.releaseBody a) (s.releaseRecord i .release (some c.port))
    else s.answer c.port c.tag .notOwner []

/-- RELEASE (R39). -/
def execRelease (s : State) : Host.Outcome State Fault Refusal :=
  .next (s.complete fun r =>
    match r with
    | .release h => some (State.releaseCompletion h)
    | _ => none)

/-! ## RENEW -/

/-- The lease after RENEW: 0 keeps the present length (R40). -/
def Lease.renewed (length : Nat) (l : Lease) : Lease :=
  let n := if length = 0 then l.length else length
  ⟨n, n, false⟩

/-- The completion of RENEW (R40). -/
def State.renewCompletion (h : Handle) (length : Nat) (c : Command) (s : State) : State :=
  match s.lookup h with
  | none => s.answer c.port c.tag .badHandle []
  | some (i, a) =>
    if a.owner = c.port then
      match a.lease with
      | none => s.answer c.port c.tag .wrongState []
      | some l =>
        let l' := l.renewed length
        State.answer c.port c.tag .ok (be16 l'.length ++ be16 l'.remaining)
          (s.modReservation i fun r => { r with lease := some l' })
    else s.answer c.port c.tag .notOwner []

/-- RENEW (R40). -/
def execRenew (s : State) : Host.Outcome State Fault Refusal :=
  .next (s.complete fun r =>
    match r with
    | .renew h length => some (State.renewCompletion h length)
    | _ => none)

/-! ## QUERY_RESERVATION -/

/-- The count of a stage: confirm remaining, overlap remaining, or 0 (Table 11-11). -/
def Stage.count : Stage → Nat
  | .offered n => n
  | .armed => 0
  | .overlap n _ => n

/-- Bytes 13 to 16 of the body: context, stage and count, or none (Table 11-11). -/
def moveBytes (ctx : Option (CtxIx × MoveContext)) : List Byte :=
  match ctx with
  | some (k, m) => byteOf k.val :: m.stage.code :: be16 m.stage.count
  | none => [0xFF#8, 0xFF#8, 0x00#8, 0x00#8]

/-- The body of QUERY_RESERVATION (R41, Table 11-11). -/
def State.queryBody (h : Handle) (a : Reservation) (s : State) : List Byte :=
  let flags := bitAt a.ticket.isSome 2 + bitAt (a.lease.any Lease.warned) 1 + bitAt a.lease.isSome 0
  h.bytes ++ [a.state.code, byteOf a.owner.val, a.cls.code, byteOf flags] ++ be16 a.grantFrame.toNat ++
    be16 (a.lease.elim 0 Lease.length) ++ be16 (a.lease.elim 0 Lease.remaining) ++
    [a.ticket.getD 0#8] ++ moveBytes (s.contextOf a) ++ setBytes a.set ++ setBytes (s.targetOf a)

/-- The completion of QUERY_RESERVATION (R41). -/
def State.queryCompletion (h : Handle) (c : Command) (s : State) : State :=
  match s.lookup h with
  | none => s.answer c.port c.tag .badHandle []
  | some (_, a) => s.answer c.port c.tag .ok (s.queryBody h a)

/-- QUERY_RESERVATION (R41). -/
def execQueryReservation (s : State) : Host.Outcome State Fault Refusal :=
  .next (s.complete fun r =>
    match r with
    | .query h => some (State.queryCompletion h)
    | _ => none)

/-! ## LIST_OWNED -/

/-- The records of a port at or above an index, ascending (R42). -/
def State.ownedFrom (p : Port) (start : Nat) (s : State) : List RecIx :=
  allRecords.filter fun i => decide (start ≤ i.val) && decide (s.ownerOf i = some p)

/-- The continuation byte: one above the last handle listed where further records lie above it (R42). -/
def continuation (owned : List RecIx) : Byte :=
  if owned.length ≤ Config.listLimit then 0xFF#8
  else
    match (owned.take Config.listLimit).getLast? with
    | some i => byteOf (i.val + 1)
    | none => 0xFF#8

/-- The body of LIST_OWNED (R42, Table 11-10). -/
def State.listBody (p : Port) (start : Nat) (s : State) : List Byte :=
  let owned := s.ownedFrom p start
  let listed := owned.take Config.listLimit
  [byteOf (s.ports.get p).ownedRecords, continuation owned, byteOf listed.length] ++
    listed.flatMap fun i => (handleOf i (s.pool.records.get i).gen).bytes

/-- The completion of LIST_OWNED (R42). -/
def State.listCompletion (start : Nat) (c : Command) (s : State) : State :=
  s.answer c.port c.tag .ok (s.listBody c.port start)

/-- LIST_OWNED (R42). -/
def execListOwned (s : State) : Host.Outcome State Fault Refusal :=
  .next (s.complete fun r =>
    match r with
    | .listOwned start => some (State.listCompletion start)
    | _ => none)

end Sys2Proof.Machine
end

