-- ==== Sys2Proof/Machine/Admin.lean ====
section
/-! DEFINITION. Administrator commands on reservations, parameters and ports: FORCE_RELEASE, SET_PARAM, SET_PORT, RESET_PORT
and READ_PARAMS (chapter 10). The right is checked before each completion (`State.finish`, R174). -/

namespace Sys2Proof.Machine

/-- The completion of FORCE_RELEASE (R178). -/
def State.forceCompletion (h : Handle) (c : Command) (s : State) : State :=
  match s.lookup h with
  | none => s.answer c.port c.tag .badHandle []
  | some (i, a) =>
    State.answer c.port c.tag .ok (s.releaseBody a) (s.releaseRecord i .force (some c.port))

/-- FORCE_RELEASE (R178). -/
def execForceRelease (s : State) : Host.Outcome State Fault Refusal :=
  .next (s.complete fun r =>
    match r with
    | .forceRelease h => some (State.forceCompletion h)
    | _ => none)

/-! ## Parameters -/

/-- The value of a parameter as it is carried (Table 10-1, Table 11-4). -/
def Params.value (p : Params) : ParamName → Nat
  | .guard => p.guard
  | .overlap => p.overlap
  | .confirmWindow => p.confirmWindow
  | .leaseWarn => p.leaseWarn
  | .poolLow => p.poolLow
  | .poolFloor => p.poolFloor
  | .waitPolicy => p.waitPolicy.code
  | .syncWindow => p.syncWindow

/-- The parameters with one changed (R179). -/
def Params.change (name : ParamName) (v : Nat) (p : Params) : Params :=
  match name with
  | .guard => { p with guard := v }
  | .overlap => { p with overlap := v }
  | .confirmWindow => { p with confirmWindow := v }
  | .leaseWarn => { p with leaseWarn := v }
  | .poolLow => { p with poolLow := v }
  | .poolFloor => { p with poolFloor := v }
  | .waitPolicy => { p with waitPolicy := if v = 0 then .strict else .fit }
  | .syncWindow => { p with syncWindow := v }

/-- The completion of SET_PARAM (R179). -/
def State.setParamCompletion (name : ParamName) (v : Nat) (c : Command) (s : State) : State :=
  let body := name.code :: be16 (s.params.value name) ++ be16 v
  State.answer c.port c.tag .ok body { s with params := s.params.change name v }

/-- SET_PARAM (R179). -/
def execSetParam (s : State) : Host.Outcome State Fault Refusal :=
  .next (s.complete fun r =>
    match r with
    | .setParam name v => some (State.setParamCompletion name v)
    | _ => none)

/-- The body of READ_PARAMS (R181, Table 11-10). -/
def State.paramsBody (s : State) : List Byte :=
  let p := s.params
  [byteOf p.guard, byteOf p.overlap] ++ be16 p.confirmWindow ++ be16 p.leaseWarn ++
    [byteOf p.poolLow, byteOf p.poolFloor, byteOf p.waitPolicy.code] ++ be16 p.syncWindow ++
    s.ports.toList.flatMap fun c => byteOf (bitAt c.admin 0) :: attrBytes c.attrs

/-- The completion of READ_PARAMS (R181). -/
def State.readParamsCompletion (c : Command) (s : State) : State :=
  s.answer c.port c.tag .ok s.paramsBody

/-- READ_PARAMS (R181). -/
def execReadParams (s : State) : Host.Outcome State Fault Refusal :=
  .next (s.complete fun r =>
    match r with
    | .readParams => some State.readParamsCompletion
    | _ => none)

/-! ## Ports -/

/-- A SET_PORT raises a quota (R183). -/
def raisesQuota (old new : Attributes) : Bool :=
  decide (old.slotQuota < new.slotQuota) || decide (old.recordQuota < new.recordQuota)

/-- The completion of SET_PORT (R182, R183). -/
def State.setPortCompletion (p : Port) (attrs : Attributes) (c : Command) (s : State) : State :=
  let s1 := s.modPort p fun q => { q with attrs := attrs }
  let s2 := if raisesQuota (s.ports.get p).attrs attrs then s1.requestPass else s1
  s2.answer c.port c.tag .ok (byteOf p.val :: attrBytes attrs)

/-- SET_PORT (R182). -/
def execSetPort (s : State) : Host.Outcome State Fault Refusal :=
  .next (s.complete fun r =>
    match r with
    | .setPort p attrs => some (State.setPortCompletion p attrs)
    | _ => none)

/-- The policy and the five counts of a port reset, in the order of Table 11-10. -/
def State.resetBody (p : Port) (s : State) : List Byte :=
  let n := s.resetCounts p
  [(s.ports.get p).attrs.policy.code, byteOf n.released, byteOf n.kept, byteOf n.abandoned, byteOf n.entries,
    byteOf n.units]

/-- The completion of RESET_PORT: the port reset, and the answer in the caller's reserved place or, for the caller's own port,
in a free one (R187). -/
def State.resetPortCompletion (p : Port) (c : Command) (s : State) : State :=
  let body := byteOf p.val :: s.resetBody p
  let s1 := s.portReset p
  if p = c.port then s1.modPort p (ClientPort.placeResetAnswer c.tag body)
  else s1.answer c.port c.tag .ok body

/-- RESET_PORT (R187). -/
def execResetPort (s : State) : Host.Outcome State Fault Refusal :=
  .next (s.complete fun r =>
    match r with
    | .resetPort p => some (State.resetPortCompletion p)
    | _ => none)

end Sys2Proof.Machine
end

