-- ==== Sys2Proof/Machine/Frame.lean ====
section
/-! DEFINITION. The Slot Map's reaction to a frame mark, the Record Pool's promotion reports, and the Lease Counter
(R14 to R18, R34, R95 to R102). -/

namespace Sys2Proof.Machine

/-! ## The Slot Map's reaction -/

/-- The slot is in a carry entry for mark `m`. -/
def SlotMap.carried (m : Word) (map : SlotMap) (i : Nat) : Option Port :=
  (map.carry.find? fun e => e.mark = m && inSet e.set i).map CarryEntry.port

/-- One slot through the stages of promotion and drain (R14, R15); carried slots do not drain. -/
def markSlot (carried : Nat → Option Port) (i : Nat) (e : Slot) : Slot :=
  match e with
  | .held idx role armed b => if armed then .live idx role b else .held idx role armed b
  | .draining n b =>
    if (carried i).isSome then .draining n b
    else if n ≤ 1 then (if b then .barred else .free)
    else .draining (n - 1) b
  | .free => .free
  | .live idx role b => .live idx role b
  | .barred => .barred

/-- Insert a promoted set in ascending order of index, each set once (R17). -/
def insertPromoted (x : RecIx × Role) : List (RecIx × Role) → List (RecIx × Role)
  | [] => [x]
  | y :: ys => if x = y then y :: ys else if x.1.val < y.1.val then x :: y :: ys else y :: insertPromoted x ys

/-- The sets the promotion stage promotes, in ascending order of index (R17). -/
def SlotMap.promotedSets (map : SlotMap) : List (RecIx × Role) :=
  map.entries.toList.foldr
    (fun e acc =>
      match e with
      | .held idx role true _ => insertPromoted (idx, role) acc
      | .held _ _ false _ => acc
      | .free => acc
      | .live .. => acc
      | .draining .. => acc
      | .barred => acc)
    []

/-- The owner latched for a slot: the carried port, or the owner of a LIVE slot's record (R2, R16). -/
def State.latchOwner (carried : Nat → Option Port) (s : State) (i : Nat) (e : Slot) : Option Port :=
  match carried i with
  | some p => some p
  | none =>
    match e with
    | .live idx _ _ => s.ownerOf idx
    | .free => none
    | .held .. => none
    | .draining .. => none
    | .barred => none

/-- The three stages of the reaction to mark `m` at the map (R14, R15, R16). -/
def State.latchMap (m : Word) (s : State) : SlotMap :=
  let carried := s.map.carried m
  let map := s.map.rewrite (markSlot carried)
  { map with
    image := map.entries.map (s.latchOwner carried)
    imageMark := some m
    carry := map.carry.filter fun e => e.mark ≠ m }

/-- Hand a promotion report where something was promoted (R17). -/
def State.handPromotion (r : PromotionReport) (s : State) : State :=
  if r.promoted.isEmpty then s
  else { s with reports := { s.reports with pool := s.reports.pool ++ [r], move := s.reports.move ++ [r] } }

/-- The Slot Map's reaction to mark `m`: promotion, drain, latch; the frame counter takes the number (R90); then the reports
(R17, R19, R20). -/
def State.mapReaction (m : Word) (s : State) : State :=
  let ch := s.map.changes (markSlot (s.map.carried m))
  let s1 := { s with map := s.latchMap m, timing := { s.timing with frameCounter := m } }
  State.reportChanges none ch (s1.handPromotion ⟨m, s.map.promotedSets⟩)

/-- The Slot Map takes its next mark, where one is handed and the part is in LOCKED (R18, R89). -/
def State.mapTakeMark (s : State) : State :=
  if s.takesMarks then
    match s.marks.slotMap with
    | [] => s
    | m :: rest => State.mapReaction m { s with marks := { s.marks with slotMap := rest } }
  else s

/-- SLOT_MAP_FRAME_REACTION (R14). -/
def execSlotMapFrameReaction (s : State) : Host.Outcome State Fault Refusal :=
  .next s.mapTakeMark

/-- The next mark ends the drain of the slot (R15). -/
def State.drainNearEnd (i : SlotIx) (s : State) : Bool :=
  match s.map.entries.get i with
  | .draining n _ =>
    decide (n ≤ 1) && s.marks.slotMap.head?.any fun m => (s.map.carried m i.val).isNone
  | .free => false
  | .held .. => false
  | .live .. => false
  | .barred => false

/-- DRAIN_COMPLETE: the reaction, where it ends the drain of the slot (R15, log 4). -/
def execDrainComplete (slot : SlotIx) (s : State) : Host.Outcome State Fault Refusal :=
  .next (if s.drainNearEnd slot then s.mapTakeMark else s)

/-! ## Promotion reports at the Record Pool -/

/-- The Record Pool's action on one entry of a promotion report of mark `m` (R34). -/
def State.promoteRecord (m : Word) (s : State) (e : RecIx × Role) : State :=
  match e.2 with
  | .target => s
  | .current =>
    match s.reservation e.1 with
    | none => s
    | some a =>
      if a.state = .pending ∧ a.grantFrame ≠ m then
        let h := handleOf e.1 (s.pool.records.get e.1).gen
        State.handReport (.record h (some .live))
          (State.post none m (.live h a.set) a.owner
            (s.modReservation e.1 fun r => { r with state := .live }))
      else s

/-- The Record Pool takes the next promotion report, entry by entry (R34). -/
def State.poolTakeReport (s : State) : State :=
  match s.reports.pool with
  | [] => s
  | r :: rest =>
    r.promoted.foldl (State.promoteRecord r.mark) { s with reports := { s.reports with pool := rest } }

/-- PROMOTION_REPORT_POOL: the Record Pool takes the next promotion report (R34). -/
def execPromotionReportPool (s : State) : Host.Outcome State Fault Refusal :=
  .next (if s.resetLow then s else s.poolTakeReport)

/-! ## The Lease Counter -/

/-- A lease counted down to `left` is warned of (R96). -/
def Lease.warns (leaseWarn left : Nat) (l : Lease) : Bool :=
  decide (left = leaseWarn) && decide (leaseWarn ≠ 0) && decide (leaseWarn < l.length) && !l.warned

/-- The Lease Counter counts record `i` at mark `m`: the remaining falls, then the warning, then expiry
(R95, R96, R97). -/
def State.countLease (m : Word) (s : State) (i : RecIx) : State :=
  match s.reservation i with
  | none => s
  | some a =>
    match a.lease with
    | none => s
    | some l =>
      let left := l.remaining - 1
      let warn := l.warns s.params.leaseWarn left
      let s1 := s.modReservation i fun r => { r with lease := some ⟨l.length, left, l.warned || warn⟩ }
      let s2 := if warn then
          s1.post none m (.leaseLow (handleOf i (s.pool.records.get i).gen) left) a.owner
        else s1
      if left = 0 then s2.releaseRecord i .expiry none else s2

/-- The Lease Counter's reaction to mark `m`, records in ascending order (R95). -/
def State.leaseReaction (m : Word) (s : State) : State :=
  allRecords.foldl (State.countLease m) s

/-- The Lease Counter takes its next mark, where one is handed and the part is in LOCKED (R95, R101). -/
def State.leaseTakeMark (s : State) : State :=
  if s.takesMarks then
    match s.marks.lease with
    | [] => s
    | m :: rest => State.leaseReaction m { s with marks := { s.marks with lease := rest } }
  else s

/-- LEASE_COUNTER_REACTION (R95). -/
def execLeaseCounterReaction (s : State) : Host.Outcome State Fault Refusal :=
  .next s.leaseTakeMark

/-- The next mark ends the lease of the record (R97). -/
def State.leaseNearEnd (i : RecIx) (s : State) : Bool :=
  (s.reservation i).any fun a => a.lease.any fun l => decide (l.remaining ≤ 1)

/-- LEASE_EXPIRY: the reaction, where it ends the lease of the record (R97, log 4). -/
def execLeaseExpiry (record : RecIx) (s : State) : Host.Outcome State Fault Refusal :=
  .next (if s.leaseNearEnd record then s.leaseTakeMark else s)

end Sys2Proof.Machine
end

