-- ==== Sys2Proof/Machine/Flags.lean ====
section
/-! DEFINITION. Flags and output pins computed from the state: the link status byte, attention, the data output of a link
and the owner lines. -/

namespace Sys2Proof.Machine

/-- Command space: the lesser of 4 less the unanswered commands and the free response places (R128). -/
def ClientPort.commandSpace (c : ClientPort) : Nat :=
  min (Config.queueDepth - c.queue.length) c.freePlaces

/-- The response count field shows at most 7 (R190). -/
def ClientPort.shownResponses (c : ClientPort) : Nat :=
  min 7 c.stored.length

/-- The event-present flag (R128, R157). -/
def ClientPort.eventPresent (c : ClientPort) : Bool :=
  !c.events.isEmpty

/-- The link status byte as formed at the fall of CPnSEL (R128, Table 11-3). -/
def ClientPort.statusByte (c : ClientPort) : Byte :=
  byteOf (c.shownResponses * 32 + bitAt c.eventPresent 4 + c.commandSpace * 2 + bitAt c.lastFaulted 0)

/-- ATTNn (R141). -/
def State.attn (p : Port) (s : State) : Bool :=
  let c := s.ports.get p
  !c.stored.isEmpty || !c.events.isEmpty

/-- Byte `k` the part shifts out on the link of port `p`; none while CPnDO is in high impedance (Table 7-1, R129,
R130, R136, R146). In a transfer that R146 has ignored, once RESET is high again, the spec gives CPnDO no level: 0x00 is the
model's choice (DESIGN CHOICE, log 14). -/
def State.doByte (p : Port) (k : Nat) (s : State) : Option Byte :=
  match (s.ports.get p).link with
  | .none => none
  | .opened st => some (if k = 0 then st else 0#8)
  | .collecting st frame _ => some (if k = 0 then st else frame.getD (k - 1) 0#8)
  | .ignored => if s.resetLow then none else some 0#8

/-- CPnDO of port `p` at bit time `k` of the transfer, counted from the fall of CPnSEL: the bits of each byte go out most
significant bit first (R127); none in high impedance. -/
def State.doBit (p : Port) (k : Nat) (s : State) : Option Bool :=
  (s.doByte p (k / 8)).map fun b => b.getLsbD (7 - k % 8)

/-- The owner lines for a slot index: the port the image names, or OWNV low and OWN2 to OWN0 at 0 (R93, R94). -/
def FrameTiming.drive (image : Table (Option Port) 512) (t : FrameTiming) : FrameTiming :=
  match t.slotIndex with
  | .slot i =>
    match image.get i with
    | some p => { t with ownv := true, own := BitVec.ofNat 3 p.val }
    | none => { t with ownv := false, own := 0#3 }
  | .none => { t with ownv := false, own := 0#3 }
  | .beyond => { t with ownv := false, own := 0#3 }

/-- Drive the owner lines from the image in force (R93, R94). -/
def State.driveLines (s : State) : State :=
  { s with timing := s.timing.drive s.map.image }

end Sys2Proof.Machine
end

