-- ==== Sys2Proof/Machine/Link.lean ====
section
/-! DEFINITION. Transfers on the links: start, faulted transfer, command transfer and collect (R127 to R137, R142). -/

namespace Sys2Proof.Machine

/-- TRANSFER_START: CPnSEL falls; the status byte is formed from the port as it stands (R127, R128). A transfer that was open
has ended empty, which changes nothing (R127, log 9). While RESET is low the transfer is ignored (R146). -/
def State.startTransfer (p : Port) (s : State) : State :=
  s.modPort p fun c =>
    if s.resetLow then { c with link := .ignored }
    else
      match c.link with
      | .none => { c with link := .opened c.statusByte }
      | .opened _ => { c with link := .opened c.statusByte }
      | .ignored => { c with link := .opened c.statusByte }
      | .collecting .. => c

/-- TRANSFER_START: CPnSEL falls and a transfer opens with the status byte (R127, R128). -/
def execTransferStart (port : Port) (s : State) : Host.Outcome State Fault Refusal :=
  .next (s.startTransfer port)

/-- The end of a transfer that is no collect: what `judge` makes of the port, and CPnSEL high. An ignored transfer only ends
(R146). A collect has its own end (log 2). -/
def State.endTransfer (p : Port) (judge : ClientPort → ClientPort) (s : State) : State :=
  s.modPort p fun c =>
    if s.resetLow then { c with link := .none }
    else
      match c.link with
      | .none => { judge c with link := .none }
      | .opened _ => { judge c with link := .none }
      | .ignored => { c with link := .none }
      | .collecting .. => c

/-- The counters at the end of a faulted transfer (R142). -/
def ClientPort.countFault (c : ClientPort) : ClientPort :=
  { c with faultCount := min 65535 (c.faultCount + 1), lastFaulted := true }

/-- FAULTED_TRANSFER: the type byte is neither of the two, the transfer is ignored and counted at its end
(R129, R142). -/
def execFaultedTransfer (port : Port) (typeByte : Byte) (s : State) : Host.Outcome State Fault Refusal :=
  .next (if typeByte = 0x5A#8 ∨ typeByte = 0xA5#8 then s else s.endTransfer port ClientPort.countFault)

/-- Causes of a link fault (R130). -/
inductive LinkCause where
  | truncated | length | crc
  deriving DecidableEq, Repr

/-- The cause byte of a LINK_FAULT response (R190). -/
def LinkCause.code : LinkCause → Byte
  | .truncated => 0x01#8
  | .length => 0x02#8
  | .crc => 0x03#8

/-- The fault of a command frame, the first condition that holds (R130). `bytes` are the whole bytes after the type byte,
`extra` the rising edges of a partial last byte. -/
def frameFault (bytes : List Byte) (extra : Nat) : Option LinkCause :=
  match bytes with
  | _ :: _ :: len :: _ =>
    let need := 5 + len.toNat
    let covered := 3 + len.toNat
    if extra ≠ 0 then some (if bytes.length < need then .truncated else .length)
    else if bytes.length < need then some .truncated
    else if Config.maxBody < len.toNat ∨ need < bytes.length then some .length
    else if bytes.drop covered ≠ crcBytes (0x5A#8 :: bytes.take covered) then some .crc
    else none
  | [_, _] => some .truncated
  | [_] => some .truncated
  | [] => some .truncated

/-- The acceptance of a frame that is not faulted, with its checks in their order (R131, R132). -/
def ClientPort.accept (tag code : Byte) (body : List Byte) (c : ClientPort) : ClientPort :=
  if tag = 255#8 ∨ c.inFlight.contains tag then c.refuse tag .badTag []
  else if Config.queueDepth ≤ c.queue.length ∨ c.freePlaces = 0 then c.refuse tag .busy []
  else { c with queue := c.queue ++ [⟨tag, code, body, false⟩], inFlight := c.inFlight ++ [tag] }

/-- The judgement of a command transfer at its end: faults, then acceptance (R130, R131, R132, R142). -/
def ClientPort.judgeFrame (bytes : List Byte) (extra : Nat) (c : ClientPort) : ClientPort :=
  match frameFault bytes extra with
  | some cause => c.countFault.refuse 255#8 .linkFault [cause.code]
  | none =>
    match bytes with
    | tag :: code :: len :: rest =>
      ClientPort.accept tag code (rest.take len.toNat) { c with lastFaulted := false }
    | [_, _] => c
    | [_] => c
    | [] => c

/-- COMMAND_TRANSFER: the end of a command transfer; after the type byte came `octets` and the bits `rest` of a partial byte
(R127, R130, R131). Eight bits or more are no partial byte (log 2). -/
def execCommandTransfer (port : Port) (octets : List Octet) (rest : List Bool) (s : State) :
    Host.Outcome State Fault Refusal :=
  .next
    (if 8 ≤ rest.length then s
     else s.endTransfer port (ClientPort.judgeFrame (octets.map packByte) rest.length))

/-- The frame a collect shifts out and whether it is a stored response (R136). -/
def ClientPort.chosen (c : ClientPort) : List Byte × Bool :=
  match c.stored with
  | [] => (emptyFrame, false)
  | r :: _ => (frameOf r.tag r.status r.body, true)

/-- COLLECT_CHOICE: the oldest stored response, or the empty frame, is chosen and fixed (R136). From a link at rest the fall
of CPnSEL is taken with it (log 9). -/
def State.chooseResponse (p : Port) (s : State) : State :=
  if s.resetLow then s
  else
    s.modPort p fun c =>
      match c.link with
      | .none => { c with link := .collecting c.statusByte c.chosen.1 c.chosen.2 }
      | .opened st => { c with link := .collecting st c.chosen.1 c.chosen.2 }
      | .collecting .. => c
      | .ignored => c

/-- COLLECT_CHOICE: the type byte 0xA5 is taken and the frame is fixed (R136). -/
def execCollectChoice (port : Port) (s : State) : Host.Outcome State Fault Refusal :=
  .next (s.chooseResponse port)

/-- A complete collect removes the oldest stored response; its tag leaves flight if it answered a command
(R135, R137). -/
def ClientPort.removeOldest (c : ClientPort) : ClientPort :=
  match c.stored with
  | [] => c
  | r :: rest =>
    { c with
      stored := rest
      inFlight := if r.answers then c.inFlight.filter fun t => t ≠ r.tag else c.inFlight }

/-- COLLECT_END: `edges` rising edges were taken in the transfer. The chosen response is removed where the last of its CRC
was taken and it still stands stored; the last-transfer-faulted flag is cleared (R137, R142). An open transfer of fewer than
eight edges ends empty: nothing but the link changes (R127). A collect has had its type byte's eight edges, and no other transfer of
eight or more ends here (log 2). -/
def ClientPort.endCollect (edges : Nat) (c : ClientPort) : ClientPort :=
  match c.link with
  | .collecting _ frame stored =>
    if edges < 8 then c
    else
      { (if stored && decide (8 * (1 + frame.length) ≤ edges) then c.removeOldest else c) with
        link := .none, lastFaulted := false }
  | .opened _ => if edges < 8 then { c with link := .none } else c
  | .ignored => { c with link := .none }
  | .none => c

/-- COLLECT_END: CPnSEL rises after a collect transfer, or after an empty one (R127, R137). -/
def execCollectEnd (port : Port) (edges : Nat) (s : State) : Host.Outcome State Fault Refusal :=
  .next
    (if s.resetLow then s.modPort port fun c => { c with link := .none }
     else s.modPort port (ClientPort.endCollect edges))

end Sys2Proof.Machine
end

