-- ==== Sys2Proof/Machine/Map.lean ====
section
/-! DEFINITION. Completions on the Slot Map: READ_MAP, BAR and UNBAR (chapters 1 and 10). -/

namespace Sys2Proof.Machine

/-- The entries of a run, ascending. -/
def SlotMap.entriesOf (r : Run) (m : SlotMap) : List Slot :=
  (m.entries.toList.drop r.first).take r.len

/-- The completion of READ_MAP: one item for each slot of the range (R22). -/
def State.readMapCompletion (r : Run) (c : Command) (s : State) : State :=
  s.answer c.port c.tag .ok (rangeBytes r ++ (s.map.entriesOf r).flatMap slotItem)

/-- READ_MAP (R22). -/
def execReadMap (s : State) : Host.Outcome State Fault Refusal :=
  .next (s.complete fun q =>
    match q with
    | .readMap r => some (State.readMapCompletion r)
    | _ => none)

/-- Two runs share a slot. -/
def Run.meets (r q : Run) : Bool :=
  !r.disjoint q

/-- The move of a context is in OFFERED. -/
def MoveContext.isOffered (c : MoveContext) : Bool :=
  match c.stage with
  | .offered _ => true
  | .armed => false
  | .overlap _ _ => false

/-- The contexts whose OFFERED target the run marks, ascending (R11, R119). -/
def State.offersMarked (r : Run) (s : State) : List CtxIx :=
  allContexts.filter fun k =>
    match s.moves.get k with
    | some c => c.isOffered && c.target.any fun q => r.meets q
    | none => false

/-- The bar claim and the abandonments it causes, one by one in ascending order of context (R11, R119, R175). -/
def State.barRun (r : Run) (s : State) : State :=
  (s.offersMarked r).foldl (fun t k => t.abandonMove k .slotBarred t.now none) (s.claim none (barSlot r))

/-- The slots of a run that are BARRED, and those with bar pending, as two bytes (R175). -/
def SlotMap.barCounts (r : Run) (m : SlotMap) : List Byte :=
  [byteOf ((m.entriesOf r).countP fun e => e.state = .barred),
   byteOf ((m.entriesOf r).countP Slot.barPending)]

/-- The completion of BAR (R175). -/
def State.barCompletion (r : Run) (c : Command) (s : State) : State :=
  let s1 := s.barRun r
  s1.answer c.port c.tag .ok (rangeBytes r ++ s1.map.barCounts r)

/-- BAR (R175). -/
def execBar (s : State) : Host.Outcome State Fault Refusal :=
  .next (s.complete fun q =>
    match q with
    | .bar r => some (State.barCompletion r)
    | _ => none)

/-- The completion of UNBAR: the claim, and the wait-pass request whatever it freed. The slots turned FREE are those that were
BARRED, the bars cleared those that were pending (R13, R177). -/
def State.unbarCompletion (r : Run) (c : Command) (s : State) : State :=
  let s1 := (s.claim none (unbarSlot r)).requestPass
  s1.answer c.port c.tag .ok (rangeBytes r ++ s.map.barCounts r)

/-- UNBAR (R177). -/
def execUnbar (s : State) : Host.Outcome State Fault Refusal :=
  .next (s.complete fun q =>
    match q with
    | .unbar r => some (State.unbarCompletion r)
    | _ => none)

end Sys2Proof.Machine
end

