-- ==== Sys2Proof/Machine/PortLocal.lean ====
section
/-! DEFINITION. The commands a port answers itself: FETCH_EVENTS, READ_STATUS, SELF_RESET and ECHO
(R138 to R140, R154, R186). -/

namespace Sys2Proof.Machine

/-! ## FETCH_EVENTS -/

/-- The max count of FETCH_EVENTS, 1 to 16 (R154). -/
def readMaxCount : List Byte → Option Nat
  | [n] => if 1 ≤ n.toNat ∧ n.toNat ≤ 16 then some n.toNat else none
  | _ => none

/-- The body of FETCH_EVENTS: lost count, number, records (R154, R192). -/
def ClientPort.fetchBody (n : Nat) (c : ClientPort) : List Byte :=
  let taken := c.events.take n
  [byteOf c.lost, byteOf taken.length] ++ taken.flatMap Event.bytes

/-- The events taken leave the queue and the lost count clears (R154). -/
def ClientPort.fetch (n : Nat) (c : ClientPort) : ClientPort :=
  { c with events := c.events.drop n, lost := 0 }

/-- The answer to FETCH_EVENTS (R154). -/
def State.fetchAnswer (p : Port) (q : QueuedCommand) (s : State) : State :=
  match readMaxCount q.body with
  | none => s.answer p q.tag .badArgument []
  | some n =>
    State.answer p q.tag .ok ((s.ports.get p).fetchBody n) (s.modPort p (ClientPort.fetch n))

/-- FETCH_EVENTS (R154). -/
def execFetchEvents (port : Port) (s : State) : Host.Outcome State Fault Refusal :=
  .next (s.answerLocal port codeFetchEvents (State.fetchAnswer port))

/-! ## READ_STATUS -/

/-- The 29 bytes of READ_STATUS (R139, Table 11-12). -/
def State.statusBody (p : Port) (s : State) : List Byte :=
  let c := s.ports.get p
  s.timing.sync.code :: be16 s.timing.frameCounter.toNat ++ be16 s.map.freeCount ++ be16 s.map.barredCount ++
    be16 s.map.drainingCount ++
    [byteOf s.freeRecords, byteOf s.waits.entries.length, byteOf s.contextsInUse] ++
    be16 s.timing.errorCount ++ be16 c.ownedSlots ++ [byteOf c.ownedRecords] ++ be16 c.promised ++
    [byteOf c.dropped] ++ be16 c.faultCount ++ [byteOf c.lost, byteOf (bitAt c.admin 0)] ++ attrBytes c.attrs

/-- The answer to READ_STATUS (R139). -/
def State.statusAnswer (p : Port) (q : QueuedCommand) (s : State) : State :=
  match q.body with
  | [] => s.answer p q.tag .ok (s.statusBody p)
  | _ :: _ => s.answer p q.tag .badArgument []

/-- READ_STATUS (R139). -/
def execReadStatus (port : Port) (s : State) : Host.Outcome State Fault Refusal :=
  .next (s.answerLocal port codeReadStatus (State.statusAnswer port))

/-! ## SELF_RESET -/

/-- The answer to SELF_RESET: the port reset of the port, with its response in a free place (R186). -/
def State.selfResetAnswer (p : Port) (q : QueuedCommand) (s : State) : State :=
  match q.body with
  | [] => (s.portReset p).modPort p (ClientPort.placeResetAnswer q.tag (s.resetBody p))
  | _ :: _ => s.answer p q.tag .badArgument []

/-- SELF_RESET (R186). -/
def execSelfReset (port : Port) (s : State) : Host.Outcome State Fault Refusal :=
  .next (s.answerLocal port codeSelfReset (State.selfResetAnswer port))

/-! ## ECHO -/

/-- The answer to ECHO: the same bytes (R140). -/
def State.echoAnswer (p : Port) (q : QueuedCommand) (s : State) : State :=
  s.answer p q.tag .ok q.body

/-- ECHO (R140). -/
def execEcho (port : Port) (s : State) : Host.Outcome State Fault Refusal :=
  .next (s.answerLocal port codeEcho (State.echoAnswer port))

end Sys2Proof.Machine
end

