-- ==== Sys2Proof/Machine/Power.lean ====
section
/-! DEFINITION. RESET: its fall and its return (R144, R146, R189). -/

namespace Sys2Proof.Machine

/-- What is left of a transfer that RESET finds open: it is ignored until CPnSEL rises (R146). -/
def Link.underReset : Link → Link
  | .none => .none
  | .opened _ => .ignored
  | .collecting .. => .ignored
  | .ignored => .ignored

/-- Every block at its power-on values (R189), with RESET at the given level and the rights as given by port number. -/
def State.powerOn (low : Bool) (right : Nat → Bool) (s : State) : State :=
  { pending := s.pending
    resetLow := low
    map := SlotMap.reset
    pool := RecordPool.reset
    engine := Engine.reset
    waits := WaitList.reset
    timing := FrameTiming.reset
    marks := ⟨[], [], [], []⟩
    moves := Table.replicate 4 none
    ports := s.ports.map fun n c => ClientPort.reset c.link.underReset (right n)
    units := Table.replicate 8 none
    reports := ⟨[], [], []⟩
    params := Params.reset }

/-- POWER_ON_RESET: RESET falls. Every block takes its power-on state at once; nothing is posted and nothing in progress is
applied (R189). No port holds the right until the straps are sampled. -/
def execPowerOnReset (s : State) : Host.Outcome State Fault Refusal :=
  .next (s.powerOn true fun _ => false)

/-- RESET_RELEASE: RESET returns high, after it was low. The straps are sampled; each port's right follows its strap and the
three attribute defaults follow the right (R143, R144, R189). -/
def execResetRelease (straps : BitVec 6) (s : State) : Host.Outcome State Fault Refusal :=
  .next (if s.resetLow then s.powerOn false (strapOf straps) else s)

end Sys2Proof.Machine
end

