-- ==== Sys2Proof/Machine/Relocation.lean ====
section
/-! DEFINITION. The Move Unit: RELOCATE, CONFIRM_MOVE, DECLINE_MOVE, promotion reports and the reaction to a frame mark
(chapter 6). -/

namespace Sys2Proof.Machine

/-! ## RELOCATE -/

/-- The lowest-numbered free context (R103). -/
def State.freeContext (s : State) : Option CtxIx :=
  allContexts.find? fun k => s.moves.get k = none

/-- The stage a move begins in (R109). -/
def State.firstStage (owned : Bool) (s : State) : Stage :=
  if owned then .armed else .offered s.params.confirmWindow

/-- The deadline of an offered move (R109). -/
def State.deadline (s : State) : Word :=
  s.now + BitVec.ofNat 16 s.params.confirmWindow

/-- The body of an OK response to RELOCATE (R108, Table 11-10). -/
def State.relocateBody (k : CtxIx) (owned : Bool) (set : List Run) (s : State) : List Byte :=
  byteOf k.val :: (s.firstStage owned).code :: be16 (if owned then 0 else s.deadline.toNat) ++ setBytes set

/-- RELOCATE granted: record `i` with fields `a` moves to `set` in context `k` (R108, R109). -/
def State.relocateGrant (q : RelocateArgs) (c : Command) (k : CtxIx) (i : RecIx) (a : Reservation)
    (set : List Run) (s : State) : State :=
  let owned := decide (a.owner = c.port)
  let ctx : MoveContext := ⟨i, q.handle.gen, some (c.port, c.tag), s.firstStage owned, set⟩
  let s1 := (s.setMove k (some ctx)).claim none (targetSlot i set owned)
  let s2 := (s1.modReservation i fun r => { r with state := .moving, context := some k }).moveRover q.place set
  let s3 := if owned then s2 else s2.post none s.now (.moveOffer q.handle c.tag set s.deadline) a.owner
  (s3.answer c.port c.tag .ok (s.relocateBody k owned set)).handReport (.record q.handle (some .moving))

/-- The completion of RELOCATE, its checks in the order of R107. -/
def State.relocateCompletion (q : RelocateArgs) (c : Command) (s : State) : State :=
  match s.lookup q.handle with
  | none => s.answer c.port c.tag .badHandle []
  | some (i, a) =>
    if !s.mayMove c.port a then s.answer c.port c.tag .notOwner []
    else if a.state ≠ .live then s.answer c.port c.tag .wrongState []
    else
      match s.freeContext with
      | none => s.answer c.port c.tag .noMoveContext []
      | some k =>
        match s.searchResult c (q.search (setTotal a.set)) with
        | none => s.answer c.port c.tag .noRoom []
        | some set => s.relocateGrant q c k i a set

/-- RELOCATE (R107 to R109). -/
def execRelocate (s : State) : Host.Outcome State Fault Refusal :=
  .next (s.complete fun r =>
    match r with
    | .relocate q => some (State.relocateCompletion q)
    | _ => none)

/-! ## The offer -/

/-- What CONFIRM_MOVE and DECLINE_MOVE check: the OFFERED context of the caller's own record, or the answer (R110, R111). -/
def State.ownOffer (h : Handle) (p : Port) (s : State) : Except Status (CtxIx × MoveContext) :=
  match s.lookup h with
  | none => .error .badHandle
  | some (_, a) =>
    if a.owner = p then
      match s.contextOf a with
      | none => .error .wrongState
      | some (k, m) => if m.isOffered then .ok (k, m) else .error .wrongState
    else .error .notOwner

/-- The body of an OK response to CONFIRM_MOVE and DECLINE_MOVE (Table 11-10). -/
def offerBody (k : CtxIx) (m : MoveContext) : List Byte :=
  byteOf k.val :: setBytes m.target

/-- The completion of CONFIRM_MOVE: to ARMED, with the arm claim (R7, R110). -/
def State.confirmCompletion (h : Handle) (c : Command) (s : State) : State :=
  match s.ownOffer h c.port with
  | .error st => s.answer c.port c.tag st []
  | .ok (k, m) =>
    State.answer c.port c.tag .ok (offerBody k m)
      ((s.setMove k (some { m with stage := .armed })).claim none (armSlot m.target))

/-- CONFIRM_MOVE (R110). -/
def execConfirmMove (s : State) : Host.Outcome State Fault Refusal :=
  .next (s.complete fun r =>
    match r with
    | .confirmMove h => some (State.confirmCompletion h)
    | _ => none)

/-- The completion of DECLINE_MOVE (R111). -/
def State.declineCompletion (h : Handle) (c : Command) (s : State) : State :=
  match s.ownOffer h c.port with
  | .error st => s.answer c.port c.tag st []
  | .ok (k, m) => State.answer c.port c.tag .ok (offerBody k m) (s.abandonMove k .declined s.now none)

/-- DECLINE_MOVE (R111). -/
def execDeclineMove (s : State) : Host.Outcome State Fault Refusal :=
  .next (s.complete fun r =>
    match r with
    | .declineMove h => some (State.declineCompletion h)
    | _ => none)

/-! ## Promotion reports -/

/-- The context in use that names the record and stands in ARMED (R114). -/
def State.armedContext (i : RecIx) (s : State) : Option (CtxIx × MoveContext) :=
  allContexts.findSome? fun k =>
    (s.moves.get k).bind fun m => if m.index = i ∧ m.stage = .armed then some (k, m) else none

/-- The Move Unit's action on one entry of a promotion report of mark `m` (R114). -/
def State.startOverlap (m : Word) (s : State) (e : RecIx × Role) : State :=
  match e.2 with
  | .current => s
  | .target =>
    match s.armedContext e.1 with
    | none => s
    | some (k, c) =>
      State.postEach none m (.moveStarted (handleOf c.index c.gen) c.tagField c.target)
        (s.ownerOf c.index).toList
        (s.setMove k (some { c with stage := .overlap s.params.overlap m }))

/-- The Move Unit takes the next promotion report, entry by entry (R114). -/
def State.moveTakeReport (s : State) : State :=
  match s.reports.move with
  | [] => s
  | r :: rest =>
    r.promoted.foldl (State.startOverlap r.mark) { s with reports := { s.reports with move := rest } }

/-- PROMOTION_REPORT_MOVE: the Move Unit takes the next promotion report (R114). -/
def execPromotionReportMove (s : State) : Host.Outcome State Fault Refusal :=
  .next (if s.resetLow then s else s.moveTakeReport)

/-! ## The reaction to a frame mark -/

/-- The carry entry of a cutover claim whose mark the Slot Map has not yet latched (R10). The test is R10's own: the image mark
is not the mark that the claim names. R10 speaks of the two reactions to one mark only; that a claim could also name a mark
earlier than the image mark is shut out by the model (DEDUCED, log 11): every reaction to a mark is taken before the next mark
is accepted. -/
def SlotMap.addCarry (e : CarryEntry) (m : SlotMap) : SlotMap :=
  if m.imageMark = some e.mark then m else { m with carry := m.carry ++ [e] }

/-- The cutover of context `k`, whose fields are `c`, at mark `m` (R10, R35, R116). -/
def State.cutoverMove (k : CtxIx) (c : MoveContext) (m : Word) (s : State) : State :=
  match s.reservation c.index with
  | none => s.setMove k none
  | some a =>
    let h := handleOf c.index c.gen
    let s0 := { s with map := s.map.addCarry ⟨m, a.owner, a.set⟩ }
    let s1 := s0.claim none (cutoverSlot s.params.guard a.set c.target)
    let s2 := s1.modReservation c.index fun r => { r with state := .live, context := none, set := c.target }
    let s3 := (s2.setMove k none).postEach none m (.moveDone h c.tagField c.target)
      (ownerThenRequester (some a.owner) c)
    s3.handReport (.record h (some .live))

/-- The reaction of one context to mark `m` (R112, R113, R116). -/
def State.countContext (m : Word) (s : State) (k : CtxIx) : State :=
  match s.moves.get k with
  | none => s
  | some c =>
    match c.stage with
    | .offered n =>
      if n ≤ 1 then s.abandonMove k .timeout m none
      else s.setMove k (some { c with stage := .offered (n - 1) })
    | .armed => s
    | .overlap n start =>
      if start = m then s
      else if n ≤ 1 then s.cutoverMove k c m
      else s.setMove k (some { c with stage := .overlap (n - 1) start })

/-- The Move Unit's reaction to mark `m`, contexts in ascending order (R112). -/
def State.moveReaction (m : Word) (s : State) : State :=
  allContexts.foldl (State.countContext m) s

/-- The Move Unit takes its next mark, where one is handed and the part is in LOCKED (R112, R123). -/
def State.moveTakeMark (s : State) : State :=
  if s.takesMarks then
    match s.marks.move with
    | [] => s
    | m :: rest => State.moveReaction m { s with marks := { s.marks with move := rest } }
  else s

/-- MOVE_UNIT_FRAME_REACTION (R112). -/
def execMoveUnitFrameReaction (s : State) : Host.Outcome State Fault Refusal :=
  .next s.moveTakeMark

/-- The next mark times out the offer of the context (R113). -/
def State.offerNearEnd (k : CtxIx) (s : State) : Bool :=
  match s.moves.get k with
  | none => false
  | some c =>
    match c.stage with
    | .offered n => decide (n ≤ 1)
    | .armed => false
    | .overlap _ _ => false

/-- CONFIRM_TIMEOUT: the reaction, where it times out the offer of the context (R113, log 4). -/
def execConfirmTimeout (context : CtxIx) (s : State) : Host.Outcome State Fault Refusal :=
  .next (if s.offerNearEnd context then s.moveTakeMark else s)

/-- The next mark `m` cuts over the move of the context (R112, R116). -/
def State.overlapNearEnd (k : CtxIx) (s : State) : Bool :=
  match s.moves.get k with
  | none => false
  | some c =>
    match c.stage with
    | .offered _ => false
    | .armed => false
    | .overlap n start => decide (n ≤ 1) && decide (s.marks.move.head? ≠ some start)

/-- CUTOVER: the reaction, where it cuts over the move of the context (R116, log 4). -/
def execCutover (context : CtxIx) (s : State) : Host.Outcome State Fault Refusal :=
  .next (if s.overlapNearEnd context then s.moveTakeMark else s)

end Sys2Proof.Machine
end

