-- ==== Sys2Proof/Machine/Wait.lean ====
section
/-! DEFINITION. The Wait List: cancellation, passes, and the reaction to a frame mark (chapter 4, R67, R68). -/

namespace Sys2Proof.Machine

/-! ## Cancellation -/

/-- The completion of CANCEL_WAIT (R82). -/
def State.cancelCompletion (ticket : Byte) (c : Command) (s : State) : State :=
  match s.waits.find ticket with
  | none => s.answer c.port c.tag .wrongState []
  | some e =>
    if e.port = c.port then
      State.answer c.port c.tag .ok (ticket :: byteOf e.search.n :: be16 (e.remaining.getD 0)) (s.removeEntry e)
    else s.answer c.port c.tag .notOwner []

/-- CANCEL_WAIT (R82). -/
def execCancelWait (s : State) : Host.Outcome State Fault Refusal :=
  .next (s.complete fun r =>
    match r with
    | .cancelWait t => some (State.cancelCompletion t)
    | _ => none)

/-! ## Passes -/

/-- The entries a pass tries: the head under STRICT, all under FIT, in service order (R75, R76). -/
def State.passEntries (s : State) : List WaitEntry :=
  match s.params.waitPolicy with
  | .strict => (serviceOrder s.waits.entries).take 1
  | .fit => serviceOrder s.waits.entries

/-- A pass begins: the request clears, the policy is read, and the entries to try are fixed. With the list empty the pass
completes at once (R68, R74). -/
def State.beginPass (s : State) : State :=
  let s1 := { s with engine := { s.engine with waitReq := false } }
  match s.passEntries with
  | [] => s1
  | e :: es => s1.setWork (.pass ⟨(e :: es).map WaitEntry.ticket, none, [], s.engine.rover⟩)

/-- WAIT_PASS_BEGIN: where the engine is free and the request set (R47, R68). -/
def execWaitPassBegin (s : State) : Host.Outcome State Fault Refusal :=
  .next (if s.resetLow || decide (s.engine.work ≠ .idle) || !s.engine.waitReq then s else s.beginPass)

/-- A grant of a pass, in the order of R77: record, holdings, grant claim, pointer; the entry leaves; GRANTED; the warning,
the recovery (log 15) and the record report. -/
def State.grantEntry (e : WaitEntry) (set : List Run) (i : RecIx) (rest : List RecIx) (s : State) : State :=
  let h := handleOf i (s.pool.records.get i).gen
  State.grantReports i
    (State.post none s.now (.granted e.ticket h set) e.port
      (State.removeEntry e
        (s.grant i rest e.port e.cls set e.lease (some e.ticket) e.search.place)))

/-- A successful trial at the completion: dropped where its entry has left or a check fails (R68, R77). -/
def State.grantTrial (s : State) (t : Trial) : State :=
  match s.waits.find t.ticket with
  | none => s
  | some e =>
    if quotaCheck (s.ports.get e.port) 0 && poolCheck e.cls s.freeRecords s.params.poolFloor then
      match s.pool.fifo with
      | [] => s
      | i :: rest => s.grantEntry e t.set i rest
    else s

/-- The completion of a pass: its trials are finished and the successful ones granted in their order (R68, R77). -/
def State.completePass (p : Pass) (s : State) : State :=
  (s.finishTrials p).trials.foldl State.grantTrial (s.setWork .idle)

/-- WAIT_PASS_COMPLETION (R68, R77, R78). -/
def execWaitPassCompletion (s : State) : Host.Outcome State Fault Refusal :=
  .next
    (if s.resetLow then s
     else
       match s.engine.work with
       | .pass p => s.completePass p
       | .idle => s
       | .command _ => s)

/-! ## The reaction to a frame mark -/

/-- A limit counted down by one; an unlimited wait is not counted (R79). -/
def WaitEntry.counted (e : WaitEntry) : WaitEntry :=
  { e with remaining := e.remaining.map fun n => n - 1 }

/-- An expired entry leaves and its port is told, stamped with the mark (R80). -/
def State.expireEntry (m : Word) (s : State) (e : WaitEntry) : State :=
  (s.removeEntry e).post none m (.waitExpired e.ticket) e.port

/-- The Wait List's reaction to mark `m`: every limit falls by one, and those at 0 leave in service order (R79, R80). -/
def State.waitReaction (m : Word) (s : State) : State :=
  let es := s.waits.entries.map WaitEntry.counted
  (serviceOrder (es.filter fun e => e.remaining = some 0)).foldl (State.expireEntry m)
    { s with waits := { s.waits with entries := es } }

/-- The Wait List takes its next mark, where one is handed and the part is in LOCKED (R79, R89). -/
def State.waitTakeMark (s : State) : State :=
  if s.takesMarks then
    match s.marks.wait with
    | [] => s
    | m :: rest => State.waitReaction m { s with marks := { s.marks with wait := rest } }
  else s

/-- WAIT_LIST_FRAME_REACTION (R79). -/
def execWaitListFrameReaction (s : State) : Host.Outcome State Fault Refusal :=
  .next s.waitTakeMark

/-- The next mark brings the entry's limit to 0. -/
def WaitEntry.nearEnd (e : WaitEntry) : Bool :=
  e.remaining.any fun n => decide (n ≤ 1)

/-- WAIT_EXPIRY: the reaction, where it expires the entry holding the ticket (R80, log 4). -/
def execWaitExpiry (ticket : Byte) (s : State) : Host.Outcome State Fault Refusal :=
  .next (if (s.waits.find ticket).any WaitEntry.nearEnd then s.waitTakeMark else s)

end Sys2Proof.Machine
end

