-- ==== Sys2Proof/Machine/Timing.lean ====
section
/-! DEFINITION. The Frame Timing Unit: frame starts, slot edges, the sync-watch timer (R85 to R94). -/

namespace Sys2Proof.Machine

/-- The slot-count check at a mark accepted in LOCKED (R92); none at a locking mark (R86). -/
def FrameTiming.checkFrame (t : FrameTiming) : Nat :=
  if t.sync = .locked ∧ t.edgeCount ≠ 512 then min 65535 (t.errorCount + 1) else t.errorCount

/-- The unit after it accepts a frame start: the mark is numbered, the timer started, the frame begun, the lines low
(R86, R87, R89, R91, R94). -/
def FrameTiming.accept (syncWindow : Nat) (t : FrameTiming) : FrameTiming :=
  { sync := .locked
    lastMark := t.lastMark + 1#16
    frameCounter := t.frameCounter
    timer := some (3 * syncWindow)
    slotIndex := .none
    edgeCount := 0
    errorCount := t.checkFrame
    ownv := false
    own := 0#3 }

/-- A mark is handed to the four blocks (R89). -/
def OutstandingMarks.hand (m : Word) (o : OutstandingMarks) : OutstandingMarks :=
  ⟨o.slotMap ++ [m], o.lease ++ [m], o.move ++ [m], o.wait ++ [m]⟩

/-- Everything that the four blocks still have to take of the last mark, taken now: the reactions not yet taken and the
promotion reports they left, in a fixed order (log 11). Where nothing is due it changes nothing. -/
def State.settle (s : State) : State :=
  s.mapTakeMark.poolTakeReport.moveTakeReport.leaseTakeMark.moveTakeMark.waitTakeMark

/-- A frame start (R86, R87). -/
def State.acceptFrame (s : State) : State :=
  let t := s.timing.accept s.params.syncWindow
  let s1 := { s with timing := t, marks := s.marks.hand t.lastMark }
  if s.timing.sync = .locked then s1 else s1.postNotices none t.lastMark .syncLocked

/-- FRAME_START: not taken while RESET is low (R85). What is still due of the last mark is taken first, since no block misses a
mark and the frame counter is one behind the mark only up to its latch (R89, R90, log 11). -/
def execFrameStart (s : State) : Host.Outcome State Fault Refusal :=
  .next (if s.resetLow then s else s.settle.acceptFrame)

/-- The loss of frame timing (R88). -/
def State.loseSync (s : State) : State :=
  State.postNotices none s.now .syncLost { s with timing := { s.timing with sync := .lost, timer := none } }

/-- SYNC_WATCH_TIMEOUT: the timer runs in LOCKED only (R88). What is still due of the last mark is taken first (R89,
log 11). -/
def execSyncWatchTimeout (s : State) : Host.Outcome State Fault Refusal :=
  .next
    (if !s.resetLow && decide (s.timing.sync = .locked) && s.timing.timer.isSome then s.settle.loseSync else s)

/-- The slot index after the k-th edge of a frame (R91). -/
def slotIndexOf (k : Nat) : SlotIndex :=
  if h : 1 ≤ k ∧ k ≤ 512 then .slot ⟨k - 1, by omega⟩ else .beyond

/-- The unit after a SLOTCLK edge (R91). -/
def FrameTiming.edge (t : FrameTiming) : FrameTiming :=
  { t with edgeCount := min 513 (t.edgeCount + 1), slotIndex := slotIndexOf (t.edgeCount + 1) }

/-- A slot edge: the Slot Map's reaction to the last mark is taken first where it is still due, so the first slot of a frame is
driven from the image latched for its mark (R90, R93, R94, log 11). -/
def State.takeEdge (s : State) : State :=
  let s1 := s.mapTakeMark
  State.driveLines { s1 with timing := s1.timing.edge }

/-- SLOT_EDGE: not taken while RESET is low, not counted in SEARCHING (R85, R91). -/
def execSlotEdge (s : State) : Host.Outcome State Fault Refusal :=
  .next
    (if s.resetLow || decide (s.timing.sync = .searching) then s
     else s.takeEdge)

end Sys2Proof.Machine
end

