-- ==== Sys2Proof/Machine/Watch.lean ====
section
/-! DEFINITION. The Watch Units: definition, rearming, clearing, and the taking of reports (chapter 9). -/

namespace Sys2Proof.Machine

/-! ## Results -/

/-- The states a required state admits; a reservation not present is admitted by none (R163). -/
def Required.admits (r : Required) (st : Option ResState) : Bool :=
  match r, st with
  | _, none => false
  | .present, some _ => true
  | .live, some .pending => false
  | .live, some .live => true
  | .live, some .moving => true

/-- The result of a condition (R162, R163). -/
def WatchCond.result : WatchCond → Bool
  | .freeCount _ _ threshold count => decide (threshold ≤ count)
  | .resState _ .all members => members.all Member.met
  | .resState _ .any members => members.any Member.met

/-- The change is selected by the unit's edge; `now` is the new result (R167). -/
def Edge.selects (e : Edge) (now : Bool) : Bool :=
  match e with
  | .both => true
  | .rise => now
  | .fall => !now

/-- The ports of a target set, ascending. -/
def targetPorts (targets : BitVec 6) : List Port :=
  allPorts.filter fun p => targets.getLsbD p.val

/-- The judgement of unit `k` after an evaluation: `u` carries the new condition and the old last result (R167). -/
def State.judgeUnit (k : UnitIx) (u : WatchUnit) (s : State) : State :=
  let now := u.cond.result
  if now = u.last then s.setUnit k (some u)
  else if u.armed && u.edge.selects now then
    State.postEach none s.now (.watch k now) (targetPorts u.targets)
      (s.setUnit k (some { u with last := now, armed := decide (u.mode = .continuous) }))
  else s.setUnit k (some { u with last := now })

/-! ## Taking reports -/

/-- The reported slot lies in the window. -/
def SlotChange.inWindow (lo hi : Nat) (c : SlotChange) : Bool :=
  decide (lo ≤ c.slot) && decide (c.slot ≤ hi)

/-- The window free count after a watch report (R165). -/
def countAfter (lo hi count : Nat) (ch : List SlotChange) : Nat :=
  let mine := ch.filter fun c => c.inWindow lo hi
  count + mine.countP (fun c => decide (c.after = .free) && decide (c.before ≠ .free)) -
    mine.countP (fun c => decide (c.before = .free) && decide (c.after ≠ .free))

/-- Unit `k` takes a watch report (R165). -/
def State.takeSlots (ch : List SlotChange) (s : State) (k : UnitIx) : State :=
  match s.units.get k with
  | none => s
  | some u =>
    match u.cond with
    | .resState _ _ _ => s
    | .freeCount lo hi threshold count =>
      if ch.any fun c => c.inWindow lo hi then
        s.judgeUnit k { u with cond := .freeCount lo hi threshold (countAfter lo hi count ch) }
      else s

/-- A member after a record report: its mark is set where it names the handle (R166). -/
def Member.hear (r : Required) (h : Handle) (st : Option ResState) (m : Member) : Member :=
  if m.handle = h then { m with met := r.admits st } else m

/-- Unit `k` takes a record report (R166). -/
def State.takeRecord (h : Handle) (st : Option ResState) (s : State) (k : UnitIx) : State :=
  match s.units.get k with
  | none => s
  | some u =>
    match u.cond with
    | .freeCount .. => s
    | .resState req comb members =>
      if members.any fun m => m.handle = h then
        s.judgeUnit k { u with cond := .resState req comb (members.map (Member.hear req h st)) }
      else s

/-- The Watch Units take one report: every unit, in ascending order (R165, R166). -/
def State.takeReport (s : State) (r : Report) : State :=
  match r with
  | .slots ch => allUnits.foldl (State.takeSlots ch) s
  | .record h st => allUnits.foldl (State.takeRecord h st) s

/-- The reports handed and not yet taken are taken, in the order of handing (R165, R170, log 7). -/
def State.takeAllReports (s : State) : State :=
  s.reports.watch.foldl State.takeReport { s with reports := { s.reports with watch := [] } }

/-- WATCH_REPORT: the Watch Units take the next report, where it is one of the Slot Map (R165). -/
def execWatchReport (s : State) : Host.Outcome State Fault Refusal :=
  .next
    (if s.resetLow then s
     else
       match s.reports.watch with
       | .slots ch :: rest =>
         State.takeReport { s with reports := { s.reports with watch := rest } } (.slots ch)
       | .record _ _ :: _ => s
       | [] => s)

/-- RECORD_REPORT: the Watch Units take the next report, where it is a record report (R166). -/
def execRecordReport (s : State) : Host.Outcome State Fault Refusal :=
  .next
    (if s.resetLow then s
     else
       match s.reports.watch with
       | .record h st :: rest =>
         State.takeReport { s with reports := { s.reports with watch := rest } } (.record h st)
       | .slots _ :: _ => s
       | [] => s)

/-! ## Commands -/

/-- The unit a SET_WATCH takes, or its answer (R164). -/
def State.chooseUnit (unit : Option UnitIx) (p : Port) (s : State) : Except Status UnitIx :=
  match unit with
  | none =>
    match allUnits.find? fun k => s.units.get k = none with
    | some k => .ok k
    | none => .error .noRoom
  | some k =>
    match s.units.get k with
    | none => .ok k
    | some u => if u.owner = p then .ok k else .error .notOwner

/-- The FREE slots of a window (R162). -/
def SlotMap.windowFree (lo hi : Nat) (m : SlotMap) : Nat :=
  ((m.entries.toList.drop lo).take (hi + 1 - lo)).countP fun e => e = .free

/-- A condition as first evaluated, from the map and the records as they stand (R162, R163, R164). -/
def State.newCond (spec : WatchSpec) (s : State) : WatchCond :=
  match spec with
  | .freeCount lo hi threshold => .freeCount lo hi threshold (s.map.windowFree lo hi)
  | .resState req comb hs =>
    .resState req comb (hs.map fun h => ⟨h, req.admits ((s.lookup h).map fun x => x.2.state)⟩)

/-- The unit a SET_WATCH defines: ARMED, its first result stored (R164). -/
def State.newUnit (a : SetWatchArgs) (p : Port) (s : State) : WatchUnit :=
  let cond := s.newCond a.spec
  ⟨p, true, cond, a.edge, a.targets, a.mode, cond.result⟩

/-- The body of SET_WATCH, CLEAR_WATCH and REARM_WATCH (Table 11-10). -/
def unitBody (k : UnitIx) (result : Bool) : List Byte :=
  [byteOf k.val, byteOf (bitAt result 0)]

/-- The completion of SET_WATCH (R164). -/
def State.setWatchCompletion (a : SetWatchArgs) (c : Command) (s : State) : State :=
  match s.chooseUnit a.unit c.port with
  | .error st => s.answer c.port c.tag st []
  | .ok k =>
    let s1 := s.takeAllReports
    let u := s1.newUnit a c.port
    (s1.setUnit k (some u)).answer c.port c.tag .ok (unitBody k u.last)

/-- SET_WATCH (R164). -/
def execSetWatch (s : State) : Host.Outcome State Fault Refusal :=
  .next (s.complete fun r =>
    match r with
    | .setWatch a => some (State.setWatchCompletion a)
    | _ => none)

/-- The completion of CLEAR_WATCH (R169). -/
def State.clearWatchCompletion (k : UnitIx) (c : Command) (s : State) : State :=
  match s.units.get k with
  | none => s.answer c.port c.tag .wrongState []
  | some u =>
    if u.owner = c.port then (s.setUnit k none).answer c.port c.tag .ok (unitBody k u.last)
    else s.answer c.port c.tag .notOwner []

/-- CLEAR_WATCH (R169). -/
def execClearWatch (s : State) : Host.Outcome State Fault Refusal :=
  .next (s.complete fun r =>
    match r with
    | .clearWatch k => some (State.clearWatchCompletion k)
    | _ => none)

/-- The completion of REARM_WATCH (R168). -/
def State.rearmWatchCompletion (k : UnitIx) (c : Command) (s : State) : State :=
  match s.units.get k with
  | none => s.answer c.port c.tag .wrongState []
  | some u =>
    if u.owner ≠ c.port then s.answer c.port c.tag .notOwner []
    else if u.armed then s.answer c.port c.tag .wrongState []
    else (s.setUnit k (some { u with armed := true })).answer c.port c.tag .ok (unitBody k u.last)

/-- REARM_WATCH (R168). -/
def execRearmWatch (s : State) : Host.Outcome State Fault Refusal :=
  .next (s.complete fun r =>
    match r with
    | .rearmWatch k => some (State.rearmWatchCompletion k)
    | _ => none)

end Sys2Proof.Machine
end

