-- ==== Sys2Proof/Machine/Dispatch.lean ====
section
/-! DEFINITION. One arm for each command, each the direct call of its meaning. -/

namespace Sys2Proof.Machine

/-- The effect of a command on everything but the queue. -/
def exec (i : Instr) (s : State) : Host.Outcome State Fault Refusal :=
  match i with
  | .powerOnReset => Sys2Proof.Machine.execPowerOnReset s
  | .resetRelease straps => Sys2Proof.Machine.execResetRelease straps s
  | .transferStart port => Sys2Proof.Machine.execTransferStart port s
  | .faultedTransfer port typeByte => Sys2Proof.Machine.execFaultedTransfer port typeByte s
  | .commandTransfer port octets rest => Sys2Proof.Machine.execCommandTransfer port octets rest s
  | .collectChoice port => Sys2Proof.Machine.execCollectChoice port s
  | .collectEnd port edges => Sys2Proof.Machine.execCollectEnd port edges s
  | .engineTakeCommand => Sys2Proof.Machine.execEngineTakeCommand s
  | .reserve => Sys2Proof.Machine.execReserve s
  | .release => Sys2Proof.Machine.execRelease s
  | .renew => Sys2Proof.Machine.execRenew s
  | .queryReservation => Sys2Proof.Machine.execQueryReservation s
  | .listOwned => Sys2Proof.Machine.execListOwned s
  | .readMap => Sys2Proof.Machine.execReadMap s
  | .cancelWait => Sys2Proof.Machine.execCancelWait s
  | .relocate => Sys2Proof.Machine.execRelocate s
  | .confirmMove => Sys2Proof.Machine.execConfirmMove s
  | .declineMove => Sys2Proof.Machine.execDeclineMove s
  | .setWatch => Sys2Proof.Machine.execSetWatch s
  | .clearWatch => Sys2Proof.Machine.execClearWatch s
  | .rearmWatch => Sys2Proof.Machine.execRearmWatch s
  | .bar => Sys2Proof.Machine.execBar s
  | .unbar => Sys2Proof.Machine.execUnbar s
  | .forceRelease => Sys2Proof.Machine.execForceRelease s
  | .setParam => Sys2Proof.Machine.execSetParam s
  | .setPort => Sys2Proof.Machine.execSetPort s
  | .resetPort => Sys2Proof.Machine.execResetPort s
  | .readParams => Sys2Proof.Machine.execReadParams s
  | .fetchEvents port => Sys2Proof.Machine.execFetchEvents port s
  | .readStatus port => Sys2Proof.Machine.execReadStatus port s
  | .selfReset port => Sys2Proof.Machine.execSelfReset port s
  | .echo port => Sys2Proof.Machine.execEcho port s
  | .waitPassBegin => Sys2Proof.Machine.execWaitPassBegin s
  | .waitPassCompletion => Sys2Proof.Machine.execWaitPassCompletion s
  | .frameStart => Sys2Proof.Machine.execFrameStart s
  | .syncWatchTimeout => Sys2Proof.Machine.execSyncWatchTimeout s
  | .slotEdge => Sys2Proof.Machine.execSlotEdge s
  | .slotMapFrameReaction => Sys2Proof.Machine.execSlotMapFrameReaction s
  | .drainComplete slot => Sys2Proof.Machine.execDrainComplete slot s
  | .promotionReportPool => Sys2Proof.Machine.execPromotionReportPool s
  | .promotionReportMove => Sys2Proof.Machine.execPromotionReportMove s
  | .leaseCounterReaction => Sys2Proof.Machine.execLeaseCounterReaction s
  | .leaseExpiry record => Sys2Proof.Machine.execLeaseExpiry record s
  | .moveUnitFrameReaction => Sys2Proof.Machine.execMoveUnitFrameReaction s
  | .confirmTimeout context => Sys2Proof.Machine.execConfirmTimeout context s
  | .cutover context => Sys2Proof.Machine.execCutover context s
  | .waitListFrameReaction => Sys2Proof.Machine.execWaitListFrameReaction s
  | .waitExpiry ticket => Sys2Proof.Machine.execWaitExpiry ticket s
  | .watchReport => Sys2Proof.Machine.execWatchReport s
  | .recordReport => Sys2Proof.Machine.execRecordReport s

end Sys2Proof.Machine
end

