-- ==== Sys2Proof/Machine/Step.lean ====
section
/-! DEFINITION. One step of the block: the command at the front of the queue, or, on an empty queue, one reading of the
engine's search (log 1, log 3). -/

namespace Sys2Proof.Machine

/-- One step. -/
def step (s : State) : Host.Outcome State Fault Refusal :=
  match s.pending with
  | [] => .next s.idleStep
  | c :: rest => exec c { s with pending := rest }

/-- `s` with the command a table word spells put in front of its queue; no word spells one (log 1). -/
def State.withFetchWord (s : State) (nbits w : Nat) : State :=
  match decodeTableWord nbits w with
  | none => s
  | some c => { s with pending := c :: s.pending }

end Sys2Proof.Machine
end

