-- ==== Sys2Proof/Safety.lean ====
section
/-! DEFINITION. What the statements speak of: a command in the engine, its answer, a record released, what a search finds, how a
body is laid out, and the invariants of the part (R2, R3, R28, R33, R69, R71, R73, R89, R90, R93, R104, R133, R134, R135,
R150). -/

namespace Sys2Proof.Machine

/-! ## Commands and their answers -/

/-- The engine holds this command of port `p`, not withdrawn, at the head of its port's queue; RESET is high and the port may
issue it (R46, R51, R133). -/
def State.Engaged (p : Port) (tag : Byte) (req : Request) (scan : Option Scan) (s : State) : Prop :=
  s.resetLow = false ∧ s.engine.work = .command ⟨p, tag, req, false, scan⟩ ∧ s.permits p req = true ∧
    (s.ports.get p).queue ≠ []

/-- `s` with the command at the head of port `p`'s queue answered and the engine free, and nothing else changed (R50, R134). -/
def State.answered (p : Port) (tag : Byte) (status : Status) (body : List Byte) (s : State) : State :=
  { s with
    engine := { s.engine with work := .idle }
    ports := s.ports.modify p fun c =>
      { c with queue := c.queue.tail, stored := c.stored ++ [⟨tag, status, body, true⟩] } }

/-- Port `p` of `t` has the answer stored and its head command gone, against `s` (R134). -/
def State.HasAnswer (p : Port) (tag : Byte) (status : Status) (body : List Byte) (s t : State) : Prop :=
  (t.ports.get p).queue = (s.ports.get p).queue.tail ∧
    (t.ports.get p).stored = (s.ports.get p).stored ++ [⟨tag, status, body, true⟩]

/-- `t` is `s` but for port `p`. -/
def State.SameBut (p : Port) (s t : State) : Prop :=
  t = { s with ports := t.ports } ∧ ∀ q, q ≠ p → t.ports.get q = s.ports.get q

/-- The handle names no record: index above 191, record free, or another generation (R26). -/
def State.Stale (h : Handle) (s : State) : Prop :=
  ∀ i : RecIx, i.val = h.index.toNat → (s.pool.records.get i).alloc = none ∨ (s.pool.records.get i).gen ≠ h.gen

/-- The handle names record `i`, whose fields are `a` (R26). -/
def State.Names (h : Handle) (i : RecIx) (a : Reservation) (s : State) : Prop :=
  i.val = h.index.toNat ∧ (s.pool.records.get i).alloc = some a ∧ (s.pool.records.get i).gen = h.gen

/-- Every slot entry of `t` is what `f` makes of the entry of `s`; the counts' own statement is `State.CountsAgree`. -/
def State.EntriesBy (f : Nat → Slot → Slot) (s t : State) : Prop :=
  ∀ i : SlotIx, t.map.entries.get i = f i.val (s.map.entries.get i)

/-- The watch report due where the slot entries went from `before` to `after`: each slot whose state changed, ascending, with its
state before and after; none where no state changed (R20). -/
def slotReport (before after : SlotIx → Slot) : List Report :=
  let changed := (List.finRange 512).filter fun j => decide ((before j).state ≠ (after j).state)
  if changed = [] then [] else [.slots (changed.map fun j => ⟨j.val, (before j).state, (after j).state⟩)]

/-- The watch report due from the entries of `s` to those of `t` (R20). -/
def State.slotReportTo (s t : State) : List Report :=
  slotReport s.map.entries.get t.map.entries.get

/-- The slots of a set that are HELD with a bar pending, ascending: a give-up claim turns them BARRED (R8, R12). -/
def heldBarred (entry : SlotIx → Slot) (set : List Run) : List Nat :=
  ((List.finRange 512).filter fun j => inSet set j.val && (entry j).barPending &&
    decide ((entry j).state = .held)).map Fin.val

/-- A slot of a set is HELD with no bar pending: a give-up claim turns it FREE (R8). -/
def heldFreed (entry : SlotIx → Slot) (set : List Run) : Bool :=
  (List.finRange 512).any fun j => inSet set j.val && !(entry j).barPending && decide ((entry j).state = .held)

/-- One command after the other leads from `s` to `t`. -/
def State.RunsTo : List Instr → State → State → Prop
  | [], s, t => t = s
  | c :: rest, s, t => ∃ u, exec c s = .next u ∧ State.RunsTo rest u t

/-- The frame image, the image mark and the frame timing of `t` are those of `s`. -/
def State.SameFrame (s t : State) : Prop :=
  t.map.image = s.map.image ∧ t.map.imageMark = s.map.imageMark ∧ t.timing = s.timing

/-- A record freed from `s` to `t`, whatever the cause: its sets given up, its context freed, its generation advanced, its
index at the tail of the FIFO, the wait-pass request set (R27, R28, R36). The other records stay. -/
def State.Released (i : RecIx) (a : Reservation) (s t : State) : Prop :=
  s.EntriesBy (giveUpSlot s.params.guard (a.set ++ s.targetOf a)) t ∧
    t.pool.records = s.pool.records.set i ⟨(s.pool.records.get i).gen + 1#8, none⟩ ∧
    t.pool.fifo = s.pool.fifo ++ [i] ∧
    t.moves = (match s.contextOf a with
      | some (k, _) => s.moves.set k none
      | none => s.moves) ∧
    t.engine.waitReq = true ∧ s.SameFrame t ∧ t.map.carry = s.map.carry ∧
    t.waits = s.waits ∧ t.marks = s.marks ∧ t.units = s.units ∧ t.params = s.params

/-- The holdings of a port fall by a record of `a` (R33). -/
def HoldingsFall (a : Reservation) (before after : ClientPort) : Prop :=
  after.ownedSlots = before.ownedSlots - setTotal a.set ∧ after.ownedRecords = before.ownedRecords - 1

/-- A port after a list of postings at its queue, in order (R151, R152). -/
def ClientPort.postAll (es : List Event) (c : ClientPort) : ClientPort :=
  es.foldl (fun d e => d.post e) c

/-- The event queue and the lost count of each port of `t` are those of `s` after the postings that `es` lists for it. -/
def State.EventsBy (es : Port → List Event) (s t : State) : Prop :=
  ∀ q, (t.ports.get q).events = ((s.ports.get q).postAll (es q)).events ∧
    (t.ports.get q).lost = ((s.ports.get q).postAll (es q)).lost

/-- A list of one event where a condition holds. -/
def eventIf (b : Bool) (stamp : Word) (body : EventBody) : List Event :=
  if b then [⟨stamp, body⟩] else []

/-- Everything of a port but its queues of commands, responses and events, its link and its holdings. -/
def ClientPort.SameRest (c d : ClientPort) : Prop :=
  d.inFlight = c.inFlight ∧ d.faultCount = c.faultCount ∧ d.lastFaulted = c.lastFaulted ∧ d.dropped = c.dropped ∧
    d.attrs = c.attrs ∧ d.admin = c.admin ∧ d.link = c.link

/-- The other ports of `t` are those of `s` but for their event queues and lost counts. -/
def State.OthersBut (p : Port) (s t : State) : Prop :=
  ∀ q, q ≠ p →
    t.ports.get q = { s.ports.get q with events := (t.ports.get q).events, lost := (t.ports.get q).lost }

/-- The power-on values of a port whose administrator right is `right` (Tables 4-2, 7-4, 7-5, 8-3, 2-3). -/
def ClientPort.AtPowerOn (right : Bool) (c : ClientPort) : Prop :=
  c.queue = [] ∧ c.stored = [] ∧ c.inFlight = [] ∧ c.faultCount = 0 ∧ c.lastFaulted = false ∧ c.dropped = 0 ∧
    c.events = [] ∧ c.lost = 0 ∧ c.ownedSlots = 0 ∧ c.ownedRecords = 0 ∧ c.promised = 0 ∧ c.admin = right ∧
    c.attrs = ⟨128, 48, .reclaim, right, right, right⟩

/-- The power-on values of every block (Tables 1-8, 2-3, 3-1, 4-2, 5-1, 6-10, 10-6 and R161), the ports' rights given. -/
def State.AtPowerOn (right : Port → Bool) (s : State) : Prop :=
  ((∀ i, s.map.entries.get i = .free) ∧ s.map.freeCount = 512 ∧ s.map.barredCount = 0 ∧ s.map.drainingCount = 0 ∧
      (∀ i, s.map.image.get i = none) ∧ s.map.imageMark = none ∧ s.map.carry = []) ∧
    ((∀ i, s.pool.records.get i = ⟨0#8, none⟩) ∧ s.pool.fifo = List.finRange 192 ∧ s.pool.warnArmed = true) ∧
    s.engine = ⟨.idle, 5, 0, false⟩ ∧ s.waits = ⟨[], 255#8⟩ ∧
    s.timing = ⟨.searching, 0#16, 0#16, none, .none, 0, 0, false, 0#3⟩ ∧ s.marks = ⟨[], [], [], []⟩ ∧
    (∀ k, s.moves.get k = none) ∧ (∀ k, s.units.get k = none) ∧ s.reports = ⟨[], [], []⟩ ∧
    s.params = ⟨2, 4, 800, 64, 16, 4, .fit, 125⟩ ∧ ∀ p, (s.ports.get p).AtPowerOn (right p)

/-- A port's dealings cleared by its reset, its counters, attributes, right and link counters kept (R145, R158, R185). -/
def ClientPort.ResetFrom (before after : ClientPort) : Prop :=
  after.queue = [] ∧ after.events = [] ∧ after.lost = 0 ∧ after.promised = 0 ∧ after.faultCount = before.faultCount ∧
    after.lastFaulted = before.lastFaulted ∧ after.dropped = before.dropped ∧ after.attrs = before.attrs ∧
    after.admin = before.admin

/-- A record after the reset of port `q` under a policy; `moving` is the context of the record, if any (R43, R120). -/
def resetRecordBy (q : Port) (policy : ResetPolicy) (moving : Option MoveContext) (r : Record) : Record :=
  match r.alloc with
  | none => r
  | some a =>
    if a.owner ≠ q then r
    else
      match policy with
      | .reclaim => ⟨r.gen + 1#8, none⟩
      | .retain => if moving.any MoveContext.isOffered then ⟨r.gen, some { a with state := .live, context := none }⟩ else r

/-- A move context after the reset of port `q`; `owner` is the owner of its record (R120, R121). -/
def resetContextBy (q : Port) (policy : ResetPolicy) (owner : Option Port) (c : MoveContext) : Option MoveContext :=
  if owner = some q then
    match policy with
    | .reclaim => none
    | .retain => if c.isOffered then none else some c
  else some (if c.requesterPort = some q then { c with requester := none } else c)

/-- The slots that a reset of port `q` gives up: under RECLAIM both sets of each of its records, under RETAIN the targets of
its OFFERED moves (R43, R120). -/
def State.givenByReset (q : Port) (s : State) : List Run :=
  (List.finRange 192).flatMap fun i =>
    match s.reservation i with
    | none => []
    | some a =>
      if a.owner ≠ q then []
      else
        match (s.ports.get q).attrs.policy with
        | .reclaim => a.set ++ s.targetOf a
        | .retain => if (s.contextOf a).any fun x => x.2.isOffered then s.targetOf a else []

/-- What a reset of port `q` makes of everything but the port's responses: slots given up, entries removed, units freed,
requesters dropped, records dealt with by the policy (R83, R171, R185). -/
def State.ResetBy (q : Port) (s t : State) : Prop :=
  let policy := (s.ports.get q).attrs.policy
  let owned := (List.finRange 192).filter fun i => decide (s.ownerOf i = some q)
  (s.ports.get q).ResetFrom (t.ports.get q) ∧
    t.waits = ⟨s.waits.entries.filter fun e => e.port ≠ q, s.waits.lastTicket⟩ ∧
    (∀ k, t.units.get k = (s.units.get k).bind fun u => if u.owner = q then none else some u) ∧
    (∀ k, t.moves.get k = (s.moves.get k).bind fun c => resetContextBy q policy (s.ownerOf c.index) c) ∧
    (∀ i, t.pool.records.get i =
      resetRecordBy q policy (((s.reservation i).bind s.contextOf).map Prod.snd) (s.pool.records.get i)) ∧
    t.pool.fifo = s.pool.fifo ++ (if policy = .reclaim then owned else []) ∧
    s.EntriesBy (giveUpSlot s.params.guard (s.givenByReset q)) t ∧
    (policy = .retain → (t.ports.get q).ownedSlots = (s.ports.get q).ownedSlots ∧
      (t.ports.get q).ownedRecords = (s.ports.get q).ownedRecords) ∧
    t.reports.pool = s.reports.pool ∧ t.reports.move = s.reports.move ∧
    s.SameFrame t ∧ t.marks = s.marks ∧ t.params = s.params ∧ t.map.carry = s.map.carry ∧ t.resetLow = s.resetLow

/-- The counts of a reset of port `q`, in the order of Table 11-10: released, kept, abandoned, entries, units (R185). -/
def State.CountsOfReset (q : Port) (s : State) : List Byte :=
  let policy := (s.ports.get q).attrs.policy
  let owned := s.pool.records.toList.countP fun r => r.alloc.map Reservation.owner = some q
  let freed := s.moves.toList.countP fun m =>
    m.any fun c => decide (s.ownerOf c.index = some q) && (decide (policy = .reclaim) || c.isOffered)
  [BitVec.ofNat 8 (if policy = .reclaim then owned else 0), BitVec.ofNat 8 (if policy = .retain then owned else 0),
    BitVec.ofNat 8 freed, BitVec.ofNat 8 (s.waits.entries.countP fun e => e.port = q),
    BitVec.ofNat 8 (s.units.toList.countP fun u => u.map WatchUnit.owner = some q)]

/-- What a record of port `q` gives up in the reset of `q`: under RECLAIM both its sets, under RETAIN the target of an OFFERED move
(R43, R120). -/
def State.givenOf (policy : ResetPolicy) (a : Reservation) (s : State) : List Run :=
  match policy with
  | .reclaim => a.set ++ s.targetOf a
  | .retain => if (s.contextOf a).any fun x => x.2.isOffered then s.targetOf a else []

/-- What a reset of port `q` tells the rest of the part: the events at the other ports, record by record in ascending order of
index, each stamped with the frame counter (BAR_DONE of the record's give-up, MOVE_ABANDONED to a requester, POOL_RECOVERED at the
first freeing that reaches the recovery level with the flag clear); the reports to the Watch Units; the flag, the holdings and
the wait-pass request (R32, R43, R83, R118, R120, R188; BAR_DONE before MOVE_ABANDONED is log 8). -/
def State.ResetTells (q : Port) (s t : State) : Prop :=
  let now := s.timing.frameCounter
  let policy := (s.ports.get q).attrs.policy
  let reclaims := decide (policy = .reclaim)
  let owned := (List.finRange 192).filterMap fun i => match s.pool.records.get i with
    | ⟨gen, some a⟩ => if a.owner = q then some (Handle.mk (BitVec.ofNat 8 i.val) gen, a) else none
    | ⟨_, none⟩ => none
  let entry (k : Nat) (j : SlotIx) : Slot :=
    giveUpSlot s.params.guard ((owned.take k).flatMap fun x => s.givenOf policy x.2) j.val (s.map.entries.get j)
  let level := min 192 (s.params.poolLow + 4)
  let recovers (k : Nat) : Bool := reclaims && !s.pool.warnArmed && decide (level ≤ s.pool.fifo.length + k + 1) &&
    (decide (k = 0) || decide (s.pool.fifo.length + k < level))
  let ofRecord (o : Port) (x : (Handle × Reservation) × Nat) : List Event :=
    let bars := heldBarred (entry x.2) (s.givenOf policy x.1.2)
    eventIf ((s.ports.get o).attrs.notices && !bars.isEmpty) now (.barDone bars.length (barDoneSet bars)) ++
      (match s.contextOf x.1.2 with
        | some (_, c) => eventIf (decide (c.requesterPort = some o) && (reclaims || c.isOffered)) now
            (.moveAbandoned x.1.1 c.tagField c.target (if reclaims then .released else .ownerReset))
        | none => []) ++
      eventIf ((s.ports.get o).attrs.notices && recovers x.2) now (.poolRecovered (s.pool.fifo.length + x.2 + 1))
  let reportsOf (x : (Handle × Reservation) × Nat) : List Report :=
    let abandons := (s.contextOf x.1.2).any fun y => y.2.isOffered
    if reclaims then slotReport (entry x.2) (entry (x.2 + 1)) ++ [.record x.1.1 none]
    else if abandons then slotReport (entry x.2) (entry (x.2 + 1)) ++ [.record x.1.1 (some .live)]
    else []
  (∀ o, o ≠ q →
      (t.ports.get o).events = ((s.ports.get o).postAll (owned.zipIdx.flatMap (ofRecord o))).events ∧
        (t.ports.get o).lost = ((s.ports.get o).postAll (owned.zipIdx.flatMap (ofRecord o))).lost) ∧
    t.reports.watch = s.reports.watch ++ owned.zipIdx.flatMap reportsOf ∧
    t.pool.warnArmed = (s.pool.warnArmed ||
      reclaims && !owned.isEmpty && decide (level ≤ s.pool.fifo.length + owned.length)) ∧
    (reclaims = true →
      (t.ports.get q).ownedSlots = (s.ports.get q).ownedSlots - (owned.map fun x => setTotal x.2.set).sum ∧
        (t.ports.get q).ownedRecords = (s.ports.get q).ownedRecords - owned.length) ∧
    t.engine.waitReq = (s.engine.waitReq || s.waits.entries.any (fun e => decide (e.port = q)) ||
      reclaims && !owned.isEmpty || heldFreed (entry 0) (owned.flatMap fun x => s.givenOf policy x.2))

/-- A watch unit after its condition was evaluated to `cond`: the last result, and the fall to HELD (R167). -/
def WatchUnit.judged (cond : WatchCond) (u : WatchUnit) : WatchUnit :=
  let turned := decide (cond.result ≠ u.last) && u.edge.selects cond.result
  { u with cond := cond, last := cond.result, armed := u.armed && !(turned && decide (u.mode = .oneShot)) }

/-- The WATCH events of a unit's evaluation at port `q` (R167). -/
def WatchUnit.eventsAt (k : UnitIx) (q : Port) (stamp : Word) (cond : WatchCond) (u : WatchUnit) : List Event :=
  eventIf (u.armed && decide (cond.result ≠ u.last) && u.edge.selects cond.result && u.targets.getLsbD q.val) stamp
    (.watch k cond.result)

/-! ## Searches -/

/-- The maximal free stretches of the slots from `first` on, `len` of them, in ascending order (R61). -/
def Stretches (free : Nat → Bool) (first len : Nat) (rs : List Run) : Prop :=
  (∀ r ∈ rs, 1 ≤ r.len ∧ first ≤ r.first ∧ r.first + r.len ≤ first + len) ∧
    rs.Pairwise (fun r q => r.first + r.len < q.first) ∧
    ∀ j, first ≤ j → j < first + len → (free j = true ↔ inSet rs j = true)

/-- The collection of runs under shape SPLIT, from the stretches still to be met, the remaining and the runs that may still be
accepted, to the runs accepted from here on, or none where no room is found (R63). -/
inductive SplitFrom (minRun : Nat) : List Run → Nat → Nat → Option (List Run) → Prop
  | done (rs : List Run) (left : Nat) : SplitFrom minRun rs 0 left (some [])
  | full (rs : List Run) (n : Nat) : n ≠ 0 → SplitFrom minRun rs n 0 none
  | over (n left : Nat) : n ≠ 0 → left ≠ 0 → SplitFrom minRun [] n left none
  | take (r : Run) (rs : List Run) (n left k : Nat) (result : Option (List Run)) : n ≠ 0 →
      k = min r.len (min 64 n) → min minRun n ≤ k →
      SplitFrom minRun (if k < r.len then ⟨r.first + k, r.len - k⟩ :: rs else rs) (n - k) left result →
      SplitFrom minRun (r :: rs) n (left + 1) (result.map fun got => ⟨r.first, k⟩ :: got)
  | pass (r : Run) (rs : List Run) (n left : Nat) (result : Option (List Run)) : n ≠ 0 →
      min r.len (min 64 n) < min minRun n → SplitFrom minRun rs n (left + 1) result →
      SplitFrom minRun (r :: rs) n (left + 1) result

/-! ## Layouts -/

/-- A number as two bytes, most significant first. -/
def wordBytes (n : Nat) : List Byte := [BitVec.ofNat 8 (n / 256), BitVec.ofNat 8 n]

/-- The eight bits of a byte in the order they cross a link, most significant first (R127). -/
def octetOf (b : Byte) : Octet :=
  let bit (place : Nat) : Bool := decide (b.toNat / 2 ^ place % 2 = 1)
  ⟨bit 7, bit 6, bit 5, bit 4, bit 3, bit 2, bit 1, bit 0⟩

/-- The shape bytes of a command spell the shape; 2 is the default shape, of RELOCATE alone (R55, R105, Table 11-4). -/
def ShapeBytes (relocates : Bool) (shape : Shape) (bytes : List Byte) : Prop :=
  ∃ minRun maxRuns : Byte, match shape with
    | .contiguous => bytes = [0#8, minRun, maxRuns]
    | .split least most =>
      bytes = [1#8, minRun, maxRuns] ∧ least = minRun.toNat ∧ most = maxRuns.toNat ∨
        relocates = true ∧ bytes = [2#8, minRun, maxRuns] ∧ least = 1 ∧ most = 4

/-- The placement byte, the window, the bytes of a command between them and its run list, and the conditions on them; the shape is
judged under NEXT_FIT and LOW_FIT alone (Tables 3-4, 11-4, 11-10, R105, R191). -/
def PlacementBytes (shape : Shape) (place : Placement) (lo hi : Nat) (code : Byte) (list : List Byte) : Prop :=
  lo ≤ hi ∧ hi ≤ 511 ∧
    match place with
    | .atRuns runs => code = 2#8 ∧
        list = BitVec.ofNat 8 runs.length :: runs.flatMap (fun r => wordBytes r.first ++ [BitVec.ofNat 8 r.len]) ∧
        1 ≤ runs.length ∧ runs.length ≤ 4 ∧
        (∀ r ∈ runs, 1 ≤ r.len ∧ r.len ≤ 64 ∧ r.first + r.len ≤ 512 ∧ lo ≤ r.first ∧ r.first + r.len ≤ hi + 1) ∧
        runs.Pairwise fun r q => r.first + r.len ≤ q.first ∨ q.first + q.len ≤ r.first
    | other => code = (if other = .nextFit then 0#8 else 1#8) ∧ list = [0#8] ∧
        ∀ least most, shape = .split least most → 1 ≤ least ∧ least ≤ 64 ∧ 1 ≤ most ∧ most ≤ 4

/-- The count of a RESERVE against its shape, window and runs (Table 3-4). -/
def SearchArgs.CountHolds (a : SearchArgs) : Prop :=
  1 ≤ a.n ∧ a.n ≤ 128 ∧ a.n ≤ a.hi + 1 - a.lo ∧
    match a.place with
    | .atRuns runs => (runs.map Run.len).sum = a.n
    | _ => match a.shape with
      | .contiguous => a.n ≤ 64
      | .split _ most => a.n ≤ 64 * most

/-- The code of a table command (Table 11-8). -/
def Request.code : Request → Byte
  | .reserve _ => 0x01#8
  | .release _ => 0x02#8
  | .renew _ _ => 0x03#8
  | .query _ => 0x04#8
  | .listOwned _ => 0x05#8
  | .readMap _ => 0x06#8
  | .cancelWait _ => 0x07#8
  | .relocate _ => 0x08#8
  | .confirmMove _ => 0x09#8
  | .declineMove _ => 0x0A#8
  | .setWatch _ => 0x0B#8
  | .clearWatch _ => 0x0C#8
  | .rearmWatch _ => 0x0D#8
  | .bar _ => 0x10#8
  | .unbar _ => 0x11#8
  | .forceRelease _ => 0x12#8
  | .setParam _ _ => 0x13#8
  | .setPort _ _ => 0x14#8
  | .resetPort _ => 0x15#8
  | .readParams => 0x16#8

/-- The completion of a table command. -/
def Request.completion : Request → Instr
  | .reserve _ => .reserve
  | .release _ => .release
  | .renew _ _ => .renew
  | .query _ => .queryReservation
  | .listOwned _ => .listOwned
  | .readMap _ => .readMap
  | .cancelWait _ => .cancelWait
  | .relocate _ => .relocate
  | .confirmMove _ => .confirmMove
  | .declineMove _ => .declineMove
  | .setWatch _ => .setWatch
  | .clearWatch _ => .clearWatch
  | .rearmWatch _ => .rearmWatch
  | .bar _ => .bar
  | .unbar _ => .unbar
  | .forceRelease _ => .forceRelease
  | .setParam _ _ => .setParam
  | .setPort _ _ => .setPort
  | .resetPort _ => .resetPort
  | .readParams => .readParams

/-- The port with these attributes and right may not issue the request (R56, R174). -/
def Request.Forbidden (c : ClientPort) : Request → Prop
  | .reserve a => a.cls = .urgent ∧ c.attrs.urgent = false ∨ a.lease = 0 ∧ c.attrs.unleased = false
  | .bar _ => c.admin = false
  | .unbar _ => c.admin = false
  | .forceRelease _ => c.admin = false
  | .setParam _ _ => c.admin = false
  | .setPort _ _ => c.admin = false
  | .resetPort _ => c.admin = false
  | .readParams => c.admin = false
  | _ => False

/-- The identifier of a parameter and the range of its value (Table 10-1; the identifiers stand below Table 11-9). -/
def ParamName.Ranges (id : Byte) (v : Nat) : ParamName → Prop
  | .guard => id = 1#8 ∧ 1 ≤ v ∧ v ≤ 15
  | .overlap => id = 2#8 ∧ 1 ≤ v ∧ v ≤ 255
  | .confirmWindow => id = 3#8 ∧ 1 ≤ v ∧ v ≤ 65535
  | .leaseWarn => id = 4#8 ∧ v ≤ 65535
  | .poolLow => id = 5#8 ∧ v ≤ 191
  | .poolFloor => id = 6#8 ∧ v ≤ 32
  | .waitPolicy => id = 7#8 ∧ v ≤ 1
  | .syncWindow => id = 8#8 ∧ 50 ≤ v ∧ v ≤ 2000

/-- The fields of a kind of watch unit spelled from the required state on, with their ranges (R164, Table 11-10). -/
def WatchSpec.Spells (bytes : List Byte) : WatchSpec → Prop
  | .freeCount lo hi threshold => bytes = wordBytes lo ++ wordBytes hi ++ wordBytes threshold ∧ lo ≤ hi ∧ hi ≤ 511 ∧
      threshold ≤ 512
  | .resState required comb members =>
    bytes = [if required = .live then 0#8 else 1#8, if comb = .all then 0#8 else 1#8,
        BitVec.ofNat 8 members.length] ++ members.flatMap (fun h => [h.index, h.gen]) ∧
      1 ≤ members.length ∧ members.length ≤ 6

/-- The body spells the request in the layout of its code, and every argument is inside its range (R22, R40, R42, R55, R105, R164,
R179, R182, R187, R190, R191, Tables 3-4, 11-4, 11-5, 11-10). -/
def Request.Spells (body : List Byte) : Request → Prop
  | .reserve a => ∃ (code : Byte) (shape list : List Byte) (limit : Nat), a.lease < 65536 ∧ limit < 65536 ∧
      ShapeBytes false a.search.shape shape ∧ a.search.CountHolds ∧
      PlacementBytes a.search.shape a.search.place a.search.lo a.search.hi code list ∧
      (∀ n, a.wait = .wait n → n = limit) ∧
      body = [BitVec.ofNat 8 a.search.n] ++ shape ++ [code] ++ wordBytes a.search.lo ++ wordBytes a.search.hi ++
        [match a.cls with | .urgent => 0#8 | .normal => 1#8 | .bulk => 2#8] ++ wordBytes a.lease ++
        [if a.wait = .noWait then 0#8 else 1#8] ++ wordBytes limit ++ list
  | .relocate a => ∃ (code : Byte) (shape list : List Byte), ShapeBytes true a.shape shape ∧
      PlacementBytes a.shape a.place a.lo a.hi code list ∧
      body = [a.handle.index, a.handle.gen] ++ shape ++ [code] ++ wordBytes a.lo ++ wordBytes a.hi ++ list
  | .release h => body = [h.index, h.gen]
  | .query h => body = [h.index, h.gen]
  | .confirmMove h => body = [h.index, h.gen]
  | .declineMove h => body = [h.index, h.gen]
  | .forceRelease h => body = [h.index, h.gen]
  | .renew h n => n < 65536 ∧ body = [h.index, h.gen] ++ wordBytes n
  | .listOwned start => start ≤ 191 ∧ body = [BitVec.ofNat 8 start]
  | .readMap r => 1 ≤ r.len ∧ r.len ≤ 64 ∧ r.first + r.len ≤ 512 ∧ body = wordBytes r.first ++ [BitVec.ofNat 8 r.len]
  | .bar r => 1 ≤ r.len ∧ r.len ≤ 64 ∧ r.first + r.len ≤ 512 ∧ body = wordBytes r.first ++ [BitVec.ofNat 8 r.len]
  | .unbar r => 1 ≤ r.len ∧ r.len ≤ 64 ∧ r.first + r.len ≤ 512 ∧ body = wordBytes r.first ++ [BitVec.ofNat 8 r.len]
  | .cancelWait ticket => body = [ticket]
  | .setWatch a => ∃ fields, a.spec.Spells fields ∧ a.targets ≠ 0#6 ∧
      body = [a.unit.elim 0xFF#8 fun u => BitVec.ofNat 8 u.val,
        match a.spec with | .freeCount _ _ _ => 0#8 | .resState _ _ _ => 1#8,
        match a.edge with | .rise => 0#8 | .fall => 1#8 | .both => 2#8,
        if a.mode = .oneShot then 0#8 else 1#8, BitVec.ofNat 8 a.targets.toNat] ++ fields
  | .clearWatch u => body = [BitVec.ofNat 8 u.val]
  | .rearmWatch u => body = [BitVec.ofNat 8 u.val]
  | .setParam name v => ∃ id, name.Ranges id v ∧ body = id :: wordBytes v
  | .setPort p a => a.slotQuota ≤ 512 ∧ a.recordQuota ≤ 192 ∧
      body = BitVec.ofNat 8 p.val :: wordBytes a.slotQuota ++ [BitVec.ofNat 8 a.recordQuota,
        if a.policy = .reclaim then 0#8 else 1#8,
        BitVec.ofNat 8 ((if a.urgent then 4 else 0) + (if a.unleased then 2 else 0) + (if a.notices then 1 else 0))]
  | .resetPort p => body = [BitVec.ofNat 8 p.val]
  | .readParams => body = []

/-! ## Invariants -/

/-- The entries of the map in a state. -/
def SlotMap.countOf (st : SlotState) (m : SlotMap) : Nat :=
  m.entries.toList.countP fun e => e.state = st

/-- Each count equals the number of entries in its state (R3). -/
def State.CountsAgree (s : State) : Prop :=
  s.map.freeCount = s.map.countOf .free ∧ s.map.barredCount = s.map.countOf .barred ∧
    s.map.drainingCount = s.map.countOf .draining

/-- The FIFO holds each free record once and no allocated record (R28); each port's owned records number its records
(R33). -/
def State.PoolAgrees (s : State) : Prop :=
  s.pool.fifo.Nodup ∧ (∀ i, i ∈ s.pool.fifo ↔ (s.pool.records.get i).alloc = none) ∧
    ∀ p, (s.ports.get p).ownedRecords = s.countOwned p

/-- The bounds of a port's queues and counters (R133, R134, R142, R150). -/
def ClientPort.Bounded (c : ClientPort) : Prop :=
  c.queue.length ≤ Config.queueDepth ∧ c.queue.length + c.stored.length ≤ Config.responsePlaces ∧
    c.events.length ≤ Config.eventDepth ∧ c.lost ≤ 255 ∧ c.dropped ≤ 255 ∧ c.faultCount ≤ 65535

/-- Every port keeps its bounds. -/
def State.PortsBounded (s : State) : Prop :=
  ∀ p, (s.ports.get p).Bounded

/-- The tags of a port's unanswered commands and of its stored answers (R135). -/
def ClientPort.liveTags (c : ClientPort) : List Byte :=
  c.queue.map QueuedCommand.tag ++ (c.stored.filter Response.answers).map Response.tag

/-- The command in the engine, unless it is withdrawn, heads its port's queue and is marked taken (R48, R133). -/
def State.EngineHoldsHead (s : State) : Prop :=
  ∀ c, s.engine.work = .command c → c.withdrawn = false →
    ∃ q rest, (s.ports.get c.port).queue = q :: rest ∧ q.tag = c.tag ∧ q.taken = true ∧ isPortLocal q.code = false

/-- The in-flight tags are those of the unanswered commands and of the stored answers, each once (R135). -/
def State.TagsAgree (s : State) : Prop :=
  ∀ p, (s.ports.get p).inFlight.Nodup ∧ (s.ports.get p).liveTags.Perm (s.ports.get p).inFlight

/-- Every accepted command is accounted for (R133, R135). -/
def State.CommandsAccounted (s : State) : Prop :=
  s.EngineHoldsHead ∧ s.TagsAgree

/-- The owner lines name the port that the image in force names for the slot on the bus, and no port where no slot is on the
bus (R93, R94); in SEARCHING no slot is on the bus (R91). -/
def State.LinesAgree (s : State) : Prop :=
  (s.timing.sync = .searching → s.timing.slotIndex = .none) ∧
    match s.timing.slotIndex with
    | .slot i =>
      s.timing.ownv = (s.map.image.get i).isSome ∧
        s.timing.own.toNat = (s.map.image.get i).elim 0 fun p => p.val
    | .none => s.timing.ownv = false ∧ s.timing.own = 0#3
    | .beyond => s.timing.ownv = false ∧ s.timing.own = 0#3

/-- The sum of the counts of a port's wait entries (R73). -/
def WaitList.promisedTo (p : Port) (w : WaitList) : Nat :=
  ((w.entries.filter fun e => e.port = p).map fun e => e.search.n).sum

/-- The bounds of the Wait List, its tickets and limits, and the promised counts (R69, R71, R73). -/
def State.WaitsAgree (s : State) : Prop :=
  s.waits.entries.length ≤ Config.waitEntries ∧
    (∀ p, s.waits.entries.countP (fun e => e.port = p) ≤ Config.waitEntriesPerPort) ∧
    (s.waits.entries.map WaitEntry.ticket).Nodup ∧
    (∀ e ∈ s.waits.entries, e.remaining ≠ some 0) ∧
    ∀ p, (s.ports.get p).promised = s.waits.promisedTo p

/-- Records in MOVING and contexts in use name each other (R104). -/
def State.MovesAgree (s : State) : Prop :=
  (∀ k c, s.moves.get k = some c →
      ∃ a, s.pool.records.get c.index = ⟨c.gen, some a⟩ ∧ a.state = .moving ∧ a.context = some k) ∧
    ∀ i a, (s.pool.records.get i).alloc = some a →
      if a.state = .moving then ∃ k c, a.context = some k ∧ s.moves.get k = some c ∧ c.index = i
      else a.context = none

/-- The record and role that a HELD or LIVE entry names (R2). -/
def Slot.names : Slot → Option (RecIx × Role)
  | .held i role _ _ => some (i, role)
  | .live i role _ => some (i, role)
  | .free => none
  | .draining _ _ => none
  | .barred => none

/-- The set of a role of an allocated record's fields: the current set, or the target set of its move (R2). -/
def State.setOf (role : Role) (a : Reservation) (s : State) : List Run :=
  match role with
  | .current => a.set
  | .target => s.targetOf a

/-- Every slot of the set is LIVE. -/
def State.AllLive (set : List Run) (s : State) : Prop :=
  ∀ j : SlotIx, inSet set j.val = true → ∃ i role b, s.map.entries.get j = .live i role b

/-- Every slot of the set is HELD, armed or not as given. -/
def State.AllHeld (armed : Bool) (set : List Run) (s : State) : Prop :=
  ∀ j : SlotIx, inSet set j.val = true → ∃ i role b, s.map.entries.get j = .held i role armed b

/-- Every slot of the set is FREE; a number above 511 is no slot. -/
def State.AllFree (set : List Run) (s : State) : Prop :=
  ∀ j, inSet set j = true → s.map.isFree j = true

/-- A promotion report lists a record with a role. -/
def PromotionReport.Lists (r : PromotionReport) (i : RecIx) (role : Role) : Prop :=
  (i, role) ∈ r.promoted

/-- The slots of a record's sets agree, and their state follows the record's state and the stage of its move, up to promotion
reports handed and not yet taken (R2, R34, R104, R114, Table 6-2). -/
def State.StagesAgree (s : State) : Prop :=
  ∀ i a, s.reservation i = some a →
    (match a.state with
      | .pending => s.AllHeld true a.set ∨ s.AllLive a.set
      | .live => s.AllLive a.set
      | .moving => s.AllLive a.set) ∧
    (∀ k c, s.contextOf a = some (k, c) → match c.stage with
      | .offered _ => s.AllHeld false c.target
      | .armed => s.AllHeld true c.target ∨ s.AllLive c.target ∧ ∃ r ∈ s.reports.move, r.Lists i .target
      | .overlap _ _ => s.AllLive c.target) ∧
    (∀ r ∈ s.reports.pool, r.Lists i .current → a.state = .pending → a.grantFrame ≠ r.mark → s.AllLive a.set) ∧
    ∀ r ∈ s.reports.move, r.Lists i .target →
      a.state = .pending ∧ a.grantFrame = r.mark ∨
        ∃ k c, s.contextOf a = some (k, c) ∧ c.stage = .armed ∧ s.AllLive c.target

/-- What a search has read as FREE so far is FREE (R4, R52). -/
def Scan.Holds (free : Nat → Bool) (sc : Scan) : Prop :=
  ∀ k : Nat, sc.seen[k]? = some true → ∃ j, sc.order[k]? = some j ∧ free j = true

/-- What the engine's search, or a pass's trials, found is still FREE, and no two trials share a slot (R4, R52, R68). -/
def State.SearchesAgree (s : State) : Prop :=
  match s.engine.work with
  | .idle => True
  | .command c => ∀ sc, c.scan = some sc → sc.Holds s.map.isFree
  | .pass p =>
    (∀ t ∈ p.trials, s.AllFree t.set) ∧
      p.trials.Pairwise (fun t u => ∀ j, ¬ (inSet t.set j = true ∧ inSet u.set j = true)) ∧
      ∀ ticket sc, p.inHand = some (ticket, sc) →
        sc.Holds fun j => s.map.isFree j && p.trials.all fun t => !inSet t.set j

/-- A slot is HELD or LIVE with index i and role r exactly where that set of allocated record i holds it, so of one record alone
(R2); with what keeps it so: the state of each set, and the slots that the engine has read as FREE. -/
def State.SlotsAgree (s : State) : Prop :=
  (∀ (j : SlotIx) i role, (s.map.entries.get j).names = some (i, role) ↔
      ∃ a, s.reservation i = some a ∧ inSet (s.setOf role a) j.val = true) ∧
    s.StagesAgree ∧ s.SearchesAgree

/-- Marks, reports and counters of one frame: each block has at most the last mark still to take, and one only in LOCKED. Up to the
Slot Map's latch the frame counter is one behind the last mark, no slot has begun and no promotion report is left; after it the
image is that of the last mark, whose number a promotion report still to be taken carries. The carry list holds entries only between
the Move Unit's reaction to the last mark and that latch, at most one for each context (R10, R85, R89, R90; log 11). -/
def State.MarksAgree (s : State) : Prop :=
  let last := s.timing.lastMark
  (∀ l ∈ [s.marks.slotMap, s.marks.lease, s.marks.move, s.marks.wait],
      l = [] ∨ l = [last] ∧ s.timing.sync = .locked) ∧
    (s.marks.slotMap ≠ [] → s.timing.frameCounter = last - 1#16 ∧ s.timing.slotIndex = .none ∧
      s.map.imageMark ≠ some last ∧ s.reports.pool = [] ∧ s.reports.move = []) ∧
    (s.marks.slotMap = [] → s.timing.frameCounter = last ∧
      (if s.timing.sync = .searching then s.map.imageMark = none else s.map.imageMark = some last) ∧
      s.map.carry = []) ∧
    (∀ l ∈ [s.reports.pool, s.reports.move], l = [] ∨ ∃ promoted, l = [⟨last, promoted⟩]) ∧
    (s.map.carry ≠ [] → s.marks.move = []) ∧ (∀ e ∈ s.map.carry, e.mark = last) ∧ s.map.carry.length ≤ 4

/-- A RELOCATE in the engine whose handle names a record searches for that record's total (R66, R106). -/
def State.RelocatesTotal (s : State) : Prop :=
  ∀ c q i a, s.engine.work = .command c → c.req = .relocate q → s.Names q.handle i a →
    ∃ sc, c.scan = some sc ∧ sc.args.n = setTotal a.set ∧ sc.args.place = q.place ∧
      ∀ runs, q.place = .atRuns runs → setTotal runs = sc.args.n

/-- Each port's owned slots are the sum of the current set totals of its records (R33), and a move's target has the total of the set
it is to replace (R66, R104, R106). -/
def State.TotalsAgree (s : State) : Prop :=
  (∀ p, (s.ports.get p).ownedSlots =
      (((List.finRange 192).filterMap s.reservation).map fun a => if a.owner = p then setTotal a.set else 0).sum) ∧
    (∀ k c a, s.moves.get k = some c → s.reservation c.index = some a → setTotal c.target = setTotal a.set) ∧
    s.RelocatesTotal

end Sys2Proof.Machine
end

