-- ==== Sys2Proof/Certificates/Slice0/Obligations.lean ====
section
/-! DEFINITION. The statements for the provers, from the rules of spec/. -/

section

open Sys2Proof Sys2Proof.Machine

/-! ## The step -/

/-- A step takes the command at the front of the queue and runs it with the queue's rest. On an empty queue it changes nothing but
the work in the engine: an idle engine changes nothing, and a command that searches reads the next slot of its scan order (the
model's way of R52, log 3). -/
def Obligations.StepRunsFrontCommand : Prop :=
  (∀ (c : Instr) (rest : List Instr) (s : State), s.pending = c :: rest →
    step s = exec c { s with pending := rest }) ∧
  ∀ s : State, s.pending = [] →
    ∃ t, step s = .next t ∧ t = { s with engine := { s.engine with work := t.engine.work } } ∧
      (s.engine.work = .idle → t = s) ∧
      ∀ c sc i, s.engine.work = .command c → c.scan = some sc → sc.order[sc.seen.length]? = some i →
        t.engine.work = .command { c with scan := some { sc with seen := sc.seen ++ [s.map.isFree i] } }

/-- Every command answers a next state and leaves the queue of commands as it is. That a command whose event cannot come about
also answers, with the state as it is, is the model's choice (log 2, DEDUCED), and so is that no command faults or is refused
(log 13, DEDUCED: the spec gives every error an answer on a link or a count). -/
def Obligations.EveryCommandAnswers : Prop :=
  ∀ (c : Instr) (s : State), ∃ t, exec c s = .next t ∧ t.pending = s.pending

/-! ## Power -/

/-- The state after reset holds the power-on values of every block, with no port an administrator: the straps of
`State.reset` are the model's choice (log 5). Every invariant that a later statement has each step keep holds there. -/
def Obligations.ResetValues : Prop :=
  (State.reset.AtPowerOn (fun _ => false) ∧ State.reset.resetLow = false ∧ State.reset.pending = [] ∧
    ∀ p, (State.reset.ports.get p).link = .none) ∧
  State.reset.CountsAgree ∧ State.reset.PoolAgrees ∧ State.reset.TotalsAgree ∧ State.reset.PortsBounded ∧
    State.reset.CommandsAccounted ∧ State.reset.LinesAgree ∧ State.reset.WaitsAgree ∧ State.reset.MovesAgree ∧
    State.reset.MarksAgree ∧ State.reset.SlotsAgree

/-- RESET low puts every block in its power-on state at once, from any state, and nothing is posted; as RESET returns high the
straps are sampled and each port's right and three attributes follow its strap (R144, R189). That no port has the right while RESET
is low is the model's choice (log 5, DESIGN CHOICE): the spec is silent on the right before the straps are sampled. -/
def Obligations.PowerOnReset : Prop :=
  (∀ s : State, ∃ t, exec .powerOnReset s = .next t ∧ t.resetLow = true ∧ t.AtPowerOn fun _ => false) ∧
    ∀ (straps : BitVec 6) (s : State), s.resetLow = true →
      ∃ t, exec (.resetRelease straps) s = .next t ∧ t.resetLow = false ∧
        t.AtPowerOn fun p => straps.getLsbD p.val

/-- While RESET is low no command but the two of RESET changes anything but the links, and no transfer is taken. R85 and R146 say
so of frame starts, slot edges and links; that every other command leaves the state as it is, is the model's choice (log 2,
DEDUCED). -/
def Obligations.NothingHappensInReset : Prop :=
  ∀ (c : Instr) (s t : State), s.resetLow = true → c ≠ .powerOnReset → (∀ straps, c ≠ .resetRelease straps) →
    exec c s = .next t →
      t = { s with ports := t.ports } ∧
        ∀ p, t.ports.get p = { s.ports.get p with link := (t.ports.get p).link } ∧
          ((t.ports.get p).link = (s.ports.get p).link ∨ (t.ports.get p).link = .none ∨
            (t.ports.get p).link = .ignored)

/-! ## Links -/

/-- The fall of CPnSEL opens a transfer with the status byte of the port as it stands (R128, Table 11-3). A transfer of a
type byte other than 5A and A5 only counts a fault at its end and sets the flag (R129, R142). That a TRANSFER_START on an open or
an ignored link is a new fall, and that a FAULTED_TRANSFER with no transfer open includes the fall, is the model's choice (log 9,
DEDUCED). -/
def Obligations.TransfersOpenAndFault : Prop :=
  (∀ (p : Port) (s : State), s.resetLow = false → (∀ st frame b, (s.ports.get p).link ≠ .collecting st frame b) →
    exec (.transferStart p) s = .next (s.modPort p fun c =>
      let byte := min 7 c.stored.length * 32 + (if c.events = [] then 0 else 16) +
        min (4 - c.queue.length) (8 - c.stored.length - c.queue.length) * 2 + (if c.lastFaulted then 1 else 0)
      { c with link := .opened (BitVec.ofNat 8 byte) })) ∧
  ∀ (p : Port) (b : Byte) (s : State), s.resetLow = false → b ≠ 0x5A#8 → b ≠ 0xA5#8 →
    ((s.ports.get p).link = .none ∨ ∃ st, (s.ports.get p).link = .opened st) →
      exec (.faultedTransfer p b) s = .next (s.modPort p fun c =>
        { c with link := .none, faultCount := min 65535 (c.faultCount + 1), lastFaulted := true })

/-- A faulted command frame is discarded, answered LINK_FAULT with tag 255 and its cause where a place is free, else counted
as dropped; the fault is counted and the flag set. The cause is that of the first condition that holds (R127, R130, R132, R142).
`bytes` are the whole bytes after the type byte, each sent most significant bit first, and `tail` the bits of a partial last byte. The shape of
the command, and that it includes the fall where no transfer is open, is the model's choice (log 9, DEDUCED). -/
def Obligations.FaultedFrameRefused : Prop :=
  ∀ (p : Port) (bytes : List Byte) (tail : List Bool) (s : State), s.resetLow = false → tail.length < 8 →
    ((s.ports.get p).link = .none ∨ ∃ st, (s.ports.get p).link = .opened st) →
      let octets := bytes.map octetOf
      let whole := bytes.length + 1
      let len := (bytes.getD 2 0#8).toNat
      let tooFew := whole < 4 ∨ whole < 6 + len
      let tooMany := len > 250 ∨ whole > 6 + len
      let crc := (crcOf (0x5A#8 :: bytes.take (3 + len))).toNat
      let outcome (cause : Byte) := Host.Outcome.next (φ := Fault) (ρ := Refusal) (s.modPort p fun c =>
        { c with
          link := .none
          faultCount := min 65535 (c.faultCount + 1)
          lastFaulted := true
          stored := if c.stored.length + c.queue.length < 8
            then c.stored ++ [⟨255#8, .linkFault, [cause], false⟩] else c.stored
          dropped := if c.stored.length + c.queue.length < 8 then c.dropped else min 255 (c.dropped + 1) })
      (tooFew → exec (.commandTransfer p octets tail) s = outcome 1#8) ∧
        (¬ tooFew → tail ≠ [] ∨ tooMany → exec (.commandTransfer p octets tail) s = outcome 2#8) ∧
        (¬ tooFew → tail = [] → ¬ tooMany →
          bytes.drop (3 + len) ≠ [BitVec.ofNat 8 (crc / 256), BitVec.ofNat 8 crc] →
          exec (.commandTransfer p octets tail) s = outcome 3#8)

/-- A sound frame is refused BAD_TAG for tag 255 or a tag in flight, else BUSY where four commands stand unanswered or no place
is free, else accepted; it clears the flag (R131, R132, R142). That the command includes the fall where no transfer is open is the
model's choice (log 9, DEDUCED). -/
def Obligations.SoundFrameJudged : Prop :=
  ∀ (p : Port) (tag code len : Byte) (body : List Byte) (s : State), s.resetLow = false →
    ((s.ports.get p).link = .none ∨ ∃ st, (s.ports.get p).link = .opened st) →
    body.length = len.toNat → len.toNat ≤ 250 →
      let c := s.ports.get p
      let frame := tag :: code :: len :: body
      let run := exec (.commandTransfer p ((frame ++ crcBytes (0x5A#8 :: frame)).map octetOf) []) s
      let refusal (st : Status) := Host.Outcome.next (φ := Fault) (ρ := Refusal) (s.modPort p fun c =>
        { c with
          link := .none
          lastFaulted := false
          stored := if c.stored.length + c.queue.length < 8 then c.stored ++ [⟨tag, st, [], false⟩] else c.stored
          dropped := if c.stored.length + c.queue.length < 8 then c.dropped else min 255 (c.dropped + 1) })
      (tag = 255#8 ∨ tag ∈ c.inFlight → run = refusal .badTag) ∧
        (tag ≠ 255#8 → tag ∉ c.inFlight → 4 ≤ c.queue.length ∨ 8 ≤ c.stored.length + c.queue.length →
          run = refusal .busy) ∧
        (tag ≠ 255#8 → tag ∉ c.inFlight → c.queue.length < 4 → c.stored.length + c.queue.length < 8 →
          run = .next (s.modPort p fun c =>
            { c with
              link := .none
              lastFaulted := false
              queue := c.queue ++ [⟨tag, code, body, false⟩]
              inFlight := c.inFlight ++ [tag] }))

/-- The choice of a collect fixes the frame of the oldest stored response, or the empty frame FF 02 00 with its CRC (R136,
Table 11-2). The end of a collect removes the chosen response, if it still stands stored, exactly where the rising edge that
completed its CRC was taken; its tag leaves flight if it answered a command; the flag is cleared (R137, R142). A chosen response
that a port reset has emptied is no longer stored, and nothing is removed. That COLLECT_CHOICE with no transfer open includes the
fall, its status byte formed then, is the model's choice (log 9, DEDUCED). -/
def Obligations.CollectTakesOldest : Prop :=
  (∀ (p : Port) (s : State) (st : Byte), s.resetLow = false →
    ((s.ports.get p).link = .opened st ∨ (s.ports.get p).link = .none ∧ st = (s.ports.get p).statusByte) →
      let withCrc (f : List Byte) := f ++ crcBytes f
      ((s.ports.get p).stored = [] → exec (.collectChoice p) s = .next (s.modPort p fun c =>
          { c with link := .collecting st (withCrc [0xFF#8, 0x02#8, 0x00#8]) false })) ∧
        ∀ r rest, (s.ports.get p).stored = r :: rest →
          let frame := withCrc (r.tag :: r.status.code :: BitVec.ofNat 8 r.body.length :: r.body)
          exec (.collectChoice p) s = .next (s.modPort p fun c => { c with link := .collecting st frame true })) ∧
  ∀ (p : Port) (edges : Nat) (s : State) (st : Byte) (frame : List Byte) (b : Bool), s.resetLow = false → 8 ≤ edges →
    (s.ports.get p).link = .collecting st frame b →
      (b = false ∨ edges < 8 * (1 + frame.length) →
        exec (.collectEnd p edges) s = .next (s.modPort p fun c =>
          { c with link := .none, lastFaulted := false })) ∧
      ∀ r rest, (s.ports.get p).stored = r :: rest → b = true → 8 * (1 + frame.length) ≤ edges →
        exec (.collectEnd p edges) s = .next (s.modPort p fun c =>
          { c with
            link := .none
            lastFaulted := false
            stored := rest
            inFlight := if r.answers then c.inFlight.filter (fun t => t ≠ r.tag) else c.inFlight })

/-- A transfer open when RESET falls is ended and ignored until CPnSEL rises, whatever it carries; one that falls while RESET is low is
ignored too, through the return of RESET (R146). An ignored transfer only ends. An open transfer of fewer than eight edges ends empty and
changes nothing (R127). A port reset taken while a collect is open leaves the transfer open with its chosen response no longer stored, and
leaves every other link as it is (R137, R145). That the rise after an empty or an ignored transfer is a COLLECT_END, or the end of another
transfer command, is the model's choice (log 9, DEDUCED). -/
def Obligations.LinksUnderReset : Prop :=
  (∀ (p : Port) (s : State),
    let held : Link := if (s.ports.get p).link = .none then .none else .ignored
    let ends (c : Instr) : Prop := exec c s = .next (s.modPort p fun d => { d with link := .none })
    (∃ t, exec .powerOnReset s = .next t ∧ (t.ports.get p).link = held) ∧
      (s.resetLow = true → ∀ straps, ∃ t, exec (.resetRelease straps) s = .next t ∧ (t.ports.get p).link = held) ∧
      (s.resetLow = true → exec (.transferStart p) s = .next (s.modPort p fun d => { d with link := .ignored }) ∧
        exec (.collectChoice p) s = .next s) ∧
      (s.resetLow = true ∨ (s.ports.get p).link = .ignored →
        (∀ octets rest, rest.length < 8 → ends (.commandTransfer p octets rest)) ∧ (∀ b, b ≠ 0x5A#8 → b ≠ 0xA5#8 → ends (.faultedTransfer p b)) ∧
          ∀ edges, ends (.collectEnd p edges)) ∧
      ((s.ports.get p).link = .ignored → exec (.collectChoice p) s = .next s) ∧
      ∀ st edges, s.resetLow = false → (s.ports.get p).link = .opened st → edges < 8 → ends (.collectEnd p edges)) ∧
  (∀ (p q : Port) (tag : Byte) (scan : Option Scan) (s : State), s.Engaged p tag (.resetPort q) scan →
    ∃ t, exec .resetPort s = .next t ∧ ∀ o, (t.ports.get o).link = match (s.ports.get o).link with
      | .collecting st frame b => .collecting st frame (b && decide (o ≠ q))
      | l => l) ∧
  ∀ (p : Port) (q : QueuedCommand) (rest : List QueuedCommand) (s : State), s.resetLow = false →
    (s.ports.get p).queue = q :: rest → q.code = 0x22#8 → q.body = [] →
      ∃ t, exec (.selfReset p) s = .next t ∧ ∀ o, (t.ports.get o).link = match (s.ports.get o).link with
        | .collecting st frame b => .collecting st frame (b && decide (o ≠ p))
        | l => l

/-- ATTN of a port is high exactly while a response is stored or an event queued, and low once RESET has fallen (R141). The data output
is in high impedance with no transfer open and while RESET is low; else byte 0 is the status byte of the transfer, a collect shifts its
chosen frame from byte 1 on, and every other byte is 00; each byte goes out most significant bit first (R127, R128, R129, R130, R136,
R146). Bits come in the same way: eight to a byte, most significant first (R127). -/
def Obligations.PinsFollowPort : Prop :=
  (∀ (p : Port) (s : State),
    (s.attn p = true ↔ (s.ports.get p).stored ≠ [] ∨ (s.ports.get p).events ≠ []) ∧
    (∃ t, exec .powerOnReset s = .next t ∧ t.attn p = false ∧ ∀ k, t.doByte p k = none) ∧
    ((s.ports.get p).link = .none → ∀ k, s.doByte p k = none) ∧
    (∀ st, (s.ports.get p).link = .opened st → s.doByte p 0 = some st ∧ ∀ k, s.doByte p (k + 1) = some 0#8) ∧
    (∀ st frame b, (s.ports.get p).link = .collecting st frame b → s.doByte p 0 = some st ∧
      (∀ k x, frame[k]? = some x → s.doByte p (k + 1) = some x) ∧
      ∀ k, frame.length ≤ k → s.doByte p (k + 1) = some 0#8) ∧
    ∀ k, s.doBit p k = (s.doByte p (k / 8)).map fun b => decide (b.toNat / 2 ^ (7 - k % 8) % 2 = 1)) ∧
  ∀ b : Byte, packByte (octetOf b) = b

/-! ## Bodies and layouts -/

/-- A table command's body is read exactly as its layout gives: the engine reads a request where the code is that of the request and the
body spells it with every argument inside its range, answers BAD_COMMAND to a code that names no command, and BAD_ARGUMENT to a body
that spells no request of its code (R51, R55, R105, R190, R191, Tables 3-4, 11-4, 11-5, 11-8, 11-10). -/
def Obligations.BodiesAreRead : Prop :=
  ∀ (code : Byte) (body : List Byte),
    (∀ r : Request, readRequest code body = .ok r ↔ r.code = code ∧ r.Spells body) ∧
      ((∀ r : Request, r.code ≠ code) → readRequest code body = .error .badCommand) ∧
      ((∃ r : Request, r.code = code) → (∀ r : Request, r.code = code → ¬ r.Spells body) →
        readRequest code body = .error .badArgument)

/-- The layouts that cross the link and the small functions other statements use: two-byte fields, run words and sets (R191), the
sixteen event records (R192), the CRC (R193), the codes of Tables 11-4 and 11-9, the slot set of BAR_DONE (R12), the pointer after a
grant (R65), the result of a watch condition (R162, R163) and the edges that select a result (R167). -/
def Obligations.LayoutsHold : Prop :=
  (∀ n, be16 n = [BitVec.ofNat 8 (n / 256), BitVec.ofNat 8 n]) ∧
  (setBytes [] = [] ∧ ∀ (rs : List Run) (r : Run), setBytes (rs ++ [r]) =
    rs.flatMap (fun q => wordBytes (q.first * 128 + (q.len - 1) * 2)) ++ wordBytes (r.first * 128 + (r.len - 1) * 2 + 1)) ∧
  (∀ (stamp : Word) (body : EventBody),
    let record (kind : Nat) (fields : List Byte) : List Byte := BitVec.ofNat 8 (kind * 16) :: wordBytes stamp.toNat ++ fields
    Event.bytes ⟨stamp, body⟩ = match body with
      | .granted ticket h set => record 0 ([ticket, h.index, h.gen] ++ setBytes set)
      | .live h set => record 1 ([h.index, h.gen] ++ setBytes set)
      | .expired h set => record 2 ([h.index, h.gen] ++ setBytes set)
      | .leaseLow h remaining => record 3 ([h.index, h.gen] ++ wordBytes remaining)
      | .releasedByAdmin h set => record 4 ([h.index, h.gen] ++ setBytes set)
      | .waitExpired ticket => record 5 [ticket]
      | .moveOffer h tag target deadline =>
        0x60#8 :: wordBytes deadline.toNat ++ [h.index, h.gen, tag] ++ setBytes target
      | .moveStarted h tag target => record 7 ([h.index, h.gen, tag] ++ setBytes target)
      | .moveDone h tag set => record 8 ([h.index, h.gen, tag] ++ setBytes set)
      | .moveAbandoned h tag target reason =>
        BitVec.ofNat 8 (0x90 + (match reason with
          | .declined => 0
          | .timeout => 1
          | .slotBarred => 2
          | .ownerReset => 3
          | .released => 4)) :: wordBytes stamp.toNat ++ [h.index, h.gen, tag] ++ setBytes target
      | .watch unit result => record 10 [BitVec.ofNat 8 unit.val, 0#8, if result then 1#8 else 0#8]
      | .poolLow free => record 11 (wordBytes free)
      | .poolRecovered free => record 12 (wordBytes free)
      | .syncLocked => record 13 []
      | .syncLost => record 14 []
      | .barDone total set => record 15 (wordBytes total ++ setBytes set)) ∧
  (∀ bytes : List Byte, (crcOf bytes).toNat = bytes.foldl (fun register b =>
      (List.range 8).foldl (fun x _ => if 32768 ≤ x then ((2 * x) % 65536) ^^^ 0x1021 else 2 * x)
        (register ^^^ (b.toNat * 256))) 65535) ∧
  (∀ bytes, crcBytes bytes = wordBytes (crcOf bytes).toNat) ∧
  ([Status.ok, .queued, .empty, .busy, .linkFault, .badTag, .badCommand, .badArgument, .notPermitted, .badHandle, .notOwner,
      .wrongState, .noRoom, .waitFull, .quotaExceeded, .poolExhausted, .noMoveContext].map Status.code =
    [0x00#8, 0x01#8, 0x02#8, 0x10#8, 0x11#8, 0x12#8, 0x13#8, 0x14#8, 0x15#8, 0x20#8, 0x21#8, 0x22#8, 0x30#8, 0x31#8,
      0x32#8, 0x33#8, 0x34#8]) ∧
  ([ResClass.urgent, .normal, .bulk].map ResClass.code = [0#8, 1#8, 2#8] ∧
    [ResState.pending, .live, .moving].map ResState.code = [0#8, 1#8, 2#8] ∧
    [Sync.searching, .locked, .lost].map Sync.code = [0#8, 1#8, 2#8] ∧
    [ResetPolicy.reclaim, .retain].map ResetPolicy.code = [0#8, 1#8]) ∧
  (∀ slots : List Nat, slots.Pairwise (· < ·) → ∃ runs : List Run, barDoneSet slots = runs.take 4 ∧
    runs.flatMap (fun r => List.range' r.first r.len) = slots ∧ (∀ r ∈ runs, 1 ≤ r.len ∧ r.len ≤ 64) ∧
    ∀ k q r, runs[k]? = some q → runs[k + 1]? = some r →
      q.first + q.len < r.first ∨ q.first + q.len = r.first ∧ q.len = 64) ∧
  (∀ (rs : List Run) (r : Run) (p : Nat),
    roverAfter (rs ++ [r]) p = if r.first + r.len = 512 then 0 else r.first + r.len) ∧
  (∀ lo hi threshold count, (WatchCond.freeCount lo hi threshold count).result = decide (threshold ≤ count)) ∧
  (∀ (required : Required) (ms : List Member),
    ((WatchCond.resState required .all ms).result = true ↔ ∀ x ∈ ms, x.met = true) ∧
      ((WatchCond.resState required .any ms).result = true ↔ ∃ x ∈ ms, x.met = true)) ∧
  ∀ result : Bool, Edge.rise.selects result = result ∧ Edge.fall.selects result = !result ∧
    Edge.both.selects result = true

/-! ## The engine takes a command -/

/-- The free engine, with no pass asked for, takes the head table command of the eligible port that comes first after the
round-robin position; a command that passes the checks of form, right and attributes stays in the engine with its search begun
at the roving pointer (R47, R48, R50, R61). -/
def Obligations.EngineTakesNextPort : Prop :=
  ∀ (s : State) (p : Port) (q : QueuedCommand) (rest : List QueuedCommand) (r : Request), s.resetLow = false →
    s.engine.work = .idle → s.engine.waitReq = false → (s.ports.get p).queue = q :: rest →
    (s.ports.get p).eligible = true →
    (∀ o, (s.ports.get o).eligible = true →
      (p.val + 5 - s.engine.rrPos.val) % 6 ≤ (o.val + 5 - s.engine.rrPos.val) % 6) →
    readRequest q.code q.body = .ok r → s.permits p r = true →
    (∀ a, r = .relocate a → ∃ i b, s.Names a.handle i b ∧ b.state = .live ∧
      (SearchArgs.mk (setTotal b.set) a.shape a.place a.lo a.hi).fits = true) →
      ∃ scan, exec .engineTakeCommand s = .next { s with
          engine := ⟨.command ⟨p, q.tag, r, false, scan⟩, p, s.engine.rover, false⟩
          ports := s.ports.modify p fun c => { c with queue := { q with taken := true } :: rest } } ∧
        (∀ a, r = .reserve a → scan = some ⟨a.search, s.engine.rover, []⟩) ∧
        (∀ a i b, r = .relocate a → s.Names a.handle i b →
          scan = some ⟨⟨setTotal b.set, a.shape, a.place, a.lo, a.hi⟩, s.engine.rover, []⟩) ∧
        ((∀ a, r ≠ .reserve a) → (∀ a, r ≠ .relocate a) → scan = none)

/-- A command refused at its taking completes at once: BAD_COMMAND or BAD_ARGUMENT by its form, then NOT_PERMITTED, and for
RELOCATE the checks that read the record (R51, R106). Nothing else is applied. -/
def Obligations.EngineRefusesAtTaking : Prop :=
  ∀ (s : State) (p : Port) (q : QueuedCommand) (rest : List QueuedCommand), s.resetLow = false →
    s.engine.work = .idle → s.engine.waitReq = false → (s.ports.get p).queue = q :: rest →
    (s.ports.get p).eligible = true →
    (∀ o, (s.ports.get o).eligible = true →
      (p.val + 5 - s.engine.rrPos.val) % 6 ≤ (o.val + 5 - s.engine.rrPos.val) % 6) →
      let outcome (st : Status) := Host.Outcome.next (φ := Fault) (ρ := Refusal) { s with
          engine := { s.engine with rrPos := p }
          ports := s.ports.modify p fun c =>
            { c with queue := rest, stored := c.stored ++ [⟨q.tag, st, [], true⟩] } }
      (∀ st, readRequest q.code q.body = .error st → exec .engineTakeCommand s = outcome st) ∧
        ∀ r, readRequest q.code q.body = .ok r →
          (s.permits p r = false → exec .engineTakeCommand s = outcome .notPermitted) ∧
          ∀ a, r = .relocate a →
            (s.Stale a.handle → exec .engineTakeCommand s = outcome .badHandle) ∧
            ∀ i b, s.Names a.handle i b →
              let mine := b.owner = p ∨ (s.ports.get p).admin = true
              let fits := (SearchArgs.mk (setTotal b.set) a.shape a.place a.lo a.hi).fits
              (b.state ≠ .live ∨ fits = false → ¬ mine → exec .engineTakeCommand s = outcome .notOwner) ∧
              (b.state ≠ .live → mine → exec .engineTakeCommand s = outcome .wrongState) ∧
              (b.state = .live → fits = false → mine → exec .engineTakeCommand s = outcome .badArgument)

/-- A withdrawn command is dropped at its completion: the engine is free, no check is made, nothing is applied and no response is
placed (R54, R125). A command that its port may not issue is answered NOT_PERMITTED at its completion, by the right and the attributes as
they stand then, and nothing is applied (R56, R174). For each of the twenty table commands. -/
def Obligations.WithdrawnOrNotPermitted : Prop :=
  ∀ (c : Command) (s : State), s.resetLow = false → s.engine.work = .command c →
    (c.withdrawn = true → exec c.req.completion s = .next { s with engine := { s.engine with work := .idle } }) ∧
    (c.withdrawn = false → c.req.Forbidden (s.ports.get c.port) → (s.ports.get c.port).queue ≠ [] →
      exec c.req.completion s = .next (s.answered c.port c.tag .notPermitted []))

/-! ## Reservations -/

/-- RESERVE that passes its quota and pool checks and finds room is granted: the head record, the found slots HELD, armed and
CURRENT, the holdings, the pointer and the response (R5, R29, R33, R59, R65). POOL_LOW goes to the notice ports where the flag
is set and the count after the allocation is at or below POOL_LOW; POOL_RECOVERED where the flag is clear and the count at the
recovery level (R31, R32, R153). The watch report names each slot whose state changed (R20), and a record report follows. Everything
else stays. -/
def Obligations.ReserveGranted : Prop :=
  ∀ (p : Port) (tag : Byte) (a : ReserveArgs) (scan : Option Scan) (s : State) (i : RecIx) (rest : List RecIx)
    (set : List Run), s.Engaged p tag (.reserve a) scan →
    (s.ports.get p).ownedSlots + (s.ports.get p).promised + a.search.n ≤ (s.ports.get p).attrs.slotQuota →
    (s.ports.get p).ownedRecords + 1 ≤ (s.ports.get p).attrs.recordQuota →
    (a.cls = .urgent ∨ s.params.poolFloor < s.pool.fifo.length) → s.pool.fifo = i :: rest →
    rest.length < 192 →
    (scan.getD ⟨a.search, s.engine.rover, []⟩).finish s.map.isFree = some set →
      let gen := (s.pool.records.get i).gen
      let lease : Option Lease := if a.lease = 0 then none else some ⟨a.lease, a.lease, false⟩
      let low := s.pool.warnArmed && decide (rest.length ≤ s.params.poolLow)
      let recovered := !s.pool.warnArmed && decide (min 192 (s.params.poolLow + 4) ≤ rest.length)
      ∃ t, exec .reserve s = .next t ∧
        t.pool.records = s.pool.records.set i
          ⟨gen, some ⟨.pending, p, a.cls, set, lease, none, none, s.timing.frameCounter⟩⟩ ∧
        t.pool.fifo = rest ∧
        s.EntriesBy (fun j e => if inSet set j then .held i .current true false else e) t ∧ s.SameFrame t ∧
        t.engine = { s.engine with
          work := .idle
          rover := match a.search.place with
            | .atRuns _ => s.engine.rover
            | _ => roverAfter set s.engine.rover } ∧
        s.HasAnswer p tag .ok
          ([BitVec.ofNat 8 i.val, gen, a.cls.code] ++ be16 a.lease ++ be16 s.timing.frameCounter.toNat ++
            setBytes set) t ∧
        (t.ports.get p).ownedSlots = (s.ports.get p).ownedSlots + setTotal set ∧
        (t.ports.get p).ownedRecords = (s.ports.get p).ownedRecords + 1 ∧
        (t.ports.get p).promised = (s.ports.get p).promised ∧ (s.ports.get p).SameRest (t.ports.get p) ∧
        s.OthersBut p t ∧ t.pool.warnArmed = (s.pool.warnArmed && !low || recovered) ∧
        s.EventsBy (fun q =>
          eventIf ((s.ports.get q).attrs.notices && low) s.timing.frameCounter (.poolLow rest.length) ++
            eventIf ((s.ports.get q).attrs.notices && recovered) s.timing.frameCounter
              (.poolRecovered rest.length)) t ∧
        t.reports = { s.reports with watch := s.reports.watch ++ s.slotReportTo t ++
          [.record ⟨BitVec.ofNat 8 i.val, gen⟩ (some .pending)] } ∧
        t.resetLow = false ∧ t.waits = s.waits ∧ t.marks = s.marks ∧ t.moves = s.moves ∧ t.units = s.units ∧
        t.params = s.params ∧ t.map.carry = s.map.carry

/-- RESERVE refused: on quota whatever else holds, then on the pool, then for room by its wait option; nothing is applied
(R30, R57, R58, R60). RESERVE that found no room and may wait makes an entry with the next ticket that no entry holds, raises the
promised count by n and is answered QUEUED; no pass is asked for (R60, R71, R72, R73). -/
def Obligations.ReserveRefusedOrQueued : Prop :=
  (∀ (p : Port) (tag : Byte) (a : ReserveArgs) (scan : Option Scan) (s : State), s.Engaged p tag (.reserve a) scan →
    let c := s.ports.get p
    let withinQuota := c.ownedSlots + c.promised + a.search.n ≤ c.attrs.slotQuota ∧
      c.ownedRecords + 1 ≤ c.attrs.recordQuota
    let withinPool := s.pool.fifo.length ≠ 0 ∧ (a.cls = .urgent ∨ s.params.poolFloor < s.pool.fifo.length)
    let noRoom := (scan.getD ⟨a.search, s.engine.rover, []⟩).finish s.map.isFree = none
    let full := 24 ≤ s.waits.entries.length ∨ 8 ≤ s.waits.entries.countP (fun e => e.port = p)
    (¬ withinQuota → exec .reserve s = .next (s.answered p tag .quotaExceeded [])) ∧
      (withinQuota → ¬ withinPool → exec .reserve s = .next (s.answered p tag .poolExhausted [])) ∧
      (withinQuota → withinPool → noRoom → a.wait = .noWait →
        exec .reserve s = .next (s.answered p tag .noRoom [])) ∧
      ∀ limit, withinQuota → withinPool → noRoom → a.wait = .wait limit → full →
        exec .reserve s = .next (s.answered p tag .waitFull [])) ∧
  ∀ (p : Port) (tag : Byte) (a : ReserveArgs) (scan : Option Scan) (s : State) (limit : Nat),
    s.Engaged p tag (.reserve a) scan →
    (s.ports.get p).ownedSlots + (s.ports.get p).promised + a.search.n ≤ (s.ports.get p).attrs.slotQuota →
    (s.ports.get p).ownedRecords + 1 ≤ (s.ports.get p).attrs.recordQuota →
    s.pool.fifo.length ≠ 0 → (a.cls = .urgent ∨ s.params.poolFloor < s.pool.fifo.length) →
    (scan.getD ⟨a.search, s.engine.rover, []⟩).finish s.map.isFree = none → a.wait = .wait limit →
    s.waits.entries.length < 24 → s.waits.entries.countP (fun e => e.port = p) < 8 →
      ∃ ticket, (∀ e ∈ s.waits.entries, e.ticket ≠ ticket) ∧
        (∀ u : Byte, (u - (s.waits.lastTicket + 1#8)).toNat < (ticket - (s.waits.lastTicket + 1#8)).toNat →
          ∃ e ∈ s.waits.entries, e.ticket = u) ∧
        let entry : WaitEntry := ⟨ticket, p, a.cls, a.search, a.lease, if limit = 0 then none else some limit⟩
        let answer : Response := ⟨tag, .queued, ticket :: be16 limit, true⟩
        exec .reserve s = .next { s with
          engine := { s.engine with work := .idle }
          waits := ⟨s.waits.entries ++ [entry], ticket⟩
          ports := s.ports.modify p fun c =>
            { c with promised := c.promised + a.search.n, queue := c.queue.tail, stored := c.stored ++ [answer] } }

/-- A stale handle, its index above 191, its record free or of another generation, is answered BAD_HANDLE by each command that
names a reservation, and nothing is applied, whichever port asks (R26). -/
def Obligations.StaleHandleRefused : Prop :=
  ∀ (p : Port) (tag : Byte) (h : Handle) (scan : Option Scan) (s : State), s.Stale h →
    let outcome := Host.Outcome.next (φ := Fault) (ρ := Refusal) (s.answered p tag .badHandle [])
    (s.Engaged p tag (.release h) scan → exec .release s = outcome) ∧
      (∀ n, s.Engaged p tag (.renew h n) scan → exec .renew s = outcome) ∧
      (s.Engaged p tag (.query h) scan → exec .queryReservation s = outcome) ∧
      (∀ a : RelocateArgs, a.handle = h → s.Engaged p tag (.relocate a) scan → exec .relocate s = outcome) ∧
      (s.Engaged p tag (.confirmMove h) scan → exec .confirmMove s = outcome) ∧
      (s.Engaged p tag (.declineMove h) scan → exec .declineMove s = outcome) ∧
      (s.Engaged p tag (.forceRelease h) scan → exec .forceRelease s = outcome)

/-- RELEASE, RENEW, CONFIRM_MOVE and DECLINE_MOVE of another port's reservation, and RELOCATE by a port that is neither owner
nor administrator, are answered NOT_OWNER and apply nothing (R39, R40, R107, R110, R111). -/
def Obligations.NotOwnerRefused : Prop :=
  ∀ (p : Port) (tag : Byte) (h : Handle) (i : RecIx) (a : Reservation) (scan : Option Scan) (s : State),
    s.Names h i a → a.owner ≠ p →
    let outcome := Host.Outcome.next (φ := Fault) (ρ := Refusal) (s.answered p tag .notOwner [])
    (s.Engaged p tag (.release h) scan → exec .release s = outcome) ∧
      (∀ n, s.Engaged p tag (.renew h n) scan → exec .renew s = outcome) ∧
      (s.Engaged p tag (.confirmMove h) scan → exec .confirmMove s = outcome) ∧
      (s.Engaged p tag (.declineMove h) scan → exec .declineMove s = outcome) ∧
      ∀ q : RelocateArgs, q.handle = h → (s.ports.get p).admin = false → s.Engaged p tag (.relocate q) scan →
        exec .relocate s = outcome

/-- RELEASE by the owner and FORCE_RELEASE by an administrator run the release procedure: both sets given up, the context freed,
the record freed with its generation advanced, the holdings, the response with the released sets and the number of slots put
into DRAINING, the watch report and the record report (R8, R20, R36, R39, R178). The events at each queue, in order, each stamped
with the frame counter: BAR_DONE of the give-up claim, LIVE where a PENDING set was found LIVE, MOVE_ABANDONED to a requester that is
not the releasing port, RELEASED_BY_ADMIN to an owner that is not, POOL_RECOVERED (R12, R32, R36, R37, R118). That BAR_DONE comes first
is the model's choice (log 8, DEDUCED). -/
def Obligations.ReleaseFreesRecord : Prop :=
  ∀ (force : Bool) (p : Port) (tag : Byte) (h : Handle) (i : RecIx) (a : Reservation) (scan : Option Scan) (s : State),
    s.Names h i a → (force = true ∨ a.owner = p) →
    s.Engaged p tag (if force then .forceRelease h else .release h) scan →
      let given := a.set ++ s.targetOf a
      let drained := (List.finRange 512).countP fun j =>
        inSet given j.val && decide ((s.map.entries.get j).state = .live)
      let now := s.timing.frameCounter
      let bars := heldBarred s.map.entries.get given
      let foundLive := decide (a.state = .pending) && (List.finRange 512).any fun j =>
        inSet a.set j.val && decide ((s.map.entries.get j).state = .live)
      let count := s.pool.fifo.length + 1
      let recovered := !s.pool.warnArmed && decide (min 192 (s.params.poolLow + 4) ≤ count)
      ∃ t, exec (if force then .forceRelease else .release) s = .next t ∧ s.Released i a t ∧
        t.engine = { s.engine with work := .idle, waitReq := true } ∧
        s.HasAnswer p tag .ok (be16 drained ++ setBytes a.set ++ setBytes (s.targetOf a)) t ∧
        HoldingsFall a (s.ports.get a.owner) (t.ports.get a.owner) ∧
        (∀ q, t.ports.get q = { s.ports.get q with
          queue := if q = p then (s.ports.get q).queue.tail else (s.ports.get q).queue
          stored := (t.ports.get q).stored
          events := (t.ports.get q).events
          lost := (t.ports.get q).lost
          ownedSlots := if q = a.owner then (t.ports.get q).ownedSlots else (s.ports.get q).ownedSlots
          ownedRecords := if q = a.owner then (t.ports.get q).ownedRecords else (s.ports.get q).ownedRecords }) ∧
        (∀ q, q ≠ p → (t.ports.get q).stored = (s.ports.get q).stored) ∧ t.resetLow = false ∧
        t.reports = { s.reports with watch := s.reports.watch ++ s.slotReportTo t ++ [.record h none] } ∧
        t.pool.warnArmed = (s.pool.warnArmed || recovered) ∧
        s.EventsBy (fun q =>
          let notices := (s.ports.get q).attrs.notices
          eventIf (notices && !bars.isEmpty) now (.barDone bars.length (barDoneSet bars)) ++
            eventIf (foundLive && decide (q = a.owner)) now (.live h a.set) ++
            (match s.contextOf a with
              | some (_, c) => eventIf (decide (c.requesterPort = some q) && decide (q ≠ p)) now
                  (.moveAbandoned h c.tagField c.target .released)
              | none => []) ++
            eventIf (force && decide (q = a.owner) && decide (q ≠ p)) now (.releasedByAdmin h a.set) ++
            eventIf (notices && recovered) now (.poolRecovered count)) t

/-- RENEW of a stale handle is answered BAD_HANDLE, then of another port's reservation NOT_OWNER, then of an unleased one
WRONG_STATE. Otherwise, in any state, the length takes a new value unless it is 0, the remaining takes the length, warned is
cleared, and nothing else changes; the response carries both (R40). -/
def Obligations.RenewSetsLease : Prop :=
  ∀ (p : Port) (tag : Byte) (h : Handle) (n : Nat) (scan : Option Scan) (s : State),
    s.Engaged p tag (.renew h n) scan →
    (s.Stale h → exec .renew s = .next (s.answered p tag .badHandle [])) ∧
    ∀ (i : RecIx) (a : Reservation), s.Names h i a →
      (a.owner ≠ p → exec .renew s = .next (s.answered p tag .notOwner [])) ∧
      (a.owner = p → a.lease = none → exec .renew s = .next (s.answered p tag .wrongState [])) ∧
      ∀ l, a.owner = p → a.lease = some l →
        let len := if n = 0 then l.length else n
        let t := s.answered p tag .ok (be16 len ++ be16 len)
        exec .renew s = .next { t with pool := { s.pool with
          records := s.pool.records.set i ⟨h.gen, some { a with lease := some ⟨len, len, false⟩ }⟩ } }

/-- QUERY_RESERVATION from any port answers with the record as it stands (R41, Table 11-11). LIST_OWNED answers with the
caller's records from the start index on, ascending, up to 48, with the continuation index (R42). READ_MAP answers with one item for
each slot of the range: state, role and bar pending, then the index or FF (R22, Table 11-10). None changes anything. -/
def Obligations.ReadingCommandsAnswer : Prop :=
  (∀ (p : Port) (tag : Byte) (h : Handle) (i : RecIx) (a : Reservation) (scan : Option Scan) (s : State),
    s.Names h i a → s.Engaged p tag (.query h) scan →
      let flags : Nat := (if a.ticket.isSome then 4 else 0) +
        (match a.lease with
          | some l => (if l.warned then 2 else 0) + 1
          | none => 0)
      let lease := match a.lease with
        | some l => be16 l.length ++ be16 l.remaining
        | none => [0#8, 0#8, 0#8, 0#8]
      let move := match s.contextOf a with
        | some (k, c) => BitVec.ofNat 8 k.val :: (match c.stage with
            | .offered n => 0#8 :: be16 n
            | .armed => [1#8, 0#8, 0#8]
            | .overlap n _ => 2#8 :: be16 n)
        | none => [0xFF#8, 0xFF#8, 0#8, 0#8]
      exec .queryReservation s = .next (s.answered p tag .ok
        ([h.index, h.gen, a.state.code, BitVec.ofNat 8 a.owner.val, a.cls.code, BitVec.ofNat 8 flags] ++
          be16 a.grantFrame.toNat ++ lease ++ [a.ticket.getD 0#8] ++ move ++ setBytes a.set ++
          setBytes (s.targetOf a)))) ∧
  (∀ (p : Port) (tag : Byte) (start : Nat) (scan : Option Scan) (s : State), s.Engaged p tag (.listOwned start) scan →
    let owned := (List.finRange 192).filter fun i => decide (start ≤ i.val) &&
      decide ((s.pool.records.get i).alloc.map Reservation.owner = some p)
    let listed := owned.take 48
    let next : Byte := if owned.length ≤ 48 then 0xFF#8
      else BitVec.ofNat 8 ((listed.getLast?.elim 0 fun i => i.val + 1))
    exec .listOwned s = .next (s.answered p tag .ok
      ([BitVec.ofNat 8 (s.ports.get p).ownedRecords, next, BitVec.ofNat 8 listed.length] ++
        listed.flatMap fun i => [BitVec.ofNat 8 i.val, (s.pool.records.get i).gen]))) ∧
  ∀ (p : Port) (tag : Byte) (r : Run) (scan : Option Scan) (s : State), r.first + r.len ≤ 512 →
    s.Engaged p tag (.readMap r) scan →
      ∃ items : List (List Byte), items.length = r.len ∧
        (∀ k (hs : r.first + k < 512), k < r.len → items[k]? = some
          (match s.map.entries.get ⟨r.first + k, hs⟩ with
            | .free => [0x00#8, 0xFF#8]
            | .held i role _ b => [BitVec.ofNat 8 (32 + (if role = .current then 8 else 16) +
                (if b then 4 else 0)), BitVec.ofNat 8 i.val]
            | .live i role b => [BitVec.ofNat 8 (64 + (if role = .current then 8 else 16) +
                (if b then 4 else 0)), BitVec.ofNat 8 i.val]
            | .draining _ b => [BitVec.ofNat 8 (96 + (if b then 4 else 0)), 0xFF#8]
            | .barred => [0x80#8, 0xFF#8])) ∧
        exec .readMap s = .next (s.answered p tag .ok (be16 r.first ++ [BitVec.ofNat 8 r.len] ++ items.flatten))

/-! ## The map -/

/-- BAR: FREE slots of the run go to BARRED and slots in use take bar pending; each OFFERED move whose target the run marks is
abandoned with reason SLOT_BARRED, one by one in ascending order of context: its target given up, its record LIVE, BAR_DONE where a
pending bar completed, MOVE_ABANDONED to the owner and to another requester; the wait-pass request is set where a slot went FREE; the
response counts the slots as they end (R8, R11, R12, R19, R20, R117, R119, R175). BAR_DONE before MOVE_ABANDONED is the model's choice
(log 8, DEDUCED). -/
def Obligations.BarMarksRun : Prop :=
  ∀ (p : Port) (tag : Byte) (r : Run) (scan : Option Scan) (s : State), s.Engaged p tag (.bar r) scan →
    let hit (k : CtxIx) : Option MoveContext := (s.moves.get k).filter fun c =>
      (match c.stage with
        | .offered _ => true
        | _ => false) &&
      c.target.any fun q => decide (q.first < r.first + r.len) && decide (r.first < q.first + q.len)
    let marked (j : SlotIx) : Slot :=
      if r.first ≤ j.val ∧ j.val < r.first + r.len then
        match s.map.entries.get j with
        | .free => .barred
        | .held i role armed _ => .held i role armed true
        | .live i role _ => .live i role true
        | .draining n _ => .draining n true
        | .barred => .barred
      else s.map.entries.get j
    let entry (k : Nat) (j : SlotIx) : Slot := giveUpSlot s.params.guard
      (((List.finRange 4).filter fun o => decide (o.val < k)).flatMap fun o => (hit o).elim [] MoveContext.target)
      j.val (marked j)
    let now := s.timing.frameCounter
    ∃ t, exec .bar s = .next t ∧
      (∀ j, t.map.entries.get j = entry 4 j) ∧
      (∀ k, t.moves.get k = if (hit k).isSome then none else s.moves.get k) ∧
      (∀ k c, hit k = some c → t.pool.records.get c.index = { s.pool.records.get c.index with
        alloc := (s.pool.records.get c.index).alloc.map fun a => { a with state := .live, context := none } }) ∧
      (∀ i, (∀ k c, hit k = some c → c.index ≠ i) → t.pool.records.get i = s.pool.records.get i) ∧
      s.HasAnswer p tag .ok (be16 r.first ++ [BitVec.ofNat 8 r.len,
        BitVec.ofNat 8 ((List.finRange 512).countP fun j =>
          r.has j.val && decide ((t.map.entries.get j).state = .barred)),
        BitVec.ofNat 8 ((List.finRange 512).countP fun j => r.has j.val && (t.map.entries.get j).barPending)]) t ∧
      s.OthersBut p t ∧ (s.ports.get p).SameRest (t.ports.get p) ∧
      s.EventsBy (fun q => (List.finRange 4).flatMap fun k => (hit k).elim [] fun c =>
        let bars := heldBarred (entry k.val) c.target
        eventIf ((s.ports.get q).attrs.notices && !bars.isEmpty) now (.barDone bars.length (barDoneSet bars)) ++
          eventIf (decide ((s.pool.records.get c.index).alloc.map Reservation.owner = some q) ||
            decide (c.requesterPort = some q)) now
            (.moveAbandoned ⟨BitVec.ofNat 8 c.index.val, c.gen⟩ c.tagField c.target .slotBarred)) t ∧
      t.reports = { s.reports with watch := s.reports.watch ++ slotReport s.map.entries.get marked ++
        ((List.finRange 4).flatMap fun k => (hit k).elim [] fun c =>
          slotReport (entry k.val) (entry (k.val + 1)) ++
            [.record ⟨BitVec.ofNat 8 c.index.val, c.gen⟩ (some .live)]) } ∧
      t.engine = { s.engine with
        work := .idle
        waitReq := s.engine.waitReq || ((List.finRange 4).any fun k => (hit k).elim false fun c =>
          heldFreed (entry k.val) c.target) } ∧
      s.SameFrame t ∧ t.pool.fifo = s.pool.fifo ∧ t.pool.warnArmed = s.pool.warnArmed ∧ t.waits = s.waits ∧
      t.marks = s.marks ∧ t.units = s.units ∧ t.params = s.params ∧ t.map.carry = s.map.carry ∧ t.resetLow = false

/-- UNBAR: BARRED slots of the run go to FREE and pending bars are cleared; the wait-pass request is set whatever it freed; the
response counts both, and the watch report names the slots turned FREE (R13, R20, R177). -/
def Obligations.UnbarFreesRun : Prop :=
  ∀ (p : Port) (tag : Byte) (r : Run) (scan : Option Scan) (s : State), s.Engaged p tag (.unbar r) scan →
    let unbar (e : Slot) : Slot := match e with
      | .free => .free
      | .held i role armed _ => .held i role armed false
      | .live i role _ => .live i role false
      | .draining n _ => .draining n false
      | .barred => .free
    let freed := (List.finRange 512).countP fun j => r.has j.val && decide ((s.map.entries.get j).state = .barred)
    let cleared := (List.finRange 512).countP fun j => r.has j.val && (s.map.entries.get j).barPending
    ∃ t, exec .unbar s = .next t ∧
      s.EntriesBy (fun j e => if r.has j then unbar e else e) t ∧
      t.engine = { s.engine with work := .idle, waitReq := true } ∧
      t.ports = (s.answered p tag .ok
        (be16 r.first ++ [BitVec.ofNat 8 r.len, BitVec.ofNat 8 freed, BitVec.ofNat 8 cleared])).ports ∧
      t.reports = { s.reports with watch := s.reports.watch ++ s.slotReportTo t } ∧
      s.SameFrame t ∧ t.map.carry = s.map.carry ∧ t.pool = s.pool ∧ t.waits = s.waits ∧ t.marks = s.marks ∧
      t.moves = s.moves ∧ t.units = s.units ∧ t.params = s.params ∧ t.resetLow = false

/-! ## The Wait List -/

/-- CANCEL_WAIT: a ticket no entry holds is answered WRONG_STATE, another port's NOT_OWNER; its own entry leaves the list, the
promised count falls by n and the wait-pass request is set (R70, R73, R82). -/
def Obligations.CancelWaitRemovesEntry : Prop :=
  ∀ (p : Port) (tag ticket : Byte) (scan : Option Scan) (s : State), s.Engaged p tag (.cancelWait ticket) scan →
    (s.waits.entries.map WaitEntry.ticket).Nodup →
      ((∀ e ∈ s.waits.entries, e.ticket ≠ ticket) →
        exec .cancelWait s = .next (s.answered p tag .wrongState [])) ∧
      ∀ e ∈ s.waits.entries, e.ticket = ticket →
        (e.port ≠ p → exec .cancelWait s = .next (s.answered p tag .notOwner [])) ∧
        (e.port = p →
          let answer : Response := ⟨tag, .ok,
            ticket :: BitVec.ofNat 8 e.search.n :: be16 (e.remaining.getD 0), true⟩
          exec .cancelWait s = .next { s with
            engine := { s.engine with work := .idle, waitReq := true }
            waits := { s.waits with entries := s.waits.entries.filter fun x => x.ticket ≠ ticket }
            ports := s.ports.modify p fun c =>
              { c with
                promised := c.promised - e.search.n
                queue := c.queue.tail
                stored := c.stored ++ [answer] } })

/-- A pass begins where the engine is free and the request set: the request clears, and the entries to be tried are fixed in
service order, the head alone under STRICT, all under FIT; with the list empty the pass is over at once
(R47, R68, R70, R74, R75, R76). -/
def Obligations.PassBegins : Prop :=
  ∀ s : State, s.resetLow = false → s.engine.work = .idle → s.engine.waitReq = true →
    let ofClass (c : ResClass) := s.waits.entries.filter fun e => e.cls = c
    let inOrder := (ofClass .urgent ++ ofClass .normal ++ ofClass .bulk).map WaitEntry.ticket
    let outcome (w : Work) := Host.Outcome.next (φ := Fault) (ρ := Refusal)
      { s with engine := { s.engine with waitReq := false, work := w } }
    (s.waits.entries = [] → exec .waitPassBegin s = outcome .idle) ∧
      (s.waits.entries ≠ [] → s.params.waitPolicy = .fit →
        exec .waitPassBegin s = outcome (.pass ⟨inOrder, none, [], s.engine.rover⟩)) ∧
      (s.waits.entries ≠ [] → s.params.waitPolicy = .strict →
        exec .waitPassBegin s = outcome (.pass ⟨inOrder.take 1, none, [], s.engine.rover⟩))

/-- A pass completes with one successful trial whose entry is still listed and whose checks pass again: the entry is granted
with its ticket as origin ticket, leaves the list, and GRANTED is posted to its port; POOL_LOW follows where the warning is due, and
POOL_RECOVERED where the recovery is; the watch report and the record report are handed (R20, R29, R31, R32, R68, R77). That
POOL_RECOVERED comes after GRANTED is the model's choice (log 15, DESIGN CHOICE). -/
def Obligations.PassGrantsTrial : Prop :=
  ∀ (s : State) (ticket : Byte) (set : List Run) (rover : Nat) (e : WaitEntry) (i : RecIx) (rest : List RecIx),
    s.resetLow = false → s.engine.work = .pass ⟨[], none, [⟨ticket, set⟩], rover⟩ →
    s.waits.entries.find? (fun x => x.ticket = ticket) = some e →
    (s.ports.get e.port).ownedSlots + (s.ports.get e.port).promised ≤ (s.ports.get e.port).attrs.slotQuota →
    (s.ports.get e.port).ownedRecords + 1 ≤ (s.ports.get e.port).attrs.recordQuota →
    (e.cls = .urgent ∨ s.params.poolFloor < s.pool.fifo.length) → s.pool.fifo = i :: rest → rest.length < 192 →
      let gen := (s.pool.records.get i).gen
      let h : Handle := ⟨BitVec.ofNat 8 i.val, gen⟩
      let now := s.timing.frameCounter
      let lease : Option Lease := if e.lease = 0 then none else some ⟨e.lease, e.lease, false⟩
      let low := s.pool.warnArmed && decide (rest.length ≤ s.params.poolLow)
      let recovered := !s.pool.warnArmed && decide (min 192 (s.params.poolLow + 4) ≤ rest.length)
      ∃ t, exec .waitPassCompletion s = .next t ∧
        t.pool.records = s.pool.records.set i
          ⟨gen, some ⟨.pending, e.port, e.cls, set, lease, none, some ticket, now⟩⟩ ∧
        t.pool.fifo = rest ∧
        s.EntriesBy (fun j x => if inSet set j then .held i .current true false else x) t ∧ s.SameFrame t ∧
        t.engine = { s.engine with
          work := .idle
          waitReq := true
          rover := match e.search.place with
            | .atRuns _ => s.engine.rover
            | _ => roverAfter set s.engine.rover } ∧
        t.waits = { s.waits with entries := s.waits.entries.filter fun x => x.ticket ≠ ticket } ∧
        (t.ports.get e.port).ownedSlots = (s.ports.get e.port).ownedSlots + setTotal set ∧
        (t.ports.get e.port).ownedRecords = (s.ports.get e.port).ownedRecords + 1 ∧
        (t.ports.get e.port).promised = (s.ports.get e.port).promised - e.search.n ∧ s.OthersBut e.port t ∧
        s.EventsBy (fun q =>
          eventIf (decide (q = e.port)) now (.granted ticket h set) ++
            eventIf ((s.ports.get q).attrs.notices && low) now (.poolLow rest.length) ++
            eventIf ((s.ports.get q).attrs.notices && recovered) now (.poolRecovered rest.length)) t ∧
        t.reports = { s.reports with watch := s.reports.watch ++ s.slotReportTo t ++ [.record h (some .pending)] } ∧
        t.pool.warnArmed = (s.pool.warnArmed && !low || recovered) ∧
        t.marks = s.marks ∧ t.moves = s.moves ∧ t.units = s.units ∧ t.params = s.params ∧
        t.map.carry = s.map.carry ∧ t.resetLow = false

/-- The trials of a pass. At the completion the entries left to try are tried in order, each against the tables less what earlier
trials of the pass set aside: an entry that has left the list, or fails the provisional quota check, or the pool check against the free
records less one for each earlier trial, is not searched and the next is tried; else its search starts at the pointer as the earlier
trials leave it and reads the slots of earlier trials as not FREE, and a set found becomes the next trial. A trial in hand is ended
first. The trials are granted one after the other, each against the tables as the grant before left them; one whose entry has left, or
whose quota or pool check fails at the completion, is dropped and changes nothing (R68, R74, R75, R76, R77, R78, R81). On an empty queue
a step reads one more slot of the trial in hand, ends it, or begins the next (the model's way of R52, log 3). -/
def Obligations.PassMakesTrials : Prop :=
  ∀ (s : State) (todo : List Byte) (trials : List Trial) (rover : Nat), s.resetLow = false →
    let with_ (p : Pass) : State := { s with engine := { s.engine with work := .pass p } }
    let free (j : Nat) : Bool := s.map.isFree j && trials.all fun x => !inSet x.set j
    let ended (ticket : Byte) (sc : Scan) (todo : List Byte) : Pass := match sc.finish free with
      | none => ⟨todo, none, trials, rover⟩
      | some set => ⟨todo, none, trials ++ [⟨ticket, set⟩], match sc.args.place with
          | .atRuns _ => rover
          | _ => roverAfter set rover⟩
    let fits (e : WaitEntry) : Prop :=
      let c := s.ports.get e.port
      let left := s.pool.fifo.length - trials.length
      c.ownedSlots + c.promised ≤ c.attrs.slotQuota ∧ c.ownedRecords + 1 ≤ c.attrs.recordQuota ∧ left ≠ 0 ∧
        (e.cls = .urgent ∨ s.params.poolFloor < left)
    -- the next entry to try
    (∀ ticket, s.waits.entries.find? (fun x => x.ticket = ticket) = none →
      exec .waitPassCompletion (with_ ⟨ticket :: todo, none, trials, rover⟩) =
        exec .waitPassCompletion (with_ ⟨todo, none, trials, rover⟩)) ∧
    (∀ ticket e, s.waits.entries.find? (fun x => x.ticket = ticket) = some e →
      (¬ fits e → exec .waitPassCompletion (with_ ⟨ticket :: todo, none, trials, rover⟩) =
        exec .waitPassCompletion (with_ ⟨todo, none, trials, rover⟩)) ∧
      (fits e → exec .waitPassCompletion (with_ ⟨ticket :: todo, none, trials, rover⟩) =
        exec .waitPassCompletion (with_ (ended ticket ⟨e.search, rover, []⟩ todo)))) ∧
    -- the trial in hand
    (∀ ticket sc, exec .waitPassCompletion (with_ ⟨todo, some (ticket, sc), trials, rover⟩) =
      exec .waitPassCompletion (with_ (ended ticket sc todo))) ∧
    -- the grants, one after the other
    (∀ x, trials.head? = some x → ∃ u, exec .waitPassCompletion (with_ ⟨[], none, [x], rover⟩) = .next u ∧
      exec .waitPassCompletion (with_ ⟨[], none, trials, rover⟩) =
        exec .waitPassCompletion { u with engine := { u.engine with work := .pass ⟨[], none, trials.tail, rover⟩ } }) ∧
    (∀ ticket set, s.engine.work = .pass ⟨[], none, [⟨ticket, set⟩], rover⟩ →
      (∀ e ∈ s.waits.entries, e.ticket = ticket →
        let c := s.ports.get e.port
        c.attrs.slotQuota < c.ownedSlots + c.promised ∨ c.attrs.recordQuota < c.ownedRecords + 1 ∨
          s.pool.fifo.length = 0 ∨ e.cls ≠ .urgent ∧ s.pool.fifo.length ≤ s.params.poolFloor) →
      exec .waitPassCompletion s = .next { s with engine := { s.engine with work := .idle } }) ∧
    (exec .waitPassCompletion (with_ ⟨[], none, [], rover⟩) = .next { s with engine := { s.engine with work := .idle } }) ∧
    -- a step on an empty queue
    (s.pending = [] →
      (∀ ticket sc i, sc.order[sc.seen.length]? = some i →
        step (with_ ⟨todo, some (ticket, sc), trials, rover⟩) =
          .next (with_ ⟨todo, some (ticket, { sc with seen := sc.seen ++ [free i] }), trials, rover⟩)) ∧
      (∀ ticket sc, sc.order.length ≤ sc.seen.length →
        step (with_ ⟨todo, some (ticket, sc), trials, rover⟩) = .next (with_ (ended ticket sc todo))) ∧
      (∀ ticket e, s.waits.entries.find? (fun x => x.ticket = ticket) = some e → fits e →
        step (with_ ⟨ticket :: todo, none, trials, rover⟩) =
          .next (with_ ⟨todo, some (ticket, ⟨e.search, rover, []⟩), trials, rover⟩)) ∧
      ∀ ticket, (∀ e, s.waits.entries.find? (fun x => x.ticket = ticket) = some e → ¬ fits e) →
        step (with_ ⟨ticket :: todo, none, trials, rover⟩) = .next (with_ ⟨todo, none, trials, rover⟩))

/-- The Wait List's reaction to a mark: every limit falls by one; each entry that reaches 0 leaves, its port's promised count
falls by its n and WAIT_EXPIRED is posted, stamped with the mark; the wait-pass request is set where one left. WAIT_EXPIRY
names an entry that the mark brings to 0 (R79, R80); that it takes the whole reaction is the model's choice (log 4, DEDUCED). -/
def Obligations.WaitListReaction : Prop :=
  ∀ (s : State) (m : Word) (rest : List Word), s.resetLow = false → s.timing.sync = .locked →
    s.marks.wait = m :: rest → s.WaitsAgree →
      let ending (e : WaitEntry) : Bool := decide (e.remaining = some 1)
      let ofClass (c : ResClass) := s.waits.entries.filter fun e => e.cls = c
      let gone := (ofClass .urgent ++ ofClass .normal ++ ofClass .bulk).filter ending
      ∃ t, exec .waitListFrameReaction s = .next t ∧
        (∀ e ∈ s.waits.entries, ending e = true → exec (.waitExpiry e.ticket) s = .next t) ∧
        t.waits = { s.waits with entries := (s.waits.entries.filter fun e => !ending e).map fun e =>
          { e with remaining := e.remaining.map fun n => n - 1 } } ∧
        t.engine = { s.engine with waitReq := s.engine.waitReq || !gone.isEmpty } ∧
        s.EventsBy (fun q => (gone.filter fun e => e.port = q).map fun e => ⟨m, .waitExpired e.ticket⟩) t ∧
        (∀ q, t.ports.get q = { s.ports.get q with
          events := (t.ports.get q).events
          lost := (t.ports.get q).lost
          promised := (s.ports.get q).promised -
            ((gone.filter fun e => e.port = q).map fun e => e.search.n).sum }) ∧
        t = { s with waits := t.waits, engine := t.engine, ports := t.ports, marks := { s.marks with wait := rest } }

/-! ## Moves -/

/-- RELOCATE granted: the lowest free context, the record MOVING, the found slots HELD with role TARGET, armed for the owner's
own move; an offered move takes CONFIRM_WINDOW and posts MOVE_OFFER to the owner with the deadline; the watch report and the record
report are handed (R6, R20, R35, R65, R107 to R109). -/
def Obligations.RelocateGranted : Prop :=
  ∀ (p : Port) (tag : Byte) (q : RelocateArgs) (scan : Option Scan) (s : State) (i : RecIx) (a : Reservation)
    (k : CtxIx) (set : List Run), s.Engaged p tag (.relocate q) scan → s.Names q.handle i a →
    (a.owner = p ∨ (s.ports.get p).admin = true) → a.state = .live → s.moves.get k = none →
    (∀ j, j < k → s.moves.get j ≠ none) →
    (scan.getD ⟨⟨setTotal a.set, q.shape, q.place, q.lo, q.hi⟩, s.engine.rover, []⟩).finish s.map.isFree = some set →
      let own := decide (a.owner = p)
      let window := s.params.confirmWindow
      let now := s.timing.frameCounter
      let deadline := now + BitVec.ofNat 16 window
      let stage : Stage := if own then .armed else .offered window
      ∃ t, exec .relocate s = .next t ∧
        t.moves = s.moves.set k (some ⟨i, q.handle.gen, some (p, tag), stage, set⟩) ∧
        t.pool = { s.pool with
          records := s.pool.records.set i ⟨q.handle.gen, some { a with state := .moving, context := some k }⟩ } ∧
        s.EntriesBy (fun j e => if inSet set j then .held i .target own false else e) t ∧ s.SameFrame t ∧
        t.engine = { s.engine with
          work := .idle
          rover := match q.place with
            | .atRuns _ => s.engine.rover
            | _ => roverAfter set s.engine.rover } ∧
        s.HasAnswer p tag .ok ([BitVec.ofNat 8 k.val, (if own then 1#8 else 0#8)] ++
          be16 (if own then 0 else deadline.toNat) ++ setBytes set) t ∧
        s.EventsBy (fun o => eventIf (decide (o = a.owner) && !own) now (.moveOffer q.handle tag set deadline)) t ∧
        (∀ o, (t.ports.get o).ownedSlots = (s.ports.get o).ownedSlots ∧
          (t.ports.get o).ownedRecords = (s.ports.get o).ownedRecords ∧
          (t.ports.get o).promised = (s.ports.get o).promised ∧ (s.ports.get o).SameRest (t.ports.get o)) ∧
        t.reports = { s.reports with watch := s.reports.watch ++ s.slotReportTo t ++ [.record q.handle (some .moving)] } ∧
        t.waits = s.waits ∧ t.marks = s.marks ∧ t.units = s.units ∧ t.params = s.params ∧
        t.map.carry = s.map.carry ∧ t.resetLow = false

/-- RELOCATE refused after the owner check: WRONG_STATE for a record not LIVE, then NO_MOVE_CONTEXT, then NO_ROOM; nothing is
applied (R107). -/
def Obligations.RelocateRefused : Prop :=
  ∀ (p : Port) (tag : Byte) (q : RelocateArgs) (scan : Option Scan) (s : State) (i : RecIx) (a : Reservation),
    s.Engaged p tag (.relocate q) scan → s.Names q.handle i a → (a.owner = p ∨ (s.ports.get p).admin = true) →
      let outcome (st : Status) := Host.Outcome.next (φ := Fault) (ρ := Refusal) (s.answered p tag st [])
      let search : Scan := scan.getD ⟨⟨setTotal a.set, q.shape, q.place, q.lo, q.hi⟩, s.engine.rover, []⟩
      (a.state ≠ .live → exec .relocate s = outcome .wrongState) ∧
        (a.state = .live → (∀ k, s.moves.get k ≠ none) → exec .relocate s = outcome .noMoveContext) ∧
        (a.state = .live → (∃ k, s.moves.get k = none) → search.finish s.map.isFree = none →
          exec .relocate s = outcome .noRoom)

/-- CONFIRM_MOVE by the owner of an OFFERED move arms it: the context takes ARMED, its HELD slots armed yes, nothing is posted;
in any other stage, or with no move, it and DECLINE_MOVE are answered WRONG_STATE (R7, R110, R111). DECLINE_MOVE by the owner of an
OFFERED move abandons it: the target given up, the record LIVE with its current set, the context free, MOVE_ABANDONED with reason
DECLINED to the owner and to another requester, the wait-pass request set where a slot went FREE, the watch report and the record report
handed (R8, R19, R20, R35, R111, R117). BAR_DONE before MOVE_ABANDONED is the model's choice (log 8, DEDUCED). -/
def Obligations.OwnerAnswersOffer : Prop :=
  (∀ (p : Port) (tag : Byte) (h : Handle) (scan : Option Scan) (s : State) (i : RecIx) (a : Reservation),
    s.Names h i a → a.owner = p →
      (∀ k c n, a.state = .moving → a.context = some k → s.moves.get k = some c → c.stage = .offered n →
        s.Engaged p tag (.confirmMove h) scan →
          ∃ t, exec .confirmMove s = .next t ∧ t.moves = s.moves.set k (some { c with stage := .armed }) ∧
            s.EntriesBy (fun j e => match e with
              | .held x role armed b => .held x role (armed || inSet c.target j) b
              | e => e) t ∧
            t.ports = (s.answered p tag .ok (BitVec.ofNat 8 k.val :: setBytes c.target)).ports ∧
            t = { s with
              map := { s.map with entries := t.map.entries }
              engine := { s.engine with work := .idle }
              moves := t.moves
              ports := t.ports }) ∧
      ((∀ k c n, ¬ (a.state = .moving ∧ a.context = some k ∧ s.moves.get k = some c ∧ c.stage = .offered n)) →
        (s.Engaged p tag (.confirmMove h) scan → exec .confirmMove s = .next (s.answered p tag .wrongState [])) ∧
        (s.Engaged p tag (.declineMove h) scan → exec .declineMove s = .next (s.answered p tag .wrongState [])))) ∧
  ∀ (p : Port) (tag : Byte) (h : Handle) (scan : Option Scan) (s : State) (i : RecIx) (a : Reservation) (k : CtxIx)
    (c : MoveContext) (n : Nat), s.Names h i a → a.owner = p → a.state = .moving → a.context = some k →
    s.moves.get k = some c → c.index = i → c.gen = h.gen → c.stage = .offered n →
    s.Engaged p tag (.declineMove h) scan →
      let bars := heldBarred s.map.entries.get c.target
      ∃ t, exec .declineMove s = .next t ∧ t.moves = s.moves.set k none ∧
        t.pool = { s.pool with
          records := s.pool.records.set i ⟨h.gen, some { a with state := .live, context := none }⟩ } ∧
        s.EntriesBy (giveUpSlot s.params.guard c.target) t ∧ s.SameFrame t ∧
        s.HasAnswer p tag .ok (BitVec.ofNat 8 k.val :: setBytes c.target) t ∧ s.OthersBut p t ∧
        (s.ports.get p).SameRest (t.ports.get p) ∧
        s.EventsBy (fun o =>
          eventIf ((s.ports.get o).attrs.notices && !bars.isEmpty) s.timing.frameCounter
              (.barDone bars.length (barDoneSet bars)) ++
            eventIf (decide (o = p) || decide (c.requesterPort = some o)) s.timing.frameCounter
              (.moveAbandoned h c.tagField c.target .declined)) t ∧
        t.engine = { s.engine with
          work := .idle, waitReq := s.engine.waitReq || heldFreed s.map.entries.get c.target } ∧
        t.reports = { s.reports with watch := s.reports.watch ++ s.slotReportTo t ++ [.record h (some .live)] } ∧
        t.waits = s.waits ∧ t.marks = s.marks ∧ t.units = s.units ∧ t.params = s.params ∧
        t.map.carry = s.map.carry ∧ t.resetLow = false

/-- The Move Unit's reaction to mark m: the confirm remaining of each OFFERED context falls by one and its move is abandoned at
0; an ARMED context is not changed; the overlap remaining of a context not started at m falls by one and its move is cut over
at 0. CONFIRM_TIMEOUT and CUTOVER name a context that the mark brings to 0 (R112, R113, R116); that each takes the whole reaction is the
model's choice (log 4, DEDUCED). -/
def Obligations.MoveUnitReaction : Prop :=
  ∀ (s : State) (m : Word) (rest : List Word), s.resetLow = false → s.timing.sync = .locked →
    s.marks.move = m :: rest →
      ∃ t, exec .moveUnitFrameReaction s = .next t ∧
        (∀ k c n, s.moves.get k = some c → c.stage = .offered n → n ≤ 1 →
          exec (.confirmTimeout k) s = .next t) ∧
        (∀ k c n o, s.moves.get k = some c → c.stage = .overlap n o → o ≠ m → n ≤ 1 →
          exec (.cutover k) s = .next t) ∧
        (∀ k, t.moves.get k = (s.moves.get k).bind fun c => match c.stage with
          | .offered n => if n ≤ 1 then none else some { c with stage := .offered (n - 1) }
          | .armed => some c
          | .overlap n o => if o = m then some c
            else if n ≤ 1 then none else some { c with stage := .overlap (n - 1) o }) ∧
        (∀ i, (∀ k c, s.moves.get k = some c → c.index ≠ i) → t.pool.records.get i = s.pool.records.get i) ∧
        (∀ j : SlotIx, (∀ k c, s.moves.get k = some c → inSet c.target j.val = false ∧
          ∀ a, (s.pool.records.get c.index).alloc = some a → inSet a.set j.val = false) →
          t.map.entries.get j = s.map.entries.get j) ∧
        (∀ q, t.ports.get q = { s.ports.get q with
          events := (t.ports.get q).events, lost := (t.ports.get q).lost }) ∧
        t.marks = { s.marks with move := rest } ∧ s.SameFrame t ∧
        t.pool = { s.pool with records := t.pool.records } ∧
        t.engine = { s.engine with waitReq := t.engine.waitReq } ∧
        t.reports = { s.reports with watch := t.reports.watch } ∧ t.waits = s.waits ∧ t.units = s.units ∧
        t.params = s.params ∧ t.resetLow = false

/-- An OFFERED move that times out at mark m, one context in use, is abandoned: its target given up, its record LIVE with its
current set, its context free, MOVE_ABANDONED with reason TIMEOUT to the owner and to another requester, stamped m, after
BAR_DONE where a pending bar completed; the watch report and the record report are handed (R8, R12, R20, R35, R113, R117). That
CONFIRM_TIMEOUT takes the whole reaction and that BAR_DONE comes before MOVE_ABANDONED are the model's choices (log 4 and log 8,
DEDUCED). -/
def Obligations.OfferTimesOut : Prop :=
  ∀ (s : State) (m : Word) (rest : List Word) (k : CtxIx) (c : MoveContext) (n : Nat) (a : Reservation),
    s.resetLow = false → s.timing.sync = .locked → s.marks.move = m :: rest → s.moves.get k = some c →
    (∀ j, j ≠ k → s.moves.get j = none) → c.stage = .offered n → n ≤ 1 →
    s.pool.records.get c.index = ⟨c.gen, some a⟩ →
      let h : Handle := ⟨BitVec.ofNat 8 c.index.val, c.gen⟩
      let bars := heldBarred s.map.entries.get c.target
      ∃ t, exec (.confirmTimeout k) s = .next t ∧ t.moves.get k = none ∧
        s.EntriesBy (giveUpSlot s.params.guard c.target) t ∧
        t.pool = { s.pool with
          records := s.pool.records.set c.index ⟨c.gen, some { a with state := .live, context := none }⟩ } ∧
        s.EventsBy (fun q =>
          eventIf ((s.ports.get q).attrs.notices && !bars.isEmpty) s.timing.frameCounter
              (.barDone bars.length (barDoneSet bars)) ++
            eventIf (decide (q = a.owner) || decide (c.requesterPort = some q)) m
              (.moveAbandoned h c.tagField c.target .timeout)) t ∧
        t.engine = { s.engine with waitReq := s.engine.waitReq || heldFreed s.map.entries.get c.target } ∧
        t.reports = { s.reports with watch := s.reports.watch ++ s.slotReportTo t ++ [.record h (some .live)] } ∧
        s.SameFrame t ∧ t.map.carry = s.map.carry

/-- A cutover at mark m, one context in use: the old set drains for GUARD, the target set takes role CURRENT and becomes the
record's set, the record is LIVE, a carry entry joins the list where the Slot Map has not latched m, and MOVE_DONE goes to the
owner and to another requester, stamped m; the watch report names the old set and the record report follows (R10, R20, R35, R116). That
CUTOVER takes the whole reaction is the model's choice (log 4, DEDUCED). -/
def Obligations.CutoverExchangesSets : Prop :=
  ∀ (s : State) (m : Word) (rest : List Word) (k : CtxIx) (c : MoveContext) (n : Nat) (o : Word) (a : Reservation),
    s.resetLow = false → s.timing.sync = .locked → s.marks.move = m :: rest → s.moves.get k = some c →
    (∀ j, j ≠ k → s.moves.get j = none) → c.stage = .overlap n o → o ≠ m → n ≤ 1 →
    s.pool.records.get c.index = ⟨c.gen, some a⟩ →
      let h : Handle := ⟨BitVec.ofNat 8 c.index.val, c.gen⟩
      ∃ t, exec (.cutover k) s = .next t ∧ t.moves.get k = none ∧
        s.EntriesBy (fun j e => match e with
          | .live i role b => if inSet a.set j then .draining s.params.guard b
            else if inSet c.target j then .live i .current b else .live i role b
          | e => e) t ∧
        t.map.carry = s.map.carry ++ (if s.map.imageMark = some m then [] else [⟨m, a.owner, a.set⟩]) ∧
        t.pool = { s.pool with
          records := s.pool.records.set c.index
            ⟨c.gen, some { a with state := .live, context := none, set := c.target }⟩ } ∧
        s.EventsBy (fun q => eventIf (decide (q = a.owner) || decide (c.requesterPort = some q)) m
          (.moveDone h c.tagField c.target)) t ∧
        (∀ q, t.ports.get q = { s.ports.get q with
          events := (t.ports.get q).events, lost := (t.ports.get q).lost }) ∧
        t.reports = { s.reports with watch := s.reports.watch ++ s.slotReportTo t ++ [.record h (some .live)] } ∧
        t.engine = s.engine ∧ s.SameFrame t ∧ t.waits = s.waits ∧ t.units = s.units ∧ t.params = s.params ∧
        t.marks = { s.marks with move := rest } ∧ t.resetLow = false

/-! ## Watch units -/

/-- SET_WATCH takes the unit it names, or the lowest FREE one for ANY, ARMED for the caller, with its condition evaluated
against the map and the records as they stand; nothing is posted for its first result. The reports handed before are taken
first (log 7). A unit of another port is answered NOT_OWNER, ANY with no FREE unit NO_ROOM (R162, R163, R164). -/
def Obligations.SetWatchDefinesUnit : Prop :=
  ∀ (p : Port) (tag : Byte) (a : SetWatchArgs) (scan : Option Scan) (s : State), s.Engaged p tag (.setWatch a) scan →
    let met (req : Required) (h : Handle) : Prop := ∃ i b, s.Names h i b ∧ (req = .present ∨ b.state ≠ .pending)
    let takes (k : UnitIx) : Prop := match a.unit with
      | none => s.units.get k = none ∧ ∀ j, j < k → s.units.get j ≠ none
      | some u => u = k ∧ ∀ w, s.units.get k = some w → w.owner = p
    (∀ k, takes k → ∃ t u, exec .setWatch s = .next t ∧ t.units = s.takeAllReports.units.set k (some u) ∧
        u.owner = p ∧ u.armed = true ∧ u.edge = a.edge ∧ u.targets = a.targets ∧ u.mode = a.mode ∧
        u.last = u.cond.result ∧
        (match a.spec with
          | .freeCount lo hi threshold => u.cond = .freeCount lo hi threshold ((List.finRange 512).countP fun j =>
              decide (lo ≤ j.val) && decide (j.val ≤ hi) && decide (s.map.entries.get j = .free))
          | .resState req comb hs => ∃ ms, u.cond = .resState req comb ms ∧ ms.map Member.handle = hs ∧
              ∀ x ∈ ms, x.met = true ↔ met req x.handle) ∧
        s.HasAnswer p tag .ok [BitVec.ofNat 8 k.val, if u.last then 1#8 else 0#8] t ∧
        s.takeAllReports.EventsBy (fun _ => []) t ∧ t.reports = { s.reports with watch := [] } ∧
        (∀ q, t.ports.get q = { s.ports.get q with
          queue := (t.ports.get q).queue
          stored := (t.ports.get q).stored
          events := (t.ports.get q).events
          lost := (t.ports.get q).lost }) ∧
        (∀ q, q ≠ p → (t.ports.get q).queue = (s.ports.get q).queue ∧
          (t.ports.get q).stored = (s.ports.get q).stored) ∧
        t.map = s.map ∧ t.pool = s.pool ∧ t.engine = { s.engine with work := .idle } ∧ t.waits = s.waits ∧
        t.timing = s.timing ∧ t.marks = s.marks ∧ t.moves = s.moves ∧ t.params = s.params) ∧
      (a.unit = none → (∀ k, s.units.get k ≠ none) → exec .setWatch s = .next (s.answered p tag .noRoom [])) ∧
      ∀ k w, a.unit = some k → s.units.get k = some w → w.owner ≠ p →
        exec .setWatch s = .next (s.answered p tag .notOwner [])

/-- CLEAR_WATCH frees a unit of the caller; REARM_WATCH arms a HELD unit of the caller and leaves its fields. A FREE unit is
answered WRONG_STATE, another port's NOT_OWNER, and an ARMED unit's rearm WRONG_STATE (R168, R169). -/
def Obligations.ClearAndRearmWatch : Prop :=
  ∀ (p : Port) (tag : Byte) (k : UnitIx) (scan : Option Scan) (s : State),
    let body (w : WatchUnit) : List Byte := [BitVec.ofNat 8 k.val, if w.last then 1#8 else 0#8]
    let refusal (st : Status) := Host.Outcome.next (φ := Fault) (ρ := Refusal) (s.answered p tag st [])
    let outcome (w : WatchUnit) (u : Option WatchUnit) := Host.Outcome.next (φ := Fault) (ρ := Refusal)
      { s.answered p tag .ok (body w) with units := s.units.set k u }
    (s.Engaged p tag (.clearWatch k) scan →
      (s.units.get k = none → exec .clearWatch s = refusal .wrongState) ∧
      ∀ w, s.units.get k = some w →
        (w.owner ≠ p → exec .clearWatch s = refusal .notOwner) ∧
        (w.owner = p → exec .clearWatch s = outcome w none)) ∧
    (s.Engaged p tag (.rearmWatch k) scan →
      (s.units.get k = none → exec .rearmWatch s = refusal .wrongState) ∧
      ∀ w, s.units.get k = some w →
        (w.owner ≠ p → exec .rearmWatch s = refusal .notOwner) ∧
        (w.owner = p → w.armed = true → exec .rearmWatch s = refusal .wrongState) ∧
        (w.owner = p → w.armed = false → exec .rearmWatch s = outcome w (some { w with armed := true })))

/-- The Watch Units take a report, every unit in ascending order. A watch report evaluates each FREE_COUNT unit whose window
holds a reported slot, its count raised and lowered by the reported slots that entered and left FREE (R165); a record report
evaluates each RES_STATE unit with a member naming the handle, its met marks set from the state reported (R163, R166). A change
that the edge selects, of an ARMED unit, posts WATCH to its targets and makes a ONE_SHOT unit HELD (R167). -/
def Obligations.ReportsJudgeUnits : Prop :=
  (∀ (s : State) (ch : List SlotChange) (rest : List Report), s.resetLow = false →
    s.reports.watch = .slots ch :: rest →
      let evaluated (u : WatchUnit) : Option WatchCond := match u.cond with
        | .freeCount lo hi threshold count =>
          let mine := ch.filter fun x => decide (lo ≤ x.slot) && decide (x.slot ≤ hi)
          if mine.isEmpty then none
          else some (.freeCount lo hi threshold
            (count + mine.countP (fun x => decide (x.after = .free) && decide (x.before ≠ .free)) -
              mine.countP (fun x => decide (x.before = .free) && decide (x.after ≠ .free))))
        | .resState _ _ _ => none
      ∃ t, exec .watchReport s = .next t ∧
        (∀ k, t.units.get k = (s.units.get k).map fun u => (evaluated u).elim u fun c => u.judged c) ∧
        s.EventsBy (fun q => (List.finRange 8).flatMap fun k => (s.units.get k).elim [] fun u =>
          (evaluated u).elim [] fun c => u.eventsAt k q s.timing.frameCounter c) t ∧
        t = { s with units := t.units, ports := t.ports, reports := { s.reports with watch := rest } }) ∧
  ∀ (s : State) (h : Handle) (st : Option ResState) (rest : List Report), s.resetLow = false →
    s.reports.watch = .record h st :: rest →
      let admits (req : Required) : Bool := match req with
        | .present => st.isSome
        | .live => decide (st = some .live) || decide (st = some .moving)
      let evaluated (u : WatchUnit) : Option WatchCond := match u.cond with
        | .freeCount _ _ _ _ => none
        | .resState req comb ms =>
          if ms.all fun x => decide (x.handle ≠ h) then none
          else some (.resState req comb (ms.map fun x => if x.handle = h then ⟨x.handle, admits req⟩ else x))
      ∃ t, exec .recordReport s = .next t ∧
        (∀ k, t.units.get k = (s.units.get k).map fun u => (evaluated u).elim u fun c => u.judged c) ∧
        s.EventsBy (fun q => (List.finRange 8).flatMap fun k => (s.units.get k).elim [] fun u =>
          (evaluated u).elim [] fun c => u.eventsAt k q s.timing.frameCounter c) t ∧
        t = { s with units := t.units, ports := t.ports, reports := { s.reports with watch := rest } }

/-! ## Configuration and port reset -/

/-- SET_PARAM sets the one parameter it names and answers with the old and the new value; READ_PARAMS answers with the whole
Configuration block; SET_PORT sets all attributes of the port it names and sets the wait-pass request exactly where a quota is
raised. Nothing else changes (R179, R181, R182, R183). -/
def Obligations.ConfigurationCommands : Prop :=
  (∀ (p : Port) (tag : Byte) (name : ParamName) (id : Byte) (v : Nat) (scan : Option Scan) (s : State), name.Ranges id v →
    s.Engaged p tag (.setParam name v) scan →
      let change : Nat × Params := match name with
        | .guard => (s.params.guard, { s.params with guard := v })
        | .overlap => (s.params.overlap, { s.params with overlap := v })
        | .confirmWindow => (s.params.confirmWindow, { s.params with confirmWindow := v })
        | .leaseWarn => (s.params.leaseWarn, { s.params with leaseWarn := v })
        | .poolLow => (s.params.poolLow, { s.params with poolLow := v })
        | .poolFloor => (s.params.poolFloor, { s.params with poolFloor := v })
        | .waitPolicy => (if s.params.waitPolicy = .strict then 0 else 1,
            { s.params with waitPolicy := if v = 0 then .strict else .fit })
        | .syncWindow => (s.params.syncWindow, { s.params with syncWindow := v })
      exec .setParam s = .next { s.answered p tag .ok (id :: be16 change.1 ++ be16 v) with params := change.2 }) ∧
  (∀ (p : Port) (tag : Byte) (scan : Option Scan) (s : State), s.Engaged p tag .readParams scan →
    let c := s.params
    let block (q : Port) : List Byte :=
      let o := s.ports.get q
      [if o.admin then 1#8 else 0#8] ++ be16 o.attrs.slotQuota ++ [BitVec.ofNat 8 o.attrs.recordQuota,
        if o.attrs.policy = .retain then 1#8 else 0#8,
        BitVec.ofNat 8 ((if o.attrs.urgent then 4 else 0) + (if o.attrs.unleased then 2 else 0) +
          (if o.attrs.notices then 1 else 0))]
    exec .readParams s = .next (s.answered p tag .ok
      ([BitVec.ofNat 8 c.guard, BitVec.ofNat 8 c.overlap] ++ be16 c.confirmWindow ++ be16 c.leaseWarn ++
        [BitVec.ofNat 8 c.poolLow, BitVec.ofNat 8 c.poolFloor, if c.waitPolicy = .fit then 1#8 else 0#8] ++
        be16 c.syncWindow ++ block 0 ++ block 1 ++ block 2 ++ block 3 ++ block 4 ++ block 5))) ∧
  ∀ (p q : Port) (tag : Byte) (attrs : Attributes) (scan : Option Scan) (s : State),
    s.Engaged p tag (.setPort q attrs) scan →
      let old := (s.ports.get q).attrs
      let raised := decide (old.slotQuota < attrs.slotQuota) || decide (old.recordQuota < attrs.recordQuota)
      let flags := (if attrs.urgent then 4 else 0) + (if attrs.unleased then 2 else 0) + (if attrs.notices then 1 else 0)
      let t := (s.modPort q fun c => { c with attrs := attrs }).answered p tag .ok
        (BitVec.ofNat 8 q.val :: be16 attrs.slotQuota ++ [BitVec.ofNat 8 attrs.recordQuota,
          if attrs.policy = .retain then 1#8 else 0#8, BitVec.ofNat 8 flags])
      exec .setPort s = .next { t with
        engine := { s.engine with work := .idle, waitReq := s.engine.waitReq || raised } }

/-- RESET_PORT and SELF_RESET make the port reset: queues, tags, events, entries and units cleared, requesters dropped, records
released or kept by the policy. The caller of RESET_PORT for another port is answered in its reserved place; a port that resets
itself finds the one response in its queue, its tag the one tag in flight (R145, R185, R186, R187, R188). -/
def Obligations.PortResetMade : Prop :=
  (∀ (p q : Port) (tag : Byte) (scan : Option Scan) (s : State), s.Engaged p tag (.resetPort q) scan → s.MovesAgree →
    let body := [BitVec.ofNat 8 q.val, (s.ports.get q).attrs.policy.code] ++ s.CountsOfReset q
    ∃ t, exec .resetPort s = .next t ∧ s.ResetBy q t ∧ t.engine.work = .idle ∧
      t.engine.rrPos = s.engine.rrPos ∧ t.engine.rover = s.engine.rover ∧
      (p ≠ q → s.HasAnswer p tag .ok body t ∧ (t.ports.get q).stored = [] ∧ (t.ports.get q).inFlight = []) ∧
      (p = q → (t.ports.get q).stored = [⟨tag, .ok, body, true⟩] ∧ (t.ports.get q).inFlight = [tag]) ∧
      ∀ o, o ≠ p → o ≠ q → t.ports.get o = { s.ports.get o with
        events := (t.ports.get o).events, lost := (t.ports.get o).lost }) ∧
  ∀ (p : Port) (q : QueuedCommand) (rest : List QueuedCommand) (s : State), s.resetLow = false → s.MovesAgree →
    (s.ports.get p).queue = q :: rest → q.code = 0x22#8 →
      (q.body ≠ [] → exec (.selfReset p) s = .next (s.modPort p fun c =>
        { c with queue := rest, stored := c.stored ++ [⟨q.tag, .badArgument, [], true⟩] })) ∧
      (q.body = [] → ∃ t, exec (.selfReset p) s = .next t ∧ s.ResetBy p t ∧
        (t.ports.get p).stored = [⟨q.tag, .ok, (s.ports.get p).attrs.policy.code :: s.CountsOfReset p, true⟩] ∧
        (t.ports.get p).inFlight = [q.tag] ∧ s.OthersBut p t ∧ t.engine.rrPos = s.engine.rrPos ∧
        t.engine.rover = s.engine.rover ∧
        ∀ c, s.engine.work = .command c →
          t.engine.work = .command (if c.port = p then { c with withdrawn := true } else c))

/-- What a port reset tells the rest of the part, by RESET_PORT and by SELF_RESET alike: nothing is posted to the reset port; the other
ports receive, record by record in ascending order, BAR_DONE, MOVE_ABANDONED with reason RELEASED under RECLAIM or OWNER_RESET under
RETAIN, and POOL_RECOVERED at most once; the Watch Units are handed each give-up's watch report and record report; under RECLAIM the
holdings fall by the port's records; the wait-pass request is set where an entry left, a record was freed or a slot went FREE
(R20, R32, R43, R83, R118, R120, R188). BAR_DONE before MOVE_ABANDONED is the model's choice (log 8, DEDUCED). -/
def Obligations.PortResetTellsOthers : Prop :=
  (∀ (p q : Port) (tag : Byte) (scan : Option Scan) (s : State), s.Engaged p tag (.resetPort q) scan → s.MovesAgree →
    ∃ t, exec .resetPort s = .next t ∧ s.ResetTells q t ∧ (t.ports.get q).events = [] ∧ (t.ports.get q).lost = 0) ∧
  ∀ (p : Port) (q : QueuedCommand) (rest : List QueuedCommand) (s : State), s.resetLow = false → s.MovesAgree →
    (s.ports.get p).queue = q :: rest → q.code = 0x22#8 → q.body = [] →
      ∃ t, exec (.selfReset p) s = .next t ∧ s.ResetTells p t ∧ (t.ports.get p).events = [] ∧ (t.ports.get p).lost = 0

/-! ## Events -/

/-- A posting joins the tail of a queue that holds fewer than sixteen events; at a full queue the record is discarded and the
lost count rises by one, stopping at 255. An event posted to several ports is posted to each by the state of its own queue.
Nothing else changes, whatever becomes of the record (R151). -/
def Obligations.PostingJoinsOrIsLost : Prop :=
  ∀ (stamp : Word) (body : EventBody) (s : State),
    let joined (c : ClientPort) : ClientPort :=
      if c.events.length < 16 then { c with events := c.events ++ [⟨stamp, body⟩] }
      else { c with lost := min 255 (c.lost + 1) }
    (∀ p, s.post none stamp body p = { s with ports := s.ports.modify p joined }) ∧
      (∀ ps : List Port, ps.Nodup → ∃ ports, s.postEach none stamp body ps = { s with ports := ports } ∧
        ∀ q, ports.get q = if q ∈ ps then joined (s.ports.get q) else s.ports.get q) ∧
      ∃ ports, s.postNotices none stamp body = { s with ports := ports } ∧
        ∀ q, ports.get q = if (s.ports.get q).attrs.notices then joined (s.ports.get q) else s.ports.get q

/-! ## Port-local commands -/

/-- FETCH_EVENTS takes the oldest events up to the max count of 1 to 16, reads the lost count and clears it; any other body is
answered BAD_ARGUMENT and takes nothing (R154, R192). READ_STATUS answers with the 29 bytes of Table 11-12 as they stand; ECHO with the
bytes of its body; neither changes anything else. READ_STATUS with a body is answered BAD_ARGUMENT (R139, R140). -/
def Obligations.PortLocalCommandsAnswer : Prop :=
  (∀ (p : Port) (q : QueuedCommand) (rest : List QueuedCommand) (s : State), s.resetLow = false →
    (s.ports.get p).queue = q :: rest → q.code = 0x20#8 →
      (∀ n : Byte, q.body = [n] → 1 ≤ n.toNat → n.toNat ≤ 16 →
        exec (.fetchEvents p) s = .next (s.modPort p fun c =>
          let taken := c.events.take n.toNat
          let answer : Response := ⟨q.tag, .ok,
            BitVec.ofNat 8 c.lost :: BitVec.ofNat 8 taken.length :: taken.flatMap Event.bytes, true⟩
          { c with
            queue := rest
            stored := c.stored ++ [answer]
            events := c.events.drop n.toNat
            lost := 0 })) ∧
      ((∀ n : Byte, q.body = [n] → n.toNat = 0 ∨ 16 < n.toNat) →
        exec (.fetchEvents p) s = .next (s.modPort p fun c =>
          { c with queue := rest, stored := c.stored ++ [⟨q.tag, .badArgument, [], true⟩] }))) ∧
  ∀ (p : Port) (q : QueuedCommand) (rest : List QueuedCommand) (s : State), s.resetLow = false →
    (s.ports.get p).queue = q :: rest →
      let c := s.ports.get p
      let outcome (st : Status) (body : List Byte) := Host.Outcome.next (φ := Fault) (ρ := Refusal)
        (s.modPort p fun c => { c with queue := rest, stored := c.stored ++ [⟨q.tag, st, body, true⟩] })
      (q.code = 0x23#8 → exec (.echo p) s = outcome .ok q.body) ∧
      (q.code = 0x21#8 → q.body ≠ [] → exec (.readStatus p) s = outcome .badArgument []) ∧
      (q.code = 0x21#8 → q.body = [] → exec (.readStatus p) s = outcome .ok
        ([s.timing.sync.code] ++ be16 s.timing.frameCounter.toNat ++ be16 s.map.freeCount ++ be16 s.map.barredCount ++
          be16 s.map.drainingCount ++
          [BitVec.ofNat 8 s.pool.fifo.length, BitVec.ofNat 8 s.waits.entries.length,
            BitVec.ofNat 8 ((List.finRange 4).countP fun k => decide (s.moves.get k ≠ none))] ++
          be16 s.timing.errorCount ++ be16 c.ownedSlots ++ [BitVec.ofNat 8 c.ownedRecords] ++ be16 c.promised ++
          [BitVec.ofNat 8 c.dropped] ++ be16 c.faultCount ++ [BitVec.ofNat 8 c.lost, if c.admin then 1#8 else 0#8] ++
          be16 c.attrs.slotQuota ++ [BitVec.ofNat 8 c.attrs.recordQuota,
            if c.attrs.policy = .retain then 1#8 else 0#8,
            BitVec.ofNat 8 ((if c.attrs.urgent then 4 else 0) + (if c.attrs.unleased then 2 else 0) +
              (if c.attrs.notices then 1 else 0))]))

/-! ## Frame timing -/

/-- A frame start is accepted as the next mark: numbered one above the last, handed to the four blocks, the edge count cleared,
the timer started with three times SYNC_WINDOW; in LOCKED the ended frame is judged by its edge count, in SEARCHING and LOST the
unit locks and posts SYNC_LOCKED to the notice ports. The running out of the timer in LOCKED gives LOST and SYNC_LOST
(R86, R87, R88, R89, R92). The k-th SLOTCLK edge after a mark, in LOCKED or LOST, begins slot k - 1 and drives the owner that the image
names for it; from the 513th on the index is beyond 511, the count stays at 513 and the lines name no port (R91, R93, R94). In SEARCHING
an edge changes nothing (R91). This where nothing is due of the last mark. Where reactions or promotion reports are still due, a frame
start and the timer's running out take them first, in a fixed order, and a slot edge takes the Slot Map's reaction first: the model's
choice (log 11, DEDUCED), by which slot 0 of a frame is driven from the image latched for its mark (R90). -/
def Obligations.FrameTimingRuns : Prop :=
  ∀ s : State, s.resetLow = false →
    let m := s.timing.lastMark + 1#16
    let nothingDue := s.marks = ⟨[], [], [], []⟩ ∧ s.reports.pool = [] ∧ s.reports.move = []
    let reactions := [Instr.slotMapFrameReaction, .promotionReportPool, .promotionReportMove, .leaseCounterReaction,
      .moveUnitFrameReaction, .waitListFrameReaction]
    (nothingDue → ∃ t, exec .frameStart s = .next t ∧
      t.timing = { s.timing with
        sync := .locked
        lastMark := m
        timer := some (3 * s.params.syncWindow)
        slotIndex := .none
        edgeCount := 0
        errorCount := if s.timing.sync = .locked ∧ s.timing.edgeCount ≠ 512 then min 65535 (s.timing.errorCount + 1)
          else s.timing.errorCount
        ownv := false
        own := 0#3 } ∧
      t.marks = ⟨[m], [m], [m], [m]⟩ ∧
      s.EventsBy (fun q => eventIf ((s.ports.get q).attrs.notices && decide (s.timing.sync ≠ .locked)) m .syncLocked) t ∧
      (∀ q, t.ports.get q = { s.ports.get q with
        events := (t.ports.get q).events, lost := (t.ports.get q).lost }) ∧
      t = { s with timing := t.timing, marks := t.marks, ports := t.ports }) ∧
    (nothingDue → s.timing.sync = .locked → s.timing.timer ≠ none →
      ∃ t, exec .syncWatchTimeout s = .next t ∧ t.timing = { s.timing with sync := .lost, timer := none } ∧
        s.EventsBy (fun q => eventIf (s.ports.get q).attrs.notices s.timing.frameCounter .syncLost) t ∧
        (∀ q, t.ports.get q = { s.ports.get q with
          events := (t.ports.get q).events, lost := (t.ports.get q).lost }) ∧
        t = { s with timing := t.timing, ports := t.ports }) ∧
    (s.MarksAgree → ∃ u, s.RunsTo reactions u ∧ u.marks = ⟨[], [], [], []⟩ ∧ u.reports.pool = [] ∧ u.reports.move = [] ∧
      exec .frameStart s = exec .frameStart u ∧
      (s.timing.sync = .locked → s.timing.timer ≠ none → exec .syncWatchTimeout s = exec .syncWatchTimeout u)) ∧
    (s.timing.sync = .searching → exec .slotEdge s = .next s) ∧
    (s.timing.sync ≠ .searching → s.marks.slotMap = [] →
      (∀ i : SlotIx, s.timing.edgeCount = i.val →
        exec .slotEdge s = .next { s with timing := { s.timing with
          edgeCount := i.val + 1
          slotIndex := .slot i
          ownv := (s.map.image.get i).isSome
          own := BitVec.ofNat 3 ((s.map.image.get i).elim 0 fun p => p.val) } }) ∧
      (512 ≤ s.timing.edgeCount →
        exec .slotEdge s = .next { s with timing := { s.timing with
          edgeCount := 513
          slotIndex := .beyond
          ownv := false
          own := 0#3 } })) ∧
    (s.timing.sync = .locked → s.MarksAgree →
      ∃ u, exec .slotMapFrameReaction s = .next u ∧ u.marks.slotMap = [] ∧ exec .slotEdge s = exec .slotEdge u)

/-- While the sync state is not LOCKED no block takes a reaction: each of the four reactions, and each row that names what comes about
inside one, leaves the part as it is (R18, R79, R101, R123). -/
def Obligations.NoReactionUnlessLocked : Prop :=
  ∀ s : State, s.timing.sync ≠ .locked →
    exec .slotMapFrameReaction s = .next s ∧ (∀ j, exec (.drainComplete j) s = .next s) ∧
      exec .leaseCounterReaction s = .next s ∧ (∀ i, exec (.leaseExpiry i) s = .next s) ∧
      exec .moveUnitFrameReaction s = .next s ∧ (∀ k, exec (.confirmTimeout k) s = .next s) ∧
      (∀ k, exec (.cutover k) s = .next s) ∧ exec .waitListFrameReaction s = .next s ∧
      ∀ ticket, exec (.waitExpiry ticket) s = .next s

/-- The Slot Map's reaction to mark m: armed HELD slots go LIVE; DRAINING counts fall by one but for carried slots, and at 0 the
slot goes FREE, or BARRED where a bar is pending; the new image names the carried port or the owner of a LIVE slot; the image
mark and the frame counter take m; a promotion report lists the promoted sets in ascending order; the wait-pass request is set
where a slot went FREE; BAR_DONE is posted where a bar completed; one watch report covers the reaction. DRAIN_COMPLETE names a slot
whose drain the mark ends (R12, R14, R15, R16, R17, R19, R20, R90); that it takes the whole reaction is the model's choice (log 4,
DEDUCED). The owner lines change at the slot edge that follows (R93). -/
def Obligations.SlotMapReaction : Prop :=
  ∀ (s : State) (m : Word) (rest : List Word), s.resetLow = false → s.timing.sync = .locked →
    s.marks.slotMap = m :: rest →
      let carried (j : Nat) : Option Port :=
        (s.map.carry.find? fun e => decide (e.mark = m) && inSet e.set j).map CarryEntry.port
      let ends (j : SlotIx) (bar : Bool) : Bool := match s.map.entries.get j with
        | .draining n b => decide (n ≤ 1) && decide (b = bar) && (carried j.val).isNone
        | _ => false
      let bars := ((List.finRange 512).filter fun j => ends j true).map Fin.val
      ∃ t, exec .slotMapFrameReaction s = .next t ∧
        (∀ j b, ends j b = true → exec (.drainComplete j) s = .next t) ∧
        (∀ j, t.map.entries.get j = match s.map.entries.get j with
          | .held i role armed b => if armed then .live i role b else .held i role armed b
          | .draining n b => if (carried j.val).isSome then .draining n b
            else if n ≤ 1 then (if b then .barred else .free) else .draining (n - 1) b
          | e => e) ∧
        (∀ j, t.map.image.get j = match carried j.val, t.map.entries.get j with
          | some p, _ => some p
          | none, .live i _ _ => (s.pool.records.get i).alloc.map Reservation.owner
          | none, _ => none) ∧
        t.map.imageMark = some m ∧ t.map.carry = s.map.carry.filter (fun e => e.mark ≠ m) ∧
        t.timing = { s.timing with frameCounter := m } ∧
        t.reports.watch = s.reports.watch ++ s.slotReportTo t ∧
        (∃ report : List (RecIx × Role), report.Nodup ∧
          report.Pairwise (fun x y => x.1.val ≤ y.1.val) ∧
          (∀ x, x ∈ report ↔ ∃ j b, s.map.entries.get j = .held x.1 x.2 true b) ∧
          t.reports.pool = s.reports.pool ++ (if report = [] then [] else [⟨m, report⟩]) ∧
          t.reports.move = s.reports.move ++ (if report = [] then [] else [⟨m, report⟩])) ∧
        t.engine = { s.engine with
          waitReq := s.engine.waitReq || (List.finRange 512).any fun j => ends j false } ∧
        s.EventsBy (fun q => eventIf ((s.ports.get q).attrs.notices && !bars.isEmpty) m
          (.barDone bars.length (barDoneSet bars))) t ∧
        (∀ q, t.ports.get q = { s.ports.get q with
          events := (t.ports.get q).events, lost := (t.ports.get q).lost }) ∧
        t.marks = { s.marks with slotMap := rest } ∧ t.pool = s.pool ∧ t.waits = s.waits ∧ t.moves = s.moves ∧
        t.units = s.units ∧ t.params = s.params ∧ t.resetLow = false

/-- The Record Pool takes a promotion report: each record it lists with role CURRENT that is PENDING with a grant frame other
than the report's goes LIVE, LIVE is posted to its owner stamped with the report's number, and no other record changes (R34). The Move
Unit takes a promotion report of mark m: each ARMED context whose record the report lists with role TARGET takes OVERLAP, with OVERLAP
frames remaining and start m, and MOVE_STARTED is posted to the owner, stamped m; the others stay (R114). -/
def Obligations.PromotionReportsTaken : Prop :=
  (∀ (s : State) (r : PromotionReport) (rest : List PromotionReport), s.resetLow = false →
    s.reports.pool = r :: rest → r.promoted.Nodup →
      let promotes (x : RecIx × Role) : Option (Reservation × Handle) :=
        if x.2 = .current then
          match (s.pool.records.get x.1).alloc with
          | some a => if a.state = .pending ∧ a.grantFrame ≠ r.mark
              then some (a, ⟨BitVec.ofNat 8 x.1.val, (s.pool.records.get x.1).gen⟩) else none
          | none => none
        else none
      ∃ t, exec .promotionReportPool s = .next t ∧
        (∀ i, t.pool.records.get i = match promotes (i, .current) with
          | some (a, _) => if (i, Role.current) ∈ r.promoted
              then ⟨(s.pool.records.get i).gen, some { a with state := .live }⟩ else s.pool.records.get i
          | none => s.pool.records.get i) ∧
        s.EventsBy (fun q => (r.promoted.filterMap promotes).flatMap fun (a, h) =>
          eventIf (decide (a.owner = q)) r.mark (.live h a.set)) t ∧
        (∀ q, t.ports.get q = { s.ports.get q with
          events := (t.ports.get q).events, lost := (t.ports.get q).lost }) ∧
        t.reports = ⟨rest, s.reports.move, s.reports.watch ++ (r.promoted.filterMap promotes).map fun (_, h) =>
          .record h (some .live)⟩ ∧
        t = { s with pool := { s.pool with records := t.pool.records }, ports := t.ports, reports := t.reports }) ∧
  ∀ (s : State) (r : PromotionReport) (rest : List PromotionReport), s.resetLow = false →
    s.reports.move = r :: rest → r.promoted.Nodup → s.MovesAgree →
      let starts (x : RecIx × Role) (k : CtxIx) : Option MoveContext :=
        (s.moves.get k).filter fun c => decide (c.stage = .armed) && decide (x = (c.index, Role.target))
      ∃ t, exec .promotionReportMove s = .next t ∧
        (∀ k, t.moves.get k = (s.moves.get k).map fun c =>
          if c.stage = .armed ∧ (c.index, Role.target) ∈ r.promoted
          then { c with stage := .overlap s.params.overlap r.mark } else c) ∧
        s.EventsBy (fun q => r.promoted.flatMap fun x => (List.finRange 4).flatMap fun k => (starts x k).elim [] fun c =>
          eventIf (decide ((s.pool.records.get c.index).alloc.map Reservation.owner = some q)) r.mark
            (.moveStarted ⟨BitVec.ofNat 8 c.index.val, c.gen⟩ c.tagField c.target)) t ∧
        (∀ q, t.ports.get q = { s.ports.get q with
          events := (t.ports.get q).events, lost := (t.ports.get q).lost }) ∧
        t = { s with moves := t.moves, ports := t.ports, reports := { s.reports with move := rest } }

/-- The Lease Counter's reaction to a mark: the remaining of every leased record falls by one, warned is set where it falls to
LEASE_WARN on a longer lease, and at 0 the record is freed with its generation advanced; unleased records stay (R95, R96, R97). With one
leased record: LEASE_LOW is posted to its owner, stamped with the mark, exactly where the remaining falls to LEASE_WARN on an unwarned
longer lease; at 0 the release procedure runs with cause EXPIRY: the sets given up, the record freed, EXPIRED posted, after LIVE where a
PENDING set was found LIVE and MOVE_ABANDONED to any requester, and the reports handed (R20, R36, R37, R96, R97, R118). That LEASE_EXPIRY
takes the whole reaction and that BAR_DONE comes before LIVE are the model's choices (log 4 and log 8, DEDUCED). -/
def Obligations.LeaseCounterReaction : Prop :=
  (∀ (s : State) (m : Word) (rest : List Word), s.resetLow = false → s.timing.sync = .locked →
    s.marks.lease = m :: rest →
      let warn := s.params.leaseWarn
      ∃ t, exec .leaseCounterReaction s = .next t ∧
        (∀ i a l, (s.pool.records.get i).alloc = some a → a.lease = some l → l.remaining ≤ 1 →
          exec (.leaseExpiry i) s = .next t) ∧
        (∀ i, (s.pool.records.get i).alloc.bind Reservation.lease = none →
          t.pool.records.get i = s.pool.records.get i) ∧
        (∀ i a l, (s.pool.records.get i).alloc = some a → a.lease = some l →
          t.pool.records.get i =
            if l.remaining ≤ 1 then ⟨(s.pool.records.get i).gen + 1#8, none⟩
            else
              let warned := l.warned || (decide (l.remaining - 1 = warn) && decide (warn ≠ 0) && decide (warn < l.length))
              ⟨(s.pool.records.get i).gen, some { a with lease := some ⟨l.length, l.remaining - 1, warned⟩ }⟩) ∧
        t.pool.fifo = s.pool.fifo ++ (List.finRange 192).filter (fun i =>
          ((s.pool.records.get i).alloc.bind Reservation.lease).any fun l => decide (l.remaining ≤ 1)) ∧
        (∀ j : SlotIx, (∀ i a l, (s.pool.records.get i).alloc = some a → a.lease = some l → l.remaining ≤ 1 →
          inSet (a.set ++ s.targetOf a) j.val = false) → t.map.entries.get j = s.map.entries.get j) ∧
        (∀ q, t.ports.get q = { s.ports.get q with
          events := (t.ports.get q).events
          lost := (t.ports.get q).lost
          ownedSlots := (t.ports.get q).ownedSlots
          ownedRecords := (t.ports.get q).ownedRecords }) ∧
        t.marks = { s.marks with lease := rest } ∧ s.SameFrame t ∧ t.map.carry = s.map.carry ∧
        t.engine = { s.engine with waitReq := t.engine.waitReq } ∧
        t.reports = { s.reports with watch := t.reports.watch } ∧ t.waits = s.waits ∧ t.units = s.units ∧
        t.params = s.params ∧ t.resetLow = false) ∧
  ∀ (s : State) (m : Word) (rest : List Word) (i : RecIx) (a : Reservation) (l : Lease), s.resetLow = false →
    s.timing.sync = .locked → s.marks.lease = m :: rest → (s.pool.records.get i).alloc = some a → a.lease = some l →
    (∀ j, j ≠ i → (s.pool.records.get j).alloc.bind Reservation.lease = none) →
      let h : Handle := ⟨BitVec.ofNat 8 i.val, (s.pool.records.get i).gen⟩
      let left := l.remaining - 1
      let now := s.timing.frameCounter
      let bars := heldBarred s.map.entries.get (a.set ++ s.targetOf a)
      let foundLive := decide (a.state = .pending) && (List.finRange 512).any fun j =>
        inSet a.set j.val && decide ((s.map.entries.get j).state = .live)
      let count := s.pool.fifo.length + 1
      let recovered := !s.pool.warnArmed && decide (min 192 (s.params.poolLow + 4) ≤ count)
      (1 < l.remaining →
        ∃ t, exec .leaseCounterReaction s = .next t ∧
          s.EventsBy (fun q => eventIf (decide (q = a.owner) && decide (left = s.params.leaseWarn) &&
            decide (s.params.leaseWarn < l.length) && !l.warned) m (.leaseLow h left)) t ∧
          t.map = s.map ∧ t.engine = s.engine ∧ t.moves = s.moves ∧ t.reports = s.reports) ∧
      (l.remaining ≤ 1 →
        ∃ t, exec (.leaseExpiry i) s = .next t ∧ s.EntriesBy (giveUpSlot s.params.guard (a.set ++ s.targetOf a)) t ∧
          t.pool.records.get i = ⟨(s.pool.records.get i).gen + 1#8, none⟩ ∧ t.pool.fifo = s.pool.fifo ++ [i] ∧
          t.engine = { s.engine with waitReq := true } ∧
          t.reports = { s.reports with watch := s.reports.watch ++ s.slotReportTo t ++ [.record h none] } ∧
          t.pool.warnArmed = (s.pool.warnArmed || recovered) ∧
          HoldingsFall a (s.ports.get a.owner) (t.ports.get a.owner) ∧
          s.EventsBy (fun q =>
            let notices := (s.ports.get q).attrs.notices
            eventIf (notices && !bars.isEmpty) now (.barDone bars.length (barDoneSet bars)) ++
              eventIf (foundLive && decide (q = a.owner)) now (.live h a.set) ++
              (match s.contextOf a with
                | some (_, c) => eventIf (decide (c.requesterPort = some q)) now
                    (.moveAbandoned h c.tagField c.target .released)
                | none => []) ++
              eventIf (decide (q = a.owner)) now (.expired h a.set) ++
              eventIf (notices && recovered) now (.poolRecovered count)) t)

/-! ## Searches -/

/-- What a search that reads its slots now finds. AT: its listed runs, exactly where every listed slot is FREE (R64). NEXT_FIT and LOW_FIT
scan the window, cut in two at the pointer where NEXT_FIT finds it inside (R61), and take the free stretches in scan order: CONTIGUOUS the
first n slots of the first stretch of n or more (R62), SPLIT the runs that R63 collects; none where that gives none. A set found is one
to four runs of 1 to 64 FREE slots inside the window, no two sharing a slot, n slots in all (R104). -/
def Obligations.SearchFindsSet : Prop :=
  ∀ (a : SearchArgs) (rover : Nat) (free : Nat → Bool), 1 ≤ a.n → rover ≤ 511 →
    placementValid a.shape a.place a.lo a.hi = true → a.fits = true →
      let result := (Scan.mk a rover []).finish free
      (∀ runs, a.place = .atRuns runs →
        ((∀ j, inSet runs j = true → free j = true) → result = some runs) ∧
        ((∃ j, inSet runs j = true ∧ free j = false) → result = none)) ∧
      ((∀ runs, a.place ≠ .atRuns runs) →
        let cut := decide (a.place = .nextFit) && decide (a.lo ≤ rover) && decide (rover ≤ a.hi)
        let from_ := if cut then rover else a.lo
        ∃ first second : List Run, Stretches free from_ (a.hi + 1 - from_) first ∧
          Stretches free a.lo (from_ - a.lo) second ∧
          match a.shape with
          | .contiguous => result = ((first ++ second).find? fun r => a.n ≤ r.len).map fun r => [⟨r.first, a.n⟩]
          | .split minRun maxRuns => SplitFrom minRun (first ++ second) a.n maxRuns result) ∧
      ∀ set, result = some set → setTotal set = a.n ∧ 1 ≤ set.length ∧ set.length ≤ 4 ∧ runsDisjoint set = true ∧
        (∀ r ∈ set, 1 ≤ r.len ∧ r.len ≤ 64 ∧ a.lo ≤ r.first ∧ r.first + r.len ≤ a.hi + 1) ∧
        (∀ j, inSet set j = true → free j = true)

/-! ## Properties of every command -/

/-- Freeing a record advances its generation by one; allocating it, and every other command, leaves its generation as it is,
power-on reset apart (R27, R45). -/
def Obligations.GenerationAdvancesAtFreeing : Prop :=
  ∀ (c : Instr) (s t : State), exec c s = .next t → c ≠ .powerOnReset → (∀ straps, c ≠ .resetRelease straps) →
    ∀ i, (t.pool.records.get i).gen = (s.pool.records.get i).gen ∧
          ((s.pool.records.get i).alloc.isSome = true → (t.pool.records.get i).alloc.isSome = true) ∨
        (t.pool.records.get i).gen = (s.pool.records.get i).gen + 1#8 ∧
          (s.pool.records.get i).alloc.isSome = true ∧ (t.pool.records.get i).alloc = none

/-- Every step keeps each of the three counts of the map equal to the number of entries in its state (R3). -/
def Obligations.CountsStayExact : Prop :=
  ∀ s t : State, s.CountsAgree → step s = .next t → t.CountsAgree

/-- Every step keeps the FIFO the list of the free records, each once, and each port's owned records the number of its records
(R28, R33). Where MOVING records and contexts also name each other, every step keeps each port's owned slots the sum of the current set
totals of its records, and every move's target at the total of the set it is to replace (R33, R66, R104, R106). -/
def Obligations.PoolStaysWhole : Prop :=
  (∀ s t : State, s.PoolAgrees → step s = .next t → t.PoolAgrees) ∧
    ∀ s t : State, s.PoolAgrees → s.MovesAgree → s.TotalsAgree → step s = .next t → t.TotalsAgree

/-- Every step keeps each port's command queue at four, its reserved and stored places at eight, its events at sixteen and its
counters at their limits (R133, R134, R142, R150). -/
def Obligations.PortsStayBounded : Prop :=
  ∀ s t : State, s.PortsBounded → step s = .next t → t.PortsBounded

/-- Every step keeps the engine's command at the head of its port's queue, unless it is withdrawn, and the in-flight tags those
of the unanswered commands and the stored answers, each once (R133, R135). -/
def Obligations.CommandsStayAccounted : Prop :=
  ∀ s t : State, s.CommandsAccounted → step s = .next t → t.CommandsAccounted

/-- Every step keeps the owner lines naming the port that the image in force names for the slot on the bus, and no port where no slot is
on the bus (R93, R94). That no slot begins before the Slot Map has latched the image of its frame is the model's choice (log 11, DEDUCED),
held by the premise that each step keeps (MarksStayCurrent). -/
def Obligations.OwnerLinesFollowImage : Prop :=
  ∀ s t : State, s.MarksAgree → s.LinesAgree → step s = .next t → t.LinesAgree

/-- Every step keeps marks, frame counter, image mark, promotion reports and carry list those of one frame: each block has at most the
last mark still to take, the frame counter is one behind the last mark exactly up to the Slot Map's latch, no slot begins before it, and
the carry list holds at most one entry for each context, for the last mark alone (R10, R89, R90). That what is due of a mark is taken
before the next mark is accepted is the model's choice (log 11, DEDUCED). -/
def Obligations.MarksStayCurrent : Prop :=
  ∀ s t : State, s.MarksAgree → step s = .next t → t.MarksAgree

/-- Every step keeps each slot HELD or LIVE with index i and role r exactly where the set of that role of the allocated record i holds it,
so that no slot is in two records or two sets; the slots of one set agree in state as the record's state and its move's stage say, and
what the engine has read as FREE is still FREE (R2, R4, R104). -/
def Obligations.SlotsStayWithRecords : Prop :=
  ∀ s t : State, s.PoolAgrees → s.MovesAgree → s.MarksAgree → s.SlotsAgree → step s = .next t → t.SlotsAgree

/-- Every step keeps the Wait List within its limits, its tickets distinct and the promised counts equal to the sums of the
entries' counts (R69, R71, R73). -/
def Obligations.WaitListStaysExact : Prop :=
  ∀ s t : State, s.WaitsAgree → step s = .next t → t.WaitsAgree

/-- Every step from a state whose pool is whole keeps MOVING records and contexts in use naming each other, so at most four
records are MOVING (R104). -/
def Obligations.MovesStayPaired : Prop :=
  ∀ s t : State, s.PoolAgrees → s.MovesAgree → step s = .next t → t.MovesAgree

end
end

