-- ==== Sys2Proof/Laws/State.lean ====
section
/-! SUPPORT. What each small update of the state does to each field, true by rfl. -/

namespace Sys2Proof.Machine

@[simp] theorem State.modPort_pending (p : Port) (f : ClientPort → ClientPort) (s : State) :
    (s.modPort p f).pending = s.pending := rfl

@[simp] theorem State.modPort_resetLow (p : Port) (f : ClientPort → ClientPort) (s : State) :
    (s.modPort p f).resetLow = s.resetLow := rfl

@[simp] theorem State.modPort_map (p : Port) (f : ClientPort → ClientPort) (s : State) :
    (s.modPort p f).map = s.map := rfl

@[simp] theorem State.modPort_pool (p : Port) (f : ClientPort → ClientPort) (s : State) :
    (s.modPort p f).pool = s.pool := rfl

@[simp] theorem State.modPort_engine (p : Port) (f : ClientPort → ClientPort) (s : State) :
    (s.modPort p f).engine = s.engine := rfl

@[simp] theorem State.modPort_waits (p : Port) (f : ClientPort → ClientPort) (s : State) :
    (s.modPort p f).waits = s.waits := rfl

@[simp] theorem State.modPort_timing (p : Port) (f : ClientPort → ClientPort) (s : State) :
    (s.modPort p f).timing = s.timing := rfl

@[simp] theorem State.modPort_marks (p : Port) (f : ClientPort → ClientPort) (s : State) :
    (s.modPort p f).marks = s.marks := rfl

@[simp] theorem State.modPort_moves (p : Port) (f : ClientPort → ClientPort) (s : State) :
    (s.modPort p f).moves = s.moves := rfl

@[simp] theorem State.modPort_ports (p : Port) (f : ClientPort → ClientPort) (s : State) :
    (s.modPort p f).ports = s.ports.modify p f := rfl

@[simp] theorem State.modPort_units (p : Port) (f : ClientPort → ClientPort) (s : State) :
    (s.modPort p f).units = s.units := rfl

@[simp] theorem State.modPort_reports (p : Port) (f : ClientPort → ClientPort) (s : State) :
    (s.modPort p f).reports = s.reports := rfl

@[simp] theorem State.modPort_params (p : Port) (f : ClientPort → ClientPort) (s : State) :
    (s.modPort p f).params = s.params := rfl

@[simp] theorem State.requestPass_pending (s : State) :
    (s.requestPass).pending = s.pending := rfl

@[simp] theorem State.requestPass_resetLow (s : State) :
    (s.requestPass).resetLow = s.resetLow := rfl

@[simp] theorem State.requestPass_map (s : State) :
    (s.requestPass).map = s.map := rfl

@[simp] theorem State.requestPass_pool (s : State) :
    (s.requestPass).pool = s.pool := rfl

@[simp] theorem State.requestPass_engine (s : State) :
    (s.requestPass).engine = { s.engine with waitReq := true } := rfl

@[simp] theorem State.requestPass_waits (s : State) :
    (s.requestPass).waits = s.waits := rfl

@[simp] theorem State.requestPass_timing (s : State) :
    (s.requestPass).timing = s.timing := rfl

@[simp] theorem State.requestPass_marks (s : State) :
    (s.requestPass).marks = s.marks := rfl

@[simp] theorem State.requestPass_moves (s : State) :
    (s.requestPass).moves = s.moves := rfl

@[simp] theorem State.requestPass_ports (s : State) :
    (s.requestPass).ports = s.ports := rfl

@[simp] theorem State.requestPass_units (s : State) :
    (s.requestPass).units = s.units := rfl

@[simp] theorem State.requestPass_reports (s : State) :
    (s.requestPass).reports = s.reports := rfl

@[simp] theorem State.requestPass_params (s : State) :
    (s.requestPass).params = s.params := rfl

@[simp] theorem State.handReport_pending (r : Report) (s : State) :
    (s.handReport r).pending = s.pending := rfl

@[simp] theorem State.handReport_resetLow (r : Report) (s : State) :
    (s.handReport r).resetLow = s.resetLow := rfl

@[simp] theorem State.handReport_map (r : Report) (s : State) :
    (s.handReport r).map = s.map := rfl

@[simp] theorem State.handReport_pool (r : Report) (s : State) :
    (s.handReport r).pool = s.pool := rfl

@[simp] theorem State.handReport_engine (r : Report) (s : State) :
    (s.handReport r).engine = s.engine := rfl

@[simp] theorem State.handReport_waits (r : Report) (s : State) :
    (s.handReport r).waits = s.waits := rfl

@[simp] theorem State.handReport_timing (r : Report) (s : State) :
    (s.handReport r).timing = s.timing := rfl

@[simp] theorem State.handReport_marks (r : Report) (s : State) :
    (s.handReport r).marks = s.marks := rfl

@[simp] theorem State.handReport_moves (r : Report) (s : State) :
    (s.handReport r).moves = s.moves := rfl

@[simp] theorem State.handReport_ports (r : Report) (s : State) :
    (s.handReport r).ports = s.ports := rfl

@[simp] theorem State.handReport_units (r : Report) (s : State) :
    (s.handReport r).units = s.units := rfl

@[simp] theorem State.handReport_reports (r : Report) (s : State) :
    (s.handReport r).reports = { s.reports with watch := s.reports.watch ++ [r] } := rfl

@[simp] theorem State.handReport_params (r : Report) (s : State) :
    (s.handReport r).params = s.params := rfl

@[simp] theorem State.modReservation_pending (i : RecIx) (f : Reservation → Reservation) (s : State) :
    (s.modReservation i f).pending = s.pending := rfl

@[simp] theorem State.modReservation_resetLow (i : RecIx) (f : Reservation → Reservation) (s : State) :
    (s.modReservation i f).resetLow = s.resetLow := rfl

@[simp] theorem State.modReservation_map (i : RecIx) (f : Reservation → Reservation) (s : State) :
    (s.modReservation i f).map = s.map := rfl

@[simp] theorem State.modReservation_pool (i : RecIx) (f : Reservation → Reservation) (s : State) :
    (s.modReservation i f).pool = { s.pool with records := s.pool.records.modify i fun r => { r with alloc := r.alloc.map f } } := rfl

@[simp] theorem State.modReservation_engine (i : RecIx) (f : Reservation → Reservation) (s : State) :
    (s.modReservation i f).engine = s.engine := rfl

@[simp] theorem State.modReservation_waits (i : RecIx) (f : Reservation → Reservation) (s : State) :
    (s.modReservation i f).waits = s.waits := rfl

@[simp] theorem State.modReservation_timing (i : RecIx) (f : Reservation → Reservation) (s : State) :
    (s.modReservation i f).timing = s.timing := rfl

@[simp] theorem State.modReservation_marks (i : RecIx) (f : Reservation → Reservation) (s : State) :
    (s.modReservation i f).marks = s.marks := rfl

@[simp] theorem State.modReservation_moves (i : RecIx) (f : Reservation → Reservation) (s : State) :
    (s.modReservation i f).moves = s.moves := rfl

@[simp] theorem State.modReservation_ports (i : RecIx) (f : Reservation → Reservation) (s : State) :
    (s.modReservation i f).ports = s.ports := rfl

@[simp] theorem State.modReservation_units (i : RecIx) (f : Reservation → Reservation) (s : State) :
    (s.modReservation i f).units = s.units := rfl

@[simp] theorem State.modReservation_reports (i : RecIx) (f : Reservation → Reservation) (s : State) :
    (s.modReservation i f).reports = s.reports := rfl

@[simp] theorem State.modReservation_params (i : RecIx) (f : Reservation → Reservation) (s : State) :
    (s.modReservation i f).params = s.params := rfl

@[simp] theorem State.setMove_pending (k : CtxIx) (c : Option MoveContext) (s : State) :
    (s.setMove k c).pending = s.pending := rfl

@[simp] theorem State.setMove_resetLow (k : CtxIx) (c : Option MoveContext) (s : State) :
    (s.setMove k c).resetLow = s.resetLow := rfl

@[simp] theorem State.setMove_map (k : CtxIx) (c : Option MoveContext) (s : State) :
    (s.setMove k c).map = s.map := rfl

@[simp] theorem State.setMove_pool (k : CtxIx) (c : Option MoveContext) (s : State) :
    (s.setMove k c).pool = s.pool := rfl

@[simp] theorem State.setMove_engine (k : CtxIx) (c : Option MoveContext) (s : State) :
    (s.setMove k c).engine = s.engine := rfl

@[simp] theorem State.setMove_waits (k : CtxIx) (c : Option MoveContext) (s : State) :
    (s.setMove k c).waits = s.waits := rfl

@[simp] theorem State.setMove_timing (k : CtxIx) (c : Option MoveContext) (s : State) :
    (s.setMove k c).timing = s.timing := rfl

@[simp] theorem State.setMove_marks (k : CtxIx) (c : Option MoveContext) (s : State) :
    (s.setMove k c).marks = s.marks := rfl

@[simp] theorem State.setMove_moves (k : CtxIx) (c : Option MoveContext) (s : State) :
    (s.setMove k c).moves = s.moves.set k c := rfl

@[simp] theorem State.setMove_ports (k : CtxIx) (c : Option MoveContext) (s : State) :
    (s.setMove k c).ports = s.ports := rfl

@[simp] theorem State.setMove_units (k : CtxIx) (c : Option MoveContext) (s : State) :
    (s.setMove k c).units = s.units := rfl

@[simp] theorem State.setMove_reports (k : CtxIx) (c : Option MoveContext) (s : State) :
    (s.setMove k c).reports = s.reports := rfl

@[simp] theorem State.setMove_params (k : CtxIx) (c : Option MoveContext) (s : State) :
    (s.setMove k c).params = s.params := rfl

@[simp] theorem State.setUnit_pending (k : UnitIx) (u : Option WatchUnit) (s : State) :
    (s.setUnit k u).pending = s.pending := rfl

@[simp] theorem State.setUnit_resetLow (k : UnitIx) (u : Option WatchUnit) (s : State) :
    (s.setUnit k u).resetLow = s.resetLow := rfl

@[simp] theorem State.setUnit_map (k : UnitIx) (u : Option WatchUnit) (s : State) :
    (s.setUnit k u).map = s.map := rfl

@[simp] theorem State.setUnit_pool (k : UnitIx) (u : Option WatchUnit) (s : State) :
    (s.setUnit k u).pool = s.pool := rfl

@[simp] theorem State.setUnit_engine (k : UnitIx) (u : Option WatchUnit) (s : State) :
    (s.setUnit k u).engine = s.engine := rfl

@[simp] theorem State.setUnit_waits (k : UnitIx) (u : Option WatchUnit) (s : State) :
    (s.setUnit k u).waits = s.waits := rfl

@[simp] theorem State.setUnit_timing (k : UnitIx) (u : Option WatchUnit) (s : State) :
    (s.setUnit k u).timing = s.timing := rfl

@[simp] theorem State.setUnit_marks (k : UnitIx) (u : Option WatchUnit) (s : State) :
    (s.setUnit k u).marks = s.marks := rfl

@[simp] theorem State.setUnit_moves (k : UnitIx) (u : Option WatchUnit) (s : State) :
    (s.setUnit k u).moves = s.moves := rfl

@[simp] theorem State.setUnit_ports (k : UnitIx) (u : Option WatchUnit) (s : State) :
    (s.setUnit k u).ports = s.ports := rfl

@[simp] theorem State.setUnit_units (k : UnitIx) (u : Option WatchUnit) (s : State) :
    (s.setUnit k u).units = s.units.set k u := rfl

@[simp] theorem State.setUnit_reports (k : UnitIx) (u : Option WatchUnit) (s : State) :
    (s.setUnit k u).reports = s.reports := rfl

@[simp] theorem State.setUnit_params (k : UnitIx) (u : Option WatchUnit) (s : State) :
    (s.setUnit k u).params = s.params := rfl

@[simp] theorem State.setWork_pending (w : Work) (s : State) :
    (s.setWork w).pending = s.pending := rfl

@[simp] theorem State.setWork_resetLow (w : Work) (s : State) :
    (s.setWork w).resetLow = s.resetLow := rfl

@[simp] theorem State.setWork_map (w : Work) (s : State) :
    (s.setWork w).map = s.map := rfl

@[simp] theorem State.setWork_pool (w : Work) (s : State) :
    (s.setWork w).pool = s.pool := rfl

@[simp] theorem State.setWork_engine (w : Work) (s : State) :
    (s.setWork w).engine = { s.engine with work := w } := rfl

@[simp] theorem State.setWork_waits (w : Work) (s : State) :
    (s.setWork w).waits = s.waits := rfl

@[simp] theorem State.setWork_timing (w : Work) (s : State) :
    (s.setWork w).timing = s.timing := rfl

@[simp] theorem State.setWork_marks (w : Work) (s : State) :
    (s.setWork w).marks = s.marks := rfl

@[simp] theorem State.setWork_moves (w : Work) (s : State) :
    (s.setWork w).moves = s.moves := rfl

@[simp] theorem State.setWork_ports (w : Work) (s : State) :
    (s.setWork w).ports = s.ports := rfl

@[simp] theorem State.setWork_units (w : Work) (s : State) :
    (s.setWork w).units = s.units := rfl

@[simp] theorem State.setWork_reports (w : Work) (s : State) :
    (s.setWork w).reports = s.reports := rfl

@[simp] theorem State.setWork_params (w : Work) (s : State) :
    (s.setWork w).params = s.params := rfl

@[simp] theorem State.moveRover_pending (pl : Placement) (set : List Run) (s : State) :
    (s.moveRover pl set).pending = s.pending := rfl

@[simp] theorem State.moveRover_resetLow (pl : Placement) (set : List Run) (s : State) :
    (s.moveRover pl set).resetLow = s.resetLow := rfl

@[simp] theorem State.moveRover_map (pl : Placement) (set : List Run) (s : State) :
    (s.moveRover pl set).map = s.map := rfl

@[simp] theorem State.moveRover_pool (pl : Placement) (set : List Run) (s : State) :
    (s.moveRover pl set).pool = s.pool := rfl

@[simp] theorem State.moveRover_engine (pl : Placement) (set : List Run) (s : State) :
    (s.moveRover pl set).engine = { s.engine with rover := roverMoved pl set s.engine.rover } := rfl

@[simp] theorem State.moveRover_waits (pl : Placement) (set : List Run) (s : State) :
    (s.moveRover pl set).waits = s.waits := rfl

@[simp] theorem State.moveRover_timing (pl : Placement) (set : List Run) (s : State) :
    (s.moveRover pl set).timing = s.timing := rfl

@[simp] theorem State.moveRover_marks (pl : Placement) (set : List Run) (s : State) :
    (s.moveRover pl set).marks = s.marks := rfl

@[simp] theorem State.moveRover_moves (pl : Placement) (set : List Run) (s : State) :
    (s.moveRover pl set).moves = s.moves := rfl

@[simp] theorem State.moveRover_ports (pl : Placement) (set : List Run) (s : State) :
    (s.moveRover pl set).ports = s.ports := rfl

@[simp] theorem State.moveRover_units (pl : Placement) (set : List Run) (s : State) :
    (s.moveRover pl set).units = s.units := rfl

@[simp] theorem State.moveRover_reports (pl : Placement) (set : List Run) (s : State) :
    (s.moveRover pl set).reports = s.reports := rfl

@[simp] theorem State.moveRover_params (pl : Placement) (set : List Run) (s : State) :
    (s.moveRover pl set).params = s.params := rfl

@[simp] theorem State.postNotices_pending (q : Option Port) (m : Word) (b : EventBody) (s : State) :
    (s.postNotices q m b).pending = s.pending := rfl

@[simp] theorem State.postNotices_resetLow (q : Option Port) (m : Word) (b : EventBody) (s : State) :
    (s.postNotices q m b).resetLow = s.resetLow := rfl

@[simp] theorem State.postNotices_map (q : Option Port) (m : Word) (b : EventBody) (s : State) :
    (s.postNotices q m b).map = s.map := rfl

@[simp] theorem State.postNotices_pool (q : Option Port) (m : Word) (b : EventBody) (s : State) :
    (s.postNotices q m b).pool = s.pool := rfl

@[simp] theorem State.postNotices_engine (q : Option Port) (m : Word) (b : EventBody) (s : State) :
    (s.postNotices q m b).engine = s.engine := rfl

@[simp] theorem State.postNotices_waits (q : Option Port) (m : Word) (b : EventBody) (s : State) :
    (s.postNotices q m b).waits = s.waits := rfl

@[simp] theorem State.postNotices_timing (q : Option Port) (m : Word) (b : EventBody) (s : State) :
    (s.postNotices q m b).timing = s.timing := rfl

@[simp] theorem State.postNotices_marks (q : Option Port) (m : Word) (b : EventBody) (s : State) :
    (s.postNotices q m b).marks = s.marks := rfl

@[simp] theorem State.postNotices_moves (q : Option Port) (m : Word) (b : EventBody) (s : State) :
    (s.postNotices q m b).moves = s.moves := rfl

@[simp] theorem State.postNotices_units (q : Option Port) (m : Word) (b : EventBody) (s : State) :
    (s.postNotices q m b).units = s.units := rfl

@[simp] theorem State.postNotices_reports (q : Option Port) (m : Word) (b : EventBody) (s : State) :
    (s.postNotices q m b).reports = s.reports := rfl

@[simp] theorem State.postNotices_params (q : Option Port) (m : Word) (b : EventBody) (s : State) :
    (s.postNotices q m b).params = s.params := rfl

@[simp] theorem State.answer_pending (p : Port) (tag : Byte) (st : Status) (b : List Byte) (s : State) :
    (s.answer p tag st b).pending = s.pending := rfl

@[simp] theorem State.answer_resetLow (p : Port) (tag : Byte) (st : Status) (b : List Byte) (s : State) :
    (s.answer p tag st b).resetLow = s.resetLow := rfl

@[simp] theorem State.answer_map (p : Port) (tag : Byte) (st : Status) (b : List Byte) (s : State) :
    (s.answer p tag st b).map = s.map := rfl

@[simp] theorem State.answer_pool (p : Port) (tag : Byte) (st : Status) (b : List Byte) (s : State) :
    (s.answer p tag st b).pool = s.pool := rfl

@[simp] theorem State.answer_engine (p : Port) (tag : Byte) (st : Status) (b : List Byte) (s : State) :
    (s.answer p tag st b).engine = s.engine := rfl

@[simp] theorem State.answer_waits (p : Port) (tag : Byte) (st : Status) (b : List Byte) (s : State) :
    (s.answer p tag st b).waits = s.waits := rfl

@[simp] theorem State.answer_timing (p : Port) (tag : Byte) (st : Status) (b : List Byte) (s : State) :
    (s.answer p tag st b).timing = s.timing := rfl

@[simp] theorem State.answer_marks (p : Port) (tag : Byte) (st : Status) (b : List Byte) (s : State) :
    (s.answer p tag st b).marks = s.marks := rfl

@[simp] theorem State.answer_moves (p : Port) (tag : Byte) (st : Status) (b : List Byte) (s : State) :
    (s.answer p tag st b).moves = s.moves := rfl

@[simp] theorem State.answer_ports (p : Port) (tag : Byte) (st : Status) (b : List Byte) (s : State) :
    (s.answer p tag st b).ports = s.ports.modify p (ClientPort.answer tag st b) := rfl

@[simp] theorem State.answer_units (p : Port) (tag : Byte) (st : Status) (b : List Byte) (s : State) :
    (s.answer p tag st b).units = s.units := rfl

@[simp] theorem State.answer_reports (p : Port) (tag : Byte) (st : Status) (b : List Byte) (s : State) :
    (s.answer p tag st b).reports = s.reports := rfl

@[simp] theorem State.answer_params (p : Port) (tag : Byte) (st : Status) (b : List Byte) (s : State) :
    (s.answer p tag st b).params = s.params := rfl

@[simp] theorem State.allocate_pending (i : RecIx) (rest : List RecIx) (p : Port) (cls : ResClass) (set : List Run) (l : Nat) (tk : Option Byte) (s : State) :
    (s.allocate i rest p cls set l tk).pending = s.pending := rfl

@[simp] theorem State.allocate_resetLow (i : RecIx) (rest : List RecIx) (p : Port) (cls : ResClass) (set : List Run) (l : Nat) (tk : Option Byte) (s : State) :
    (s.allocate i rest p cls set l tk).resetLow = s.resetLow := rfl

@[simp] theorem State.allocate_map (i : RecIx) (rest : List RecIx) (p : Port) (cls : ResClass) (set : List Run) (l : Nat) (tk : Option Byte) (s : State) :
    (s.allocate i rest p cls set l tk).map = s.map := rfl

@[simp] theorem State.allocate_engine (i : RecIx) (rest : List RecIx) (p : Port) (cls : ResClass) (set : List Run) (l : Nat) (tk : Option Byte) (s : State) :
    (s.allocate i rest p cls set l tk).engine = s.engine := rfl

@[simp] theorem State.allocate_waits (i : RecIx) (rest : List RecIx) (p : Port) (cls : ResClass) (set : List Run) (l : Nat) (tk : Option Byte) (s : State) :
    (s.allocate i rest p cls set l tk).waits = s.waits := rfl

@[simp] theorem State.allocate_timing (i : RecIx) (rest : List RecIx) (p : Port) (cls : ResClass) (set : List Run) (l : Nat) (tk : Option Byte) (s : State) :
    (s.allocate i rest p cls set l tk).timing = s.timing := rfl

@[simp] theorem State.allocate_marks (i : RecIx) (rest : List RecIx) (p : Port) (cls : ResClass) (set : List Run) (l : Nat) (tk : Option Byte) (s : State) :
    (s.allocate i rest p cls set l tk).marks = s.marks := rfl

@[simp] theorem State.allocate_moves (i : RecIx) (rest : List RecIx) (p : Port) (cls : ResClass) (set : List Run) (l : Nat) (tk : Option Byte) (s : State) :
    (s.allocate i rest p cls set l tk).moves = s.moves := rfl

@[simp] theorem State.allocate_units (i : RecIx) (rest : List RecIx) (p : Port) (cls : ResClass) (set : List Run) (l : Nat) (tk : Option Byte) (s : State) :
    (s.allocate i rest p cls set l tk).units = s.units := rfl

@[simp] theorem State.allocate_reports (i : RecIx) (rest : List RecIx) (p : Port) (cls : ResClass) (set : List Run) (l : Nat) (tk : Option Byte) (s : State) :
    (s.allocate i rest p cls set l tk).reports = s.reports := rfl

@[simp] theorem State.allocate_params (i : RecIx) (rest : List RecIx) (p : Port) (cls : ResClass) (set : List Run) (l : Nat) (tk : Option Byte) (s : State) :
    (s.allocate i rest p cls set l tk).params = s.params := rfl

@[simp] theorem State.freeRecord_pending (i : RecIx) (a : Reservation) (s : State) :
    (s.freeRecord i a).pending = s.pending := rfl

@[simp] theorem State.freeRecord_resetLow (i : RecIx) (a : Reservation) (s : State) :
    (s.freeRecord i a).resetLow = s.resetLow := rfl

@[simp] theorem State.freeRecord_map (i : RecIx) (a : Reservation) (s : State) :
    (s.freeRecord i a).map = s.map := rfl

@[simp] theorem State.freeRecord_pool (i : RecIx) (a : Reservation) (s : State) :
    (s.freeRecord i a).pool = { s.pool with records := s.pool.records.modify i (fun r => ⟨r.gen + 1#8, none⟩), fifo := s.pool.fifo ++ [i] } := rfl

@[simp] theorem State.freeRecord_engine (i : RecIx) (a : Reservation) (s : State) :
    (s.freeRecord i a).engine = s.engine := rfl

@[simp] theorem State.freeRecord_waits (i : RecIx) (a : Reservation) (s : State) :
    (s.freeRecord i a).waits = s.waits := rfl

@[simp] theorem State.freeRecord_timing (i : RecIx) (a : Reservation) (s : State) :
    (s.freeRecord i a).timing = s.timing := rfl

@[simp] theorem State.freeRecord_marks (i : RecIx) (a : Reservation) (s : State) :
    (s.freeRecord i a).marks = s.marks := rfl

@[simp] theorem State.freeRecord_moves (i : RecIx) (a : Reservation) (s : State) :
    (s.freeRecord i a).moves = s.moves := rfl

@[simp] theorem State.freeRecord_units (i : RecIx) (a : Reservation) (s : State) :
    (s.freeRecord i a).units = s.units := rfl

@[simp] theorem State.freeRecord_reports (i : RecIx) (a : Reservation) (s : State) :
    (s.freeRecord i a).reports = s.reports := rfl

@[simp] theorem State.freeRecord_params (i : RecIx) (a : Reservation) (s : State) :
    (s.freeRecord i a).params = s.params := rfl

@[simp] theorem State.removeEntry_pending (e : WaitEntry) (s : State) :
    (s.removeEntry e).pending = s.pending := rfl

@[simp] theorem State.removeEntry_resetLow (e : WaitEntry) (s : State) :
    (s.removeEntry e).resetLow = s.resetLow := rfl

@[simp] theorem State.removeEntry_map (e : WaitEntry) (s : State) :
    (s.removeEntry e).map = s.map := rfl

@[simp] theorem State.removeEntry_pool (e : WaitEntry) (s : State) :
    (s.removeEntry e).pool = s.pool := rfl

@[simp] theorem State.removeEntry_engine (e : WaitEntry) (s : State) :
    (s.removeEntry e).engine = { s.engine with waitReq := true } := rfl

@[simp] theorem State.removeEntry_waits (e : WaitEntry) (s : State) :
    (s.removeEntry e).waits = { s.waits with entries := s.waits.entries.filter fun x => x.ticket ≠ e.ticket } := rfl

@[simp] theorem State.removeEntry_timing (e : WaitEntry) (s : State) :
    (s.removeEntry e).timing = s.timing := rfl

@[simp] theorem State.removeEntry_marks (e : WaitEntry) (s : State) :
    (s.removeEntry e).marks = s.marks := rfl

@[simp] theorem State.removeEntry_moves (e : WaitEntry) (s : State) :
    (s.removeEntry e).moves = s.moves := rfl

@[simp] theorem State.removeEntry_ports (e : WaitEntry) (s : State) :
    (s.removeEntry e).ports = s.ports.modify e.port fun c => { c with promised := c.promised - e.search.n } := rfl

@[simp] theorem State.removeEntry_units (e : WaitEntry) (s : State) :
    (s.removeEntry e).units = s.units := rfl

@[simp] theorem State.removeEntry_reports (e : WaitEntry) (s : State) :
    (s.removeEntry e).reports = s.reports := rfl

@[simp] theorem State.removeEntry_params (e : WaitEntry) (s : State) :
    (s.removeEntry e).params = s.params := rfl

end Sys2Proof.Machine
end

