-- ==== Sys2Proof/Laws/Posts.lean ====
section
/-! SUPPORT. What a posting, a posting to the notice ports and a posting to a list of ports do to each field. -/

namespace Sys2Proof.Machine

/-! ## One queue -/

@[simp] theorem ClientPort.post_link (e : Event) (c : ClientPort) : (c.post e).link = c.link := by
  unfold ClientPort.post; split <;> rfl

@[simp] theorem ClientPort.post_queue (e : Event) (c : ClientPort) : (c.post e).queue = c.queue := by
  unfold ClientPort.post; split <;> rfl

@[simp] theorem ClientPort.post_stored (e : Event) (c : ClientPort) : (c.post e).stored = c.stored := by
  unfold ClientPort.post; split <;> rfl

@[simp] theorem ClientPort.post_inFlight (e : Event) (c : ClientPort) : (c.post e).inFlight = c.inFlight := by
  unfold ClientPort.post; split <;> rfl

@[simp] theorem ClientPort.post_faultCount (e : Event) (c : ClientPort) : (c.post e).faultCount = c.faultCount := by
  unfold ClientPort.post; split <;> rfl

@[simp] theorem ClientPort.post_lastFaulted (e : Event) (c : ClientPort) : (c.post e).lastFaulted = c.lastFaulted := by
  unfold ClientPort.post; split <;> rfl

@[simp] theorem ClientPort.post_dropped (e : Event) (c : ClientPort) : (c.post e).dropped = c.dropped := by
  unfold ClientPort.post; split <;> rfl

@[simp] theorem ClientPort.post_attrs (e : Event) (c : ClientPort) : (c.post e).attrs = c.attrs := by
  unfold ClientPort.post; split <;> rfl

@[simp] theorem ClientPort.post_admin (e : Event) (c : ClientPort) : (c.post e).admin = c.admin := by
  unfold ClientPort.post; split <;> rfl

@[simp] theorem ClientPort.post_ownedSlots (e : Event) (c : ClientPort) : (c.post e).ownedSlots = c.ownedSlots := by
  unfold ClientPort.post; split <;> rfl

@[simp] theorem ClientPort.post_ownedRecords (e : Event) (c : ClientPort) : (c.post e).ownedRecords = c.ownedRecords := by
  unfold ClientPort.post; split <;> rfl

@[simp] theorem ClientPort.post_promised (e : Event) (c : ClientPort) : (c.post e).promised = c.promised := by
  unfold ClientPort.post; split <;> rfl

/-- A posting changes the event queue and the lost count and nothing else. -/
theorem ClientPort.post_eq (e : Event) (c : ClientPort) :
    c.post e = { c with events := (c.post e).events, lost := (c.post e).lost } := by
  unfold ClientPort.post; split <;> rfl

/-- The events and the lost count after a posting read those before it and nothing else of the port. -/
theorem ClientPort.post_congr (e : Event) {c d : ClientPort} (he : c.events = d.events) (hl : c.lost = d.lost) :
    (c.post e).events = (d.post e).events ∧ (c.post e).lost = (d.post e).lost := by
  unfold ClientPort.post; rw [he, hl]; split <;> exact ⟨rfl, rfl⟩

/-! ## One port -/

theorem State.post_ports (mute : Option Port) (stamp : Word) (body : EventBody) (p q : Port) (s : State) :
    (s.post mute stamp body p).ports.get q =
      if p = q ∧ mute ≠ some p then (s.ports.get q).post ⟨stamp, body⟩ else s.ports.get q := by
  unfold State.post
  split
  · next h => simp [h]
  · next h => simp [h, Table.get_modify]

@[simp] theorem State.post_pending (mute : Option Port) (stamp : Word) (body : EventBody) (p : Port) (s : State) :
    (s.post mute stamp body p).pending = s.pending := by
  unfold State.post; split <;> rfl

@[simp] theorem State.post_resetLow (mute : Option Port) (stamp : Word) (body : EventBody) (p : Port) (s : State) :
    (s.post mute stamp body p).resetLow = s.resetLow := by
  unfold State.post; split <;> rfl

@[simp] theorem State.post_map (mute : Option Port) (stamp : Word) (body : EventBody) (p : Port) (s : State) :
    (s.post mute stamp body p).map = s.map := by
  unfold State.post; split <;> rfl

@[simp] theorem State.post_pool (mute : Option Port) (stamp : Word) (body : EventBody) (p : Port) (s : State) :
    (s.post mute stamp body p).pool = s.pool := by
  unfold State.post; split <;> rfl

@[simp] theorem State.post_engine (mute : Option Port) (stamp : Word) (body : EventBody) (p : Port) (s : State) :
    (s.post mute stamp body p).engine = s.engine := by
  unfold State.post; split <;> rfl

@[simp] theorem State.post_waits (mute : Option Port) (stamp : Word) (body : EventBody) (p : Port) (s : State) :
    (s.post mute stamp body p).waits = s.waits := by
  unfold State.post; split <;> rfl

@[simp] theorem State.post_timing (mute : Option Port) (stamp : Word) (body : EventBody) (p : Port) (s : State) :
    (s.post mute stamp body p).timing = s.timing := by
  unfold State.post; split <;> rfl

@[simp] theorem State.post_marks (mute : Option Port) (stamp : Word) (body : EventBody) (p : Port) (s : State) :
    (s.post mute stamp body p).marks = s.marks := by
  unfold State.post; split <;> rfl

@[simp] theorem State.post_moves (mute : Option Port) (stamp : Word) (body : EventBody) (p : Port) (s : State) :
    (s.post mute stamp body p).moves = s.moves := by
  unfold State.post; split <;> rfl

@[simp] theorem State.post_units (mute : Option Port) (stamp : Word) (body : EventBody) (p : Port) (s : State) :
    (s.post mute stamp body p).units = s.units := by
  unfold State.post; split <;> rfl

@[simp] theorem State.post_reports (mute : Option Port) (stamp : Word) (body : EventBody) (p : Port) (s : State) :
    (s.post mute stamp body p).reports = s.reports := by
  unfold State.post; split <;> rfl

@[simp] theorem State.post_params (mute : Option Port) (stamp : Word) (body : EventBody) (p : Port) (s : State) :
    (s.post mute stamp body p).params = s.params := by
  unfold State.post; split <;> rfl

/-! ## The notice ports -/

theorem State.postNotices_ports (mute : Option Port) (stamp : Word) (body : EventBody) (q : Port) (s : State) :
    (s.postNotices mute stamp body).ports.get q =
      if (s.ports.get q).attrs.notices = true ∧ mute ≠ some q then (s.ports.get q).post ⟨stamp, body⟩
      else s.ports.get q := by
  have h : (mute.all fun p => p.val != q.val) = true ↔ mute ≠ some q := by
    cases mute with
    | none => simp
    | some p => simp [Fin.ext_iff]
  unfold State.postNotices
  simp only [Table.get_map, Bool.and_eq_true, h]

/-! ## A list of ports, each once -/

@[simp] theorem State.postEach_pending (mute : Option Port) (stamp : Word) (body : EventBody) (ps : List Port) (s : State) :
    (s.postEach mute stamp body ps).pending = s.pending := by
  unfold State.postEach; induction ps generalizing s with
  | nil => rfl
  | cons p ps ih => simp [ih]

@[simp] theorem State.postEach_resetLow (mute : Option Port) (stamp : Word) (body : EventBody) (ps : List Port) (s : State) :
    (s.postEach mute stamp body ps).resetLow = s.resetLow := by
  unfold State.postEach; induction ps generalizing s with
  | nil => rfl
  | cons p ps ih => simp [ih]

@[simp] theorem State.postEach_map (mute : Option Port) (stamp : Word) (body : EventBody) (ps : List Port) (s : State) :
    (s.postEach mute stamp body ps).map = s.map := by
  unfold State.postEach; induction ps generalizing s with
  | nil => rfl
  | cons p ps ih => simp [ih]

@[simp] theorem State.postEach_pool (mute : Option Port) (stamp : Word) (body : EventBody) (ps : List Port) (s : State) :
    (s.postEach mute stamp body ps).pool = s.pool := by
  unfold State.postEach; induction ps generalizing s with
  | nil => rfl
  | cons p ps ih => simp [ih]

@[simp] theorem State.postEach_engine (mute : Option Port) (stamp : Word) (body : EventBody) (ps : List Port) (s : State) :
    (s.postEach mute stamp body ps).engine = s.engine := by
  unfold State.postEach; induction ps generalizing s with
  | nil => rfl
  | cons p ps ih => simp [ih]

@[simp] theorem State.postEach_waits (mute : Option Port) (stamp : Word) (body : EventBody) (ps : List Port) (s : State) :
    (s.postEach mute stamp body ps).waits = s.waits := by
  unfold State.postEach; induction ps generalizing s with
  | nil => rfl
  | cons p ps ih => simp [ih]

@[simp] theorem State.postEach_timing (mute : Option Port) (stamp : Word) (body : EventBody) (ps : List Port) (s : State) :
    (s.postEach mute stamp body ps).timing = s.timing := by
  unfold State.postEach; induction ps generalizing s with
  | nil => rfl
  | cons p ps ih => simp [ih]

@[simp] theorem State.postEach_marks (mute : Option Port) (stamp : Word) (body : EventBody) (ps : List Port) (s : State) :
    (s.postEach mute stamp body ps).marks = s.marks := by
  unfold State.postEach; induction ps generalizing s with
  | nil => rfl
  | cons p ps ih => simp [ih]

@[simp] theorem State.postEach_moves (mute : Option Port) (stamp : Word) (body : EventBody) (ps : List Port) (s : State) :
    (s.postEach mute stamp body ps).moves = s.moves := by
  unfold State.postEach; induction ps generalizing s with
  | nil => rfl
  | cons p ps ih => simp [ih]

@[simp] theorem State.postEach_units (mute : Option Port) (stamp : Word) (body : EventBody) (ps : List Port) (s : State) :
    (s.postEach mute stamp body ps).units = s.units := by
  unfold State.postEach; induction ps generalizing s with
  | nil => rfl
  | cons p ps ih => simp [ih]

@[simp] theorem State.postEach_reports (mute : Option Port) (stamp : Word) (body : EventBody) (ps : List Port) (s : State) :
    (s.postEach mute stamp body ps).reports = s.reports := by
  unfold State.postEach; induction ps generalizing s with
  | nil => rfl
  | cons p ps ih => simp [ih]

@[simp] theorem State.postEach_params (mute : Option Port) (stamp : Word) (body : EventBody) (ps : List Port) (s : State) :
    (s.postEach mute stamp body ps).params = s.params := by
  unfold State.postEach; induction ps generalizing s with
  | nil => rfl
  | cons p ps ih => simp [ih]

theorem State.postEach_ports (mute : Option Port) (stamp : Word) (body : EventBody) (ps : List Port) (q : Port)
    (s : State) (nodup : ps.Nodup) :
    (s.postEach mute stamp body ps).ports.get q =
      if q ∈ ps ∧ mute ≠ some q then (s.ports.get q).post ⟨stamp, body⟩ else s.ports.get q := by
  unfold State.postEach
  induction ps generalizing s with
  | nil => simp
  | cons p ps ih =>
    obtain ⟨hp, hps⟩ := List.nodup_cons.mp nodup
    simp only [List.foldl_cons]
    rw [ih _ hps, State.post_ports]
    by_cases h : p = q
    · subst h; simp [hp]
    · have h' : q ≠ p := fun e => h e.symm
      simp [h, h']

/-- A posting to a list of ports changes event queues and lost counts and nothing else of any port. -/
theorem State.postEach_others (mute : Option Port) (stamp : Word) (body : EventBody) (ps : List Port) (q : Port)
    (s : State) :
    (s.postEach mute stamp body ps).ports.get q = { s.ports.get q with
      events := ((s.postEach mute stamp body ps).ports.get q).events
      lost := ((s.postEach mute stamp body ps).ports.get q).lost } := by
  unfold State.postEach
  induction ps generalizing s with
  | nil => rfl
  | cons p ps ih =>
    simp only [List.foldl_cons]
    rw [ih]
    rw [State.post_ports]
    split
    · rw [ClientPort.post_eq]
    · rfl

end Sys2Proof.Machine
end

