-- ==== Sys2Proof/Laws/Claims.lean ====
section
/-! SUPPORT. What a claim on the Slot Map does: the entries, the counts, and the reports it hands (R3, R4, R12, R19, R20). -/

namespace Sys2Proof.Machine

/-! ## Tables as lists over their indices -/

theorem mapFrom_comp {α β γ : Type} (f : Nat → α → β) (g : Nat → β → γ) (l : List α) (i : Nat) :
    mapFrom g i (mapFrom f i l) = mapFrom (fun j a => g j (f j a)) i l := by
  induction l generalizing i with
  | nil => rfl
  | cons a l ih => simp [mapFrom, ih]

theorem Table.toList_eq_map_get {α : Type} {n : Nat} (t : Table α n) :
    t.toList = (List.finRange n).map t.get := by
  apply List.ext_getElem
  · simp [t.size]
  · intro k h1 h2
    simp [Table.get]

theorem Table.mapFrom_toList {α β : Type} {n : Nat} (t : Table α n) (f : Nat → α → β) :
    mapFrom f 0 t.toList = (List.finRange n).map fun i => f i.val (t.get i) := by
  have h := Table.toList_eq_map_get (t.map f)
  rw [show mapFrom f 0 t.toList = (t.map f).toList from rfl, h]
  apply List.map_congr_left
  intro i _
  exact Table.get_map t f i

/-- A count over the entries of a table is a count over its indices. -/
theorem Table.countP_toList {α : Type} {n : Nat} (t : Table α n) (p : α → Bool) :
    t.toList.countP p = (List.finRange n).countP fun i => p (t.get i) := by
  rw [Table.toList_eq_map_get, List.countP_map]; rfl

/-! ## The changes of a claim -/

/-- The change a claim makes of slot `i`, where it changes the state. -/
def SlotMap.changeAt (m : SlotMap) (f : Nat → Slot → Slot) (i : SlotIx) : Option SlotChange :=
  let a := m.entries.get i
  if a.state = (f i.val a).state then none else some ⟨i.val, a.state, (f i.val a).state⟩

theorem changesFrom_mapFrom (f : Nat → Slot → Slot) (l : List Slot) (i : Nat) :
    changesFrom i l (mapFrom f i l) =
      (mapFrom (fun j a => (j, a)) i l).filterMap fun x =>
        if x.2.state = (f x.1 x.2).state then none else some ⟨x.1, x.2.state, (f x.1 x.2).state⟩ := by
  induction l generalizing i with
  | nil => rfl
  | cons a l ih =>
    simp only [mapFrom, changesFrom, ih]
    by_cases h : a.state = (f i a).state
    · rw [if_pos h, List.filterMap_cons_none]; simp [h]
    · rw [if_neg h, List.filterMap_cons_some (b := ⟨i, a.state, (f i a).state⟩)]; simp [h]

/-- The changes of a claim, slot by slot in ascending order. -/
theorem SlotMap.changes_eq (m : SlotMap) (f : Nat → Slot → Slot) :
    m.changes f = (List.finRange 512).filterMap (m.changeAt f) := by
  unfold SlotMap.changes
  change changesFrom 0 m.entries.toList (mapFrom f 0 m.entries.toList) = _
  rw [changesFrom_mapFrom, Table.mapFrom_toList, List.filterMap_map]
  rfl

/-- A slot whose state the claim changes is reported, and no other. -/
theorem SlotMap.mem_changes {m : SlotMap} {f : Nat → Slot → Slot} {c : SlotChange} :
    c ∈ m.changes f ↔ ∃ i : SlotIx, (m.entries.get i).state ≠ (f i.val (m.entries.get i)).state ∧
      c = ⟨i.val, (m.entries.get i).state, (f i.val (m.entries.get i)).state⟩ := by
  rw [SlotMap.changes_eq, List.mem_filterMap]
  constructor
  · rintro ⟨i, -, h⟩
    refine ⟨i, ?_⟩
    unfold SlotMap.changeAt at h
    dsimp only at h
    split at h
    · exact absurd h (by simp)
    · next hne => exact ⟨hne, (Option.some.inj h).symm⟩
  · rintro ⟨i, hne, rfl⟩
    exact ⟨i, List.mem_finRange i, by simp [SlotMap.changeAt, hne]⟩

/-- A claim that changes no state hands no report. -/
theorem SlotMap.changes_eq_nil {m : SlotMap} {f : Nat → Slot → Slot}
    (h : ∀ i : SlotIx, (f i.val (m.entries.get i)).state = (m.entries.get i).state) : m.changes f = [] := by
  rw [List.eq_nil_iff_forall_not_mem]
  intro c hc
  obtain ⟨i, hne, -⟩ := SlotMap.mem_changes.mp hc
  exact hne (h i).symm

/-- How many of a claim's changes satisfy a test. -/
theorem SlotMap.countP_changes (m : SlotMap) (f : Nat → Slot → Slot) (p : SlotChange → Bool) :
    (m.changes f).countP p = (List.finRange 512).countP fun i =>
      decide ((m.entries.get i).state ≠ (f i.val (m.entries.get i)).state) &&
        p ⟨i.val, (m.entries.get i).state, (f i.val (m.entries.get i)).state⟩ := by
  rw [SlotMap.changes_eq, List.countP_filterMap]
  apply List.countP_congr
  intro i _
  unfold SlotMap.changeAt
  by_cases h : (m.entries.get i).state = (f i.val (m.entries.get i)).state
  · simp [h]
  · simp [h]

/-- Some change of a claim satisfies a test exactly where a slot's change does. -/
theorem SlotMap.any_changes (m : SlotMap) (f : Nat → Slot → Slot) (p : SlotChange → Bool) :
    (m.changes f).any p = (List.finRange 512).any fun i =>
      decide ((m.entries.get i).state ≠ (f i.val (m.entries.get i)).state) &&
        p ⟨i.val, (m.entries.get i).state, (f i.val (m.entries.get i)).state⟩ := by
  rw [SlotMap.changes_eq, List.any_filterMap]
  congr 1
  funext i
  unfold SlotMap.changeAt
  by_cases h : (m.entries.get i).state = (f i.val (m.entries.get i)).state
  · simp [h]
  · simp [h]

/-- The bars a claim completes, slot by slot in ascending order (R12). -/
theorem SlotMap.completedBars_changes (m : SlotMap) (f : Nat → Slot → Slot) :
    completedBars (m.changes f) = ((List.finRange 512).filter fun i =>
      decide ((f i.val (m.entries.get i)).state = .barred) && decide ((m.entries.get i).state ≠ .barred) &&
        decide ((m.entries.get i).state ≠ .free)).map Fin.val := by
  unfold completedBars
  rw [SlotMap.changes_eq]
  induction List.finRange 512 with
  | nil => rfl
  | cons i l ih =>
    by_cases h : (m.entries.get i).state = (f i.val (m.entries.get i)).state
    · rw [List.filterMap_cons_none (by simp [SlotMap.changeAt, h]), ih, List.filter_cons_of_neg]
      simp [h]
    · rw [List.filterMap_cons_some (b := ⟨i.val, (m.entries.get i).state, (f i.val (m.entries.get i)).state⟩)
        (by simp [SlotMap.changeAt, h])]
      by_cases h2 : (f i.val (m.entries.get i)).state = .barred
      · by_cases h3 : (m.entries.get i).state = .free
        · rw [List.filter_cons_of_neg (by simp [h3]), List.filter_cons_of_neg (by simp [h3]), ih]
        · rw [List.filter_cons_of_pos (by simp [h2, h3]), List.filter_cons_of_pos (by rw [h2] at h; simp [h2, h3, h]),
            List.map_cons, List.map_cons, ih]
      · rw [List.filter_cons_of_neg (by simp [h2]), List.filter_cons_of_neg (by simp [h2]), ih]

/-! ## The map after a claim -/

@[simp] theorem SlotMap.rewrite_entries (f : Nat → Slot → Slot) (m : SlotMap) (i : SlotIx) :
    (m.rewrite f).entries.get i = f i.val (m.entries.get i) := by
  simp [SlotMap.rewrite]

@[simp] theorem SlotMap.rewrite_image (f : Nat → Slot → Slot) (m : SlotMap) : (m.rewrite f).image = m.image := rfl

@[simp] theorem SlotMap.rewrite_imageMark (f : Nat → Slot → Slot) (m : SlotMap) :
    (m.rewrite f).imageMark = m.imageMark := rfl

@[simp] theorem SlotMap.rewrite_carry (f : Nat → Slot → Slot) (m : SlotMap) : (m.rewrite f).carry = m.carry := rfl

theorem countP_changesFrom (st : SlotState) (l : List Slot) (f : Nat → Slot → Slot) (i : Nat) :
    (mapFrom f i l).countP (fun e => e.state = st) + leaving st (changesFrom i l (mapFrom f i l)) =
      l.countP (fun e => e.state = st) + entering st (changesFrom i l (mapFrom f i l)) := by
  induction l generalizing i with
  | nil => rfl
  | cons a l ih =>
    have hl := ih (i + 1)
    unfold leaving entering at hl ⊢
    simp only [mapFrom, changesFrom, List.countP_cons]
    by_cases h : a.state = (f i a).state
    · rw [if_pos h, h]
      omega
    · rw [if_neg h]
      simp only [List.countP_cons]
      omega

/-- Each count follows the entries: what the claim moved into and out of a state changes the count of that state by
as much (R3). -/
theorem SlotMap.countOf_rewrite (st : SlotState) (f : Nat → Slot → Slot) (m : SlotMap) :
    (m.rewrite f).countOf st + leaving st (m.changes f) = m.countOf st + entering st (m.changes f) :=
  countP_changesFrom st m.entries.toList f 0

/-- A claim keeps each count equal to the number of entries in its state (R3). -/
theorem SlotMap.rewrite_counts (f : Nat → Slot → Slot) {m : SlotMap}
    (h : m.freeCount = m.countOf .free ∧ m.barredCount = m.countOf .barred ∧ m.drainingCount = m.countOf .draining) :
    (m.rewrite f).freeCount = (m.rewrite f).countOf .free ∧ (m.rewrite f).barredCount = (m.rewrite f).countOf .barred ∧
      (m.rewrite f).drainingCount = (m.rewrite f).countOf .draining := by
  obtain ⟨h1, h2, h3⟩ := h
  have e1 := SlotMap.countOf_rewrite .free f m
  have e2 := SlotMap.countOf_rewrite .barred f m
  have e3 := SlotMap.countOf_rewrite .draining f m
  have c1 : (m.rewrite f).freeCount =
      m.freeCount + entering .free (m.changes f) - leaving .free (m.changes f) := rfl
  have c2 : (m.rewrite f).barredCount =
      m.barredCount + entering .barred (m.changes f) - leaving .barred (m.changes f) := rfl
  have c3 : (m.rewrite f).drainingCount =
      m.drainingCount + entering .draining (m.changes f) - leaving .draining (m.changes f) := rfl
  refine ⟨?_, ?_, ?_⟩ <;> omega

/-! ## The reports of a claim -/

@[simp] theorem State.reportChanges_pending (mute : Option Port) (ch : List SlotChange) (s : State) :
    (s.reportChanges mute ch).pending = s.pending := by
  unfold State.reportChanges; dsimp only; split <;> split <;> split <;> simp

@[simp] theorem State.reportChanges_resetLow (mute : Option Port) (ch : List SlotChange) (s : State) :
    (s.reportChanges mute ch).resetLow = s.resetLow := by
  unfold State.reportChanges; dsimp only; split <;> split <;> split <;> simp

@[simp] theorem State.reportChanges_map (mute : Option Port) (ch : List SlotChange) (s : State) :
    (s.reportChanges mute ch).map = s.map := by
  unfold State.reportChanges; dsimp only; split <;> split <;> split <;> simp

@[simp] theorem State.reportChanges_pool (mute : Option Port) (ch : List SlotChange) (s : State) :
    (s.reportChanges mute ch).pool = s.pool := by
  unfold State.reportChanges; dsimp only; split <;> split <;> split <;> simp

@[simp] theorem State.reportChanges_waits (mute : Option Port) (ch : List SlotChange) (s : State) :
    (s.reportChanges mute ch).waits = s.waits := by
  unfold State.reportChanges; dsimp only; split <;> split <;> split <;> simp

@[simp] theorem State.reportChanges_timing (mute : Option Port) (ch : List SlotChange) (s : State) :
    (s.reportChanges mute ch).timing = s.timing := by
  unfold State.reportChanges; dsimp only; split <;> split <;> split <;> simp

@[simp] theorem State.reportChanges_marks (mute : Option Port) (ch : List SlotChange) (s : State) :
    (s.reportChanges mute ch).marks = s.marks := by
  unfold State.reportChanges; dsimp only; split <;> split <;> split <;> simp

@[simp] theorem State.reportChanges_moves (mute : Option Port) (ch : List SlotChange) (s : State) :
    (s.reportChanges mute ch).moves = s.moves := by
  unfold State.reportChanges; dsimp only; split <;> split <;> split <;> simp

@[simp] theorem State.reportChanges_units (mute : Option Port) (ch : List SlotChange) (s : State) :
    (s.reportChanges mute ch).units = s.units := by
  unfold State.reportChanges; dsimp only; split <;> split <;> split <;> simp

@[simp] theorem State.reportChanges_params (mute : Option Port) (ch : List SlotChange) (s : State) :
    (s.reportChanges mute ch).params = s.params := by
  unfold State.reportChanges; dsimp only; split <;> split <;> split <;> simp

/-- Capacity returned sets the wait-pass request where a slot turned FREE, and nothing else of the engine (R19). -/
@[simp] theorem State.reportChanges_engine (mute : Option Port) (ch : List SlotChange) (s : State) :
    (s.reportChanges mute ch).engine =
      { s.engine with waitReq := s.engine.waitReq || ch.any fun c => decide (c.after = .free) } := by
  unfold State.reportChanges
  generalize ch.any (fun c => decide (c.after = .free)) = b
  cases b <;> dsimp only <;> split <;> split <;> simp

/-- The watch report follows the reports handed before it (R20). -/
@[simp] theorem State.reportChanges_reports (mute : Option Port) (ch : List SlotChange) (s : State) :
    (s.reportChanges mute ch).reports =
      { s.reports with watch := s.reports.watch ++ if ch.isEmpty then [] else [.slots ch] } := by
  unfold State.reportChanges; dsimp only; split <;> split <;> split <;> simp_all

/-- BAR_DONE goes to the notice ports where a pending bar completed (R12). -/
theorem State.reportChanges_ports (mute : Option Port) (ch : List SlotChange) (q : Port) (s : State) :
    (s.reportChanges mute ch).ports.get q =
      if completedBars ch ≠ [] ∧ (s.ports.get q).attrs.notices = true ∧ mute ≠ some q then
        (s.ports.get q).post ⟨s.now, .barDone (completedBars ch).length (barDoneSet (completedBars ch))⟩
      else s.ports.get q := by
  unfold State.reportChanges
  dsimp only
  have hp : (if (ch.any fun c => decide (c.after = .free)) = true then s.requestPass else s).ports = s.ports := by
    split <;> simp
  have hn : (if (ch.any fun c => decide (c.after = .free)) = true then s.requestPass else s).now = s.now := by
    split <;> simp [State.now]
  by_cases hb : completedBars ch = []
  · rw [hb]
    split <;> simp only [List.isEmpty_nil, if_true, State.handReport_ports, hp, ne_eq, not_true_eq_false, false_and,
      if_false]
  · have hb' : (completedBars ch).isEmpty = false := by simpa using hb
    rw [hb']
    split <;> simp only [Bool.false_eq_true, if_false, State.handReport_ports, State.postNotices_ports, hp, hn,
      ne_eq, hb, not_false_eq_true, true_and]

/-! ## A claim -/

@[simp] theorem State.claim_pending (mute : Option Port) (f : Nat → Slot → Slot) (s : State) :
    (s.claim mute f).pending = s.pending := by
  simp [State.claim]

@[simp] theorem State.claim_resetLow (mute : Option Port) (f : Nat → Slot → Slot) (s : State) :
    (s.claim mute f).resetLow = s.resetLow := by
  simp [State.claim]

@[simp] theorem State.claim_pool (mute : Option Port) (f : Nat → Slot → Slot) (s : State) :
    (s.claim mute f).pool = s.pool := by
  simp [State.claim]

@[simp] theorem State.claim_waits (mute : Option Port) (f : Nat → Slot → Slot) (s : State) :
    (s.claim mute f).waits = s.waits := by
  simp [State.claim]

@[simp] theorem State.claim_timing (mute : Option Port) (f : Nat → Slot → Slot) (s : State) :
    (s.claim mute f).timing = s.timing := by
  simp [State.claim]

@[simp] theorem State.claim_marks (mute : Option Port) (f : Nat → Slot → Slot) (s : State) :
    (s.claim mute f).marks = s.marks := by
  simp [State.claim]

@[simp] theorem State.claim_moves (mute : Option Port) (f : Nat → Slot → Slot) (s : State) :
    (s.claim mute f).moves = s.moves := by
  simp [State.claim]

@[simp] theorem State.claim_units (mute : Option Port) (f : Nat → Slot → Slot) (s : State) :
    (s.claim mute f).units = s.units := by
  simp [State.claim]

@[simp] theorem State.claim_params (mute : Option Port) (f : Nat → Slot → Slot) (s : State) :
    (s.claim mute f).params = s.params := by
  simp [State.claim]

@[simp] theorem State.claim_map (mute : Option Port) (f : Nat → Slot → Slot) (s : State) :
    (s.claim mute f).map = s.map.rewrite f := by
  simp [State.claim]

@[simp] theorem State.claim_engine (mute : Option Port) (f : Nat → Slot → Slot) (s : State) :
    (s.claim mute f).engine = { s.engine with
      waitReq := s.engine.waitReq || (s.map.changes f).any fun c => decide (c.after = .free) } := by
  simp [State.claim]

@[simp] theorem State.claim_reports (mute : Option Port) (f : Nat → Slot → Slot) (s : State) :
    (s.claim mute f).reports = { s.reports with
      watch := s.reports.watch ++ if (s.map.changes f).isEmpty then [] else [.slots (s.map.changes f)] } := by
  simp [State.claim]

theorem State.claim_ports (mute : Option Port) (f : Nat → Slot → Slot) (q : Port) (s : State) :
    (s.claim mute f).ports.get q =
      if completedBars (s.map.changes f) ≠ [] ∧ (s.ports.get q).attrs.notices = true ∧ mute ≠ some q then
        (s.ports.get q).post ⟨s.now, .barDone (completedBars (s.map.changes f)).length
          (barDoneSet (completedBars (s.map.changes f)))⟩
      else s.ports.get q := by
  unfold State.claim
  rw [State.reportChanges_ports]
  rfl

/-- A claim changes event queues and lost counts and nothing else of any port. -/
theorem State.claim_others (mute : Option Port) (f : Nat → Slot → Slot) (q : Port) (s : State) :
    (s.claim mute f).ports.get q = { s.ports.get q with
      events := ((s.claim mute f).ports.get q).events
      lost := ((s.claim mute f).ports.get q).lost } := by
  rw [State.claim_ports]
  split
  · rw [ClientPort.post_eq]
  · rfl

/-- A claim that completes no pending bar leaves every port as it is. -/
theorem State.claim_ports_of_no_bar (mute : Option Port) (f : Nat → Slot → Slot) (s : State)
    (h : completedBars (s.map.changes f) = []) : (s.claim mute f).ports = s.ports := by
  apply Table.ext
  intro q
  rw [State.claim_ports]
  simp [h]

/-! ## The claims that complete no bar -/

theorem SlotMap.no_bar {m : SlotMap} {f : Nat → Slot → Slot}
    (h : ∀ (i : Nat) (e : Slot), (f i e).state = .barred → e.state = .barred ∨ e.state = .free) :
    completedBars (m.changes f) = [] := by
  rw [SlotMap.completedBars_changes, List.map_eq_nil_iff, List.filter_eq_nil_iff]
  intro i _
  have := h i.val (m.entries.get i)
  simp only [Bool.and_eq_true, decide_eq_true_eq, not_and, not_not]
  rintro ⟨h1, h2⟩
  rcases this h1 with h | h
  · exact absurd h h2
  · exact h

theorem grantSlot_no_bar (idx : RecIx) (set : List Run) (m : SlotMap) :
    completedBars (m.changes (grantSlot idx set)) = [] := by
  apply SlotMap.no_bar
  intro i e
  unfold grantSlot
  split
  · simp [Slot.state]
  · exact Or.inl

theorem targetSlot_no_bar (idx : RecIx) (set : List Run) (armed : Bool) (m : SlotMap) :
    completedBars (m.changes (targetSlot idx set armed)) = [] := by
  apply SlotMap.no_bar
  intro i e
  unfold targetSlot
  split
  · simp [Slot.state]
  · exact Or.inl

theorem barSlot_no_bar (run : Run) (m : SlotMap) : completedBars (m.changes (barSlot run)) = [] := by
  apply SlotMap.no_bar
  intro i e
  unfold barSlot
  split
  · cases e <;> simp [Slot.state]
  · exact Or.inl

theorem unbarSlot_no_bar (run : Run) (m : SlotMap) : completedBars (m.changes (unbarSlot run)) = [] := by
  apply SlotMap.no_bar
  intro i e
  unfold unbarSlot
  split
  · cases e <;> simp [Slot.state]
  · exact Or.inl

theorem cutoverSlot_no_bar (guard : Nat) (old new : List Run) (m : SlotMap) :
    completedBars (m.changes (cutoverSlot guard old new)) = [] := by
  apply SlotMap.no_bar
  intro i e
  unfold cutoverSlot
  cases e
  case live => dsimp only; split <;> [simp [Slot.state]; (split <;> simp [Slot.state])]
  all_goals simp [Slot.state]

/-- An arm claim changes no slot state (R7). -/
theorem armSlot_no_change (set : List Run) (m : SlotMap) : m.changes (armSlot set) = [] := by
  apply SlotMap.changes_eq_nil
  intro i
  unfold armSlot
  split
  · cases m.entries.get i <;> rfl
  · rfl

/-! ## The claims that turn no slot FREE -/

theorem SlotMap.no_free {m : SlotMap} {f : Nat → Slot → Slot}
    (h : ∀ (i : Nat) (e : Slot), (f i e).state = .free → e.state = .free) :
    (m.changes f).any (fun c => decide (c.after = .free)) = false := by
  rw [SlotMap.any_changes, List.any_eq_false]
  intro i _
  have := h i.val (m.entries.get i)
  simp only [Bool.and_eq_true, decide_eq_true_eq, not_and]
  intro h1 h2
  exact h1 ((this h2).trans h2.symm)

theorem grantSlot_no_free (idx : RecIx) (set : List Run) (m : SlotMap) :
    (m.changes (grantSlot idx set)).any (fun c => decide (c.after = .free)) = false := by
  apply SlotMap.no_free
  intro i e
  unfold grantSlot
  split
  · simp [Slot.state]
  · exact id

theorem targetSlot_no_free (idx : RecIx) (set : List Run) (armed : Bool) (m : SlotMap) :
    (m.changes (targetSlot idx set armed)).any (fun c => decide (c.after = .free)) = false := by
  apply SlotMap.no_free
  intro i e
  unfold targetSlot
  split
  · simp [Slot.state]
  · exact id

theorem barSlot_no_free (run : Run) (m : SlotMap) :
    (m.changes (barSlot run)).any (fun c => decide (c.after = .free)) = false := by
  apply SlotMap.no_free
  intro i e
  unfold barSlot
  split
  · cases e <;> simp [Slot.state]
  · exact id

theorem cutoverSlot_no_free (guard : Nat) (old new : List Run) (m : SlotMap) :
    (m.changes (cutoverSlot guard old new)).any (fun c => decide (c.after = .free)) = false := by
  apply SlotMap.no_free
  intro i e
  unfold cutoverSlot
  cases e
  case live => dsimp only; split <;> [simp [Slot.state]; (split <;> simp [Slot.state])]
  all_goals simp [Slot.state]

end Sys2Proof.Machine
end

