-- ==== Sys2Proof/Laws/Events.lean ====
section
/-! SUPPORT. Which events each shared operation posts at each queue, in order: `State.EventsBy` step by step. -/

namespace Sys2Proof.Machine

/-! ## Lists of postings -/

@[simp] theorem ClientPort.postAll_nil (c : ClientPort) : c.postAll [] = c := rfl

@[simp] theorem ClientPort.postAll_cons (e : Event) (es : List Event) (c : ClientPort) :
    c.postAll (e :: es) = (c.post e).postAll es := rfl

theorem ClientPort.postAll_append (es fs : List Event) (c : ClientPort) :
    c.postAll (es ++ fs) = (c.postAll es).postAll fs := by
  simp [ClientPort.postAll, List.foldl_append]

theorem ClientPort.postAll_congr (es : List Event) {c d : ClientPort} (he : c.events = d.events)
    (hl : c.lost = d.lost) : (c.postAll es).events = (d.postAll es).events ∧ (c.postAll es).lost = (d.postAll es).lost := by
  induction es generalizing c d with
  | nil => exact ⟨he, hl⟩
  | cons e es ih =>
    obtain ⟨h1, h2⟩ := ClientPort.post_congr e he hl
    exact ih h1 h2

@[simp] theorem eventIf_true (stamp : Word) (body : EventBody) : eventIf true stamp body = [⟨stamp, body⟩] := rfl

@[simp] theorem eventIf_false (stamp : Word) (body : EventBody) : eventIf false stamp body = [] := rfl

/-! ## `EventsBy` -/

theorem State.EventsBy.refl (s : State) : s.EventsBy (fun _ => []) s := fun _ => ⟨rfl, rfl⟩

theorem State.EventsBy.trans {es fs : Port → List Event} {s t u : State} (h : s.EventsBy es t) (g : t.EventsBy fs u) :
    s.EventsBy (fun q => es q ++ fs q) u := by
  intro q
  obtain ⟨h1, h2⟩ := h q
  obtain ⟨g1, g2⟩ := g q
  obtain ⟨k1, k2⟩ := ClientPort.postAll_congr (fs q) h1 h2
  rw [ClientPort.postAll_append]
  exact ⟨g1.trans k1, g2.trans k2⟩

theorem State.EventsBy.congr {es fs : Port → List Event} {s t : State} (h : s.EventsBy es t)
    (e : ∀ q, es q = fs q) : s.EventsBy fs t := by
  intro q; rw [← e q]; exact h q

/-- An operation that leaves every event queue and lost count posts nothing. -/
theorem State.EventsBy.of_same {s t : State}
    (h : ∀ q, (t.ports.get q).events = (s.ports.get q).events ∧ (t.ports.get q).lost = (s.ports.get q).lost) :
    s.EventsBy (fun _ => []) t := h

theorem State.EventsBy.of_ports {s t : State} (h : t.ports = s.ports) : s.EventsBy (fun _ => []) t := by
  intro q; rw [h]; exact ⟨rfl, rfl⟩

/-- The postings of an operation are the same seen from a state with the same event queues. -/
theorem State.EventsBy.of_left {es : Port → List Event} {s s' t : State} (h : s'.EventsBy es t)
    (e : ∀ q, (s'.ports.get q).events = (s.ports.get q).events ∧ (s'.ports.get q).lost = (s.ports.get q).lost) :
    s.EventsBy es t :=
  (State.EventsBy.trans (State.EventsBy.of_same e) h).congr fun _ => rfl

theorem State.EventsBy.of_right {es : Port → List Event} {s t t' : State} (h : s.EventsBy es t)
    (e : ∀ q, (t'.ports.get q).events = (t.ports.get q).events ∧ (t'.ports.get q).lost = (t.ports.get q).lost) :
    s.EventsBy es t' :=
  (State.EventsBy.trans h (State.EventsBy.of_same e)).congr fun q => List.append_nil (es q)

/-! ## The operations -/

theorem State.modPort_eventsBy (p : Port) (f : ClientPort → ClientPort) (s : State)
    (h : ∀ c, (f c).events = c.events ∧ (f c).lost = c.lost) : s.EventsBy (fun _ => []) (s.modPort p f) := by
  apply State.EventsBy.of_same
  intro q
  rw [State.modPort_ports, Table.get_modify]
  split
  · exact h _
  · exact ⟨rfl, rfl⟩

/-- A posting under a condition, as a list of at most one event. -/
theorem ClientPort.post_if {P : Prop} [Decidable P] {b : Bool} (h : b = true ↔ P) (stamp : Word) (body : EventBody)
    (c : ClientPort) : (if P then c.post ⟨stamp, body⟩ else c) = c.postAll (eventIf b stamp body) := by
  by_cases hp : P
  · rw [if_pos hp, h.mpr hp]; rfl
  · have : b = false := by
      cases b with
      | false => rfl
      | true => exact absurd (h.mp rfl) hp
    rw [if_neg hp, this]; rfl

theorem State.EventsBy.of_postAll {es : Port → List Event} {s t : State}
    (h : ∀ q, t.ports.get q = (s.ports.get q).postAll (es q)) : s.EventsBy es t := by
  intro q; rw [h q]; exact ⟨rfl, rfl⟩

theorem State.post_eventsBy (mute : Option Port) (stamp : Word) (body : EventBody) (p : Port) (s : State) :
    s.EventsBy (fun q => eventIf (decide (p = q) && decide (mute ≠ some p)) stamp body) (s.post mute stamp body p) := by
  apply State.EventsBy.of_postAll
  intro q
  rw [State.post_ports]
  exact ClientPort.post_if (by simp) _ _ _

theorem State.postNotices_eventsBy (mute : Option Port) (stamp : Word) (body : EventBody) (s : State) :
    s.EventsBy (fun q => eventIf ((s.ports.get q).attrs.notices && decide (mute ≠ some q)) stamp body)
      (s.postNotices mute stamp body) := by
  apply State.EventsBy.of_postAll
  intro q
  rw [State.postNotices_ports]
  exact ClientPort.post_if (by simp) _ _ _

theorem State.postEach_eventsBy (mute : Option Port) (stamp : Word) (body : EventBody) (ps : List Port) (s : State)
    (nodup : ps.Nodup) :
    s.EventsBy (fun q => eventIf (decide (q ∈ ps) && decide (mute ≠ some q)) stamp body)
      (s.postEach mute stamp body ps) := by
  apply State.EventsBy.of_postAll
  intro q
  rw [State.postEach_ports mute stamp body ps q s nodup]
  exact ClientPort.post_if (by simp) _ _ _

theorem State.claim_eventsBy (mute : Option Port) (f : Nat → Slot → Slot) (s : State) :
    s.EventsBy (fun q => eventIf ((s.ports.get q).attrs.notices && decide (mute ≠ some q) &&
        !(completedBars (s.map.changes f)).isEmpty) s.now
      (.barDone (completedBars (s.map.changes f)).length (barDoneSet (completedBars (s.map.changes f)))))
      (s.claim mute f) := by
  apply State.EventsBy.of_postAll
  intro q
  rw [State.claim_ports]
  refine ClientPort.post_if ?_ _ _ _
  simp only [Bool.and_eq_true, decide_eq_true_eq, Bool.not_eq_true', List.isEmpty_eq_false_iff]
  constructor
  · rintro ⟨⟨h1, h2⟩, h3⟩; exact ⟨h3, h1, h2⟩
  · rintro ⟨h3, h1, h2⟩; exact ⟨⟨h1, h2⟩, h3⟩

end Sys2Proof.Machine
end

