-- ==== Sys2Proof/Laws/Answers.lean ====
section
/-! SUPPORT. Answers, and the forms a completion and a port-local answer can take (R50, R54, R134, R138). -/

namespace Sys2Proof.Machine

/-! ## Answers -/

theorem ClientPort.answer_of_ne (tag : Byte) (status : Status) (body : List Byte) {c : ClientPort}
    (h : c.queue ≠ []) :
    c.answer tag status body = { c with queue := c.queue.tail, stored := c.stored ++ [⟨tag, status, body, true⟩] } := by
  unfold ClientPort.answer
  cases hq : c.queue with
  | nil => exact absurd hq h
  | cons q rest => rfl

/-- An answer changes the command queue and the stored responses and nothing else. -/
theorem ClientPort.answer_eq (tag : Byte) (status : Status) (body : List Byte) (c : ClientPort) :
    c.answer tag status body =
      { c with queue := c.queue.tail, stored := (c.answer tag status body).stored } := by
  unfold ClientPort.answer
  cases hq : c.queue with
  | nil => cases c; simp_all
  | cons q rest => rfl

theorem State.answer_ports_get (p : Port) (tag : Byte) (status : Status) (body : List Byte) (q : Port) (s : State) :
    (s.answer p tag status body).ports.get q =
      if p = q then (s.ports.get q).answer tag status body else s.ports.get q := by
  unfold State.answer
  rw [State.modPort_ports, Table.get_modify]

theorem State.answer_eventsBy (p : Port) (tag : Byte) (status : Status) (body : List Byte) (s : State) :
    s.EventsBy (fun _ => []) (s.answer p tag status body) := by
  unfold State.answer
  apply State.modPort_eventsBy
  intro c
  rw [ClientPort.answer_eq]
  exact ⟨rfl, rfl⟩

/-- The answer of a command at the head of its port's queue, the engine freed. -/
theorem State.answer_setWork_idle (p : Port) (tag : Byte) (status : Status) (body : List Byte) (s : State)
    (h : (s.ports.get p).queue ≠ []) :
    (s.setWork .idle).answer p tag status body = s.answered p tag status body := by
  unfold State.answer State.answered State.modPort State.setWork
  dsimp only
  congr 1
  apply Table.ext
  intro q
  rw [Table.get_modify, Table.get_modify]
  split
  · next e => rw [ClientPort.answer_of_ne]; rwa [← e]
  · rfl

/-- The answer given is the one `State.HasAnswer` speaks of. -/
theorem State.answer_hasAnswer (p : Port) (tag : Byte) (status : Status) (body : List Byte) {s t : State}
    (h : (s.ports.get p).queue ≠ []) (hq : (t.ports.get p).queue = (s.ports.get p).queue)
    (hs : (t.ports.get p).stored = (s.ports.get p).stored) : s.HasAnswer p tag status body (t.answer p tag status body) := by
  unfold State.HasAnswer
  rw [State.answer_ports_get, if_pos rfl, ClientPort.answer_of_ne _ _ _ (by rwa [hq])]
  exact ⟨by rw [hq], by rw [hs]⟩

/-! ## Completions -/

/-- The completion of the command in the engine, where its port may issue it: the effect `run`, with the engine free. -/
theorem State.complete_of_engaged {p : Port} {tag : Byte} {req : Request} {scan : Option Scan} {s : State}
    (h : s.Engaged p tag req scan) (pick : Request → Option (Command → State → State))
    (run : Command → State → State) (hp : pick req = some run) :
    s.complete pick = run ⟨p, tag, req, false, scan⟩ (s.setWork .idle) := by
  obtain ⟨h1, h2, h3, -⟩ := h
  unfold State.complete State.finish
  simp [h1, h2, hp, h3]

/-- Every form a completion can take: the state as it is, the engine freed, a NOT_PERMITTED answer, or the effect. -/
theorem State.complete_cases (pick : Request → Option (Command → State → State)) (s : State) :
    s.complete pick = s ∨
      ∃ c run, s.resetLow = false ∧ s.engine.work = .command c ∧ pick c.req = some run ∧
        ((c.withdrawn = true ∧ s.complete pick = s.setWork .idle) ∨
          (c.withdrawn = false ∧ s.permits c.port c.req = false ∧
            s.complete pick = (s.setWork .idle).answer c.port c.tag .notPermitted []) ∨
          (c.withdrawn = false ∧ s.permits c.port c.req = true ∧ s.complete pick = run c (s.setWork .idle))) := by
  unfold State.complete
  split
  · exact Or.inl rfl
  · next h0 =>
    split
    · next c hw =>
      split
      · next run hr =>
        refine Or.inr ⟨c, run, by simpa using h0, hw, hr, ?_⟩
        unfold State.finish
        cases c.withdrawn
        · cases s.permits c.port c.req <;> simp
        · simp
      · exact Or.inl rfl
    · exact Or.inl rfl
    · exact Or.inl rfl

/-- A projection of the state that answers and the freeing of the engine keep is kept by a completion whose effect keeps
it. -/
theorem State.complete_keeps {β : Type} (proj : State → β) (hw : ∀ w s, proj (State.setWork w s) = proj s)
    (ha : ∀ p t st b s, proj (State.answer p t st b s) = proj s) (pick : Request → Option (Command → State → State))
    (hr : ∀ r run, pick r = some run → ∀ c s, proj (run c s) = proj s) (s : State) :
    proj (s.complete pick) = proj s := by
  rcases State.complete_cases pick s with h | ⟨c, run, -, -, hp, h⟩
  · rw [h]
  · rcases h with ⟨-, h⟩ | ⟨-, -, h⟩ | ⟨-, -, h⟩ <;> rw [h]
    · exact hw _ _
    · rw [ha, hw]
    · rw [hr _ _ hp, hw]

/-! ## Port-local answers -/

/-- Every form a port-local answer can take: the state as it is, or the answer of the head command of that code. -/
theorem State.answerLocal_cases (p : Port) (code : Byte) (run : QueuedCommand → State → State) (s : State) :
    s.answerLocal p code run = s ∨
      ∃ q rest, s.resetLow = false ∧ (s.ports.get p).queue = q :: rest ∧ q.code = code ∧
        s.answerLocal p code run = run q s := by
  unfold State.answerLocal
  split
  · exact Or.inl rfl
  · next h0 =>
    split
    · next q rest hq =>
      split
      · next hc => exact Or.inr ⟨q, rest, by simpa using h0, hq, hc, rfl⟩
      · exact Or.inl rfl
    · exact Or.inl rfl

/-- A projection of the state that the answer keeps is kept whether or not the command heads the queue. -/
theorem State.answerLocal_keeps {β : Type} (proj : State → β) (p : Port) (code : Byte)
    (run : QueuedCommand → State → State) (hr : ∀ q s, proj (run q s) = proj s) (s : State) :
    proj (s.answerLocal p code run) = proj s := by
  rcases State.answerLocal_cases p code run s with h | ⟨q, rest, -, -, -, h⟩
  · rw [h]
  · rw [h, hr]

/-! ## Handles -/

theorem State.lookup_of_names {h : Handle} {i : RecIx} {a : Reservation} {s : State} (n : s.Names h i a) :
    s.lookup h = some (i, a) := by
  obtain ⟨hi, ha, hg⟩ := n
  have lt : h.index.toNat < 192 := by rw [← hi]; exact i.isLt
  have e : (⟨h.index.toNat, lt⟩ : RecIx) = i := Fin.ext hi.symm
  unfold State.lookup
  rw [dif_pos lt]
  simp [e, ha, hg]

theorem State.lookup_of_stale {h : Handle} {s : State} (n : s.Stale h) : s.lookup h = none := by
  unfold State.lookup
  split
  · next lt =>
    rcases n ⟨h.index.toNat, lt⟩ rfl with hn | hn
    · simp [hn]
    · dsimp only
      split
      · rw [if_neg hn]
      · rfl
  · rfl

theorem State.names_of_lookup {h : Handle} {i : RecIx} {a : Reservation} {s : State}
    (n : s.lookup h = some (i, a)) : s.Names h i a := by
  unfold State.lookup at n
  split at n
  · next lt =>
    dsimp only at n
    split at n
    · next b hb =>
      split at n
      · next hg =>
        obtain ⟨rfl, rfl⟩ : _ ∧ _ := by simpa using n
        exact ⟨rfl, hb, hg⟩
      · cases n
    · cases n
  · cases n

/-- The handle that names a record is the one the model forms from its index and generation (R26, R191). -/
theorem State.Names.handleOf_eq {h : Handle} {i : RecIx} {a : Reservation} {s : State} (n : s.Names h i a) :
    handleOf i (s.pool.records.get i).gen = h := by
  obtain ⟨hi, -, hg⟩ := n
  unfold handleOf
  rw [hg, hi]
  simp

end Sys2Proof.Machine
end

