-- ==== Sys2Proof/Laws/Records.lean ====
section
/-! SUPPORT. What the operations on records do: the warning and the recovery, a grant, and the release procedure
(R29, R31, R32, R36, R37). -/

namespace Sys2Proof.Machine

/-! ## The warning and the recovery -/

/-- The warning is due: the flag is set and the free record count is at or below POOL_LOW (R31). -/
def State.warningDue (s : State) : Bool :=
  s.pool.warnArmed && decide (s.freeRecords ≤ s.params.poolLow)

@[simp] theorem State.judgeWarning_pending (s : State) :
    (s.judgeWarning).pending = s.pending := by
  unfold State.judgeWarning; split <;> rfl

@[simp] theorem State.judgeWarning_resetLow (s : State) :
    (s.judgeWarning).resetLow = s.resetLow := by
  unfold State.judgeWarning; split <;> rfl

@[simp] theorem State.judgeWarning_map (s : State) :
    (s.judgeWarning).map = s.map := by
  unfold State.judgeWarning; split <;> rfl

@[simp] theorem State.judgeWarning_engine (s : State) :
    (s.judgeWarning).engine = s.engine := by
  unfold State.judgeWarning; split <;> rfl

@[simp] theorem State.judgeWarning_waits (s : State) :
    (s.judgeWarning).waits = s.waits := by
  unfold State.judgeWarning; split <;> rfl

@[simp] theorem State.judgeWarning_timing (s : State) :
    (s.judgeWarning).timing = s.timing := by
  unfold State.judgeWarning; split <;> rfl

@[simp] theorem State.judgeWarning_marks (s : State) :
    (s.judgeWarning).marks = s.marks := by
  unfold State.judgeWarning; split <;> rfl

@[simp] theorem State.judgeWarning_moves (s : State) :
    (s.judgeWarning).moves = s.moves := by
  unfold State.judgeWarning; split <;> rfl

@[simp] theorem State.judgeWarning_units (s : State) :
    (s.judgeWarning).units = s.units := by
  unfold State.judgeWarning; split <;> rfl

@[simp] theorem State.judgeWarning_reports (s : State) :
    (s.judgeWarning).reports = s.reports := by
  unfold State.judgeWarning; split <;> rfl

@[simp] theorem State.judgeWarning_params (s : State) :
    (s.judgeWarning).params = s.params := by
  unfold State.judgeWarning; split <;> rfl

@[simp] theorem State.judgeWarning_pool (s : State) :
    s.judgeWarning.pool = { s.pool with warnArmed := s.pool.warnArmed && !s.warningDue } := by
  unfold State.judgeWarning State.warningDue
  split
  · next h => simp [h]
  · next h => simp at h; cases hb : s.pool.warnArmed <;> simp_all <;> (cases hs : s.pool; simp_all)

theorem State.judgeWarning_eventsBy (s : State) :
    s.EventsBy (fun q => eventIf ((s.ports.get q).attrs.notices && s.warningDue) s.now (.poolLow s.freeRecords))
      s.judgeWarning := by
  unfold State.judgeWarning State.warningDue
  split
  · next h =>
    rw [h]
    exact ((State.postNotices_eventsBy none _ _ _).congr fun q => by simp).of_left fun q => ⟨rfl, rfl⟩
  · next h =>
    rw [Bool.not_eq_true] at h
    rw [h]
    exact (State.EventsBy.refl s).congr fun q => by simp

/-- The warning changes event queues and lost counts and nothing else of any port. -/
theorem State.judgeWarning_others (q : Port) (s : State) :
    s.judgeWarning.ports.get q = { s.ports.get q with
      events := (s.judgeWarning.ports.get q).events, lost := (s.judgeWarning.ports.get q).lost } := by
  unfold State.judgeWarning
  split
  · rw [State.postNotices_ports]
    split
    · rw [ClientPort.post_eq]
    · rfl
  · rfl

@[simp] theorem State.judgeRecovery_pending (mute : Option Port) (s : State) :
    (s.judgeRecovery mute).pending = s.pending := by
  unfold State.judgeRecovery; split <;> rfl

@[simp] theorem State.judgeRecovery_resetLow (mute : Option Port) (s : State) :
    (s.judgeRecovery mute).resetLow = s.resetLow := by
  unfold State.judgeRecovery; split <;> rfl

@[simp] theorem State.judgeRecovery_map (mute : Option Port) (s : State) :
    (s.judgeRecovery mute).map = s.map := by
  unfold State.judgeRecovery; split <;> rfl

@[simp] theorem State.judgeRecovery_engine (mute : Option Port) (s : State) :
    (s.judgeRecovery mute).engine = s.engine := by
  unfold State.judgeRecovery; split <;> rfl

@[simp] theorem State.judgeRecovery_waits (mute : Option Port) (s : State) :
    (s.judgeRecovery mute).waits = s.waits := by
  unfold State.judgeRecovery; split <;> rfl

@[simp] theorem State.judgeRecovery_timing (mute : Option Port) (s : State) :
    (s.judgeRecovery mute).timing = s.timing := by
  unfold State.judgeRecovery; split <;> rfl

@[simp] theorem State.judgeRecovery_marks (mute : Option Port) (s : State) :
    (s.judgeRecovery mute).marks = s.marks := by
  unfold State.judgeRecovery; split <;> rfl

@[simp] theorem State.judgeRecovery_moves (mute : Option Port) (s : State) :
    (s.judgeRecovery mute).moves = s.moves := by
  unfold State.judgeRecovery; split <;> rfl

@[simp] theorem State.judgeRecovery_units (mute : Option Port) (s : State) :
    (s.judgeRecovery mute).units = s.units := by
  unfold State.judgeRecovery; split <;> rfl

@[simp] theorem State.judgeRecovery_reports (mute : Option Port) (s : State) :
    (s.judgeRecovery mute).reports = s.reports := by
  unfold State.judgeRecovery; split <;> rfl

@[simp] theorem State.judgeRecovery_params (mute : Option Port) (s : State) :
    (s.judgeRecovery mute).params = s.params := by
  unfold State.judgeRecovery; split <;> rfl

@[simp] theorem State.judgeRecovery_pool (mute : Option Port) (s : State) :
    (s.judgeRecovery mute).pool = { s.pool with warnArmed := s.pool.warnArmed || s.recoveryDue } := by
  unfold State.judgeRecovery
  split
  · next h => simp [h]
  · next h => rw [Bool.not_eq_true] at h; simp [h]

theorem State.judgeRecovery_eventsBy (mute : Option Port) (s : State) :
    s.EventsBy (fun q => eventIf ((s.ports.get q).attrs.notices && decide (mute ≠ some q) && s.recoveryDue) s.now
      (.poolRecovered s.freeRecords)) (s.judgeRecovery mute) := by
  unfold State.judgeRecovery
  split
  · next h =>
    rw [h]
    exact ((State.postNotices_eventsBy mute _ _ _).congr fun q => by simp).of_left fun q => ⟨rfl, rfl⟩
  · next h =>
    rw [Bool.not_eq_true] at h
    rw [h]
    exact (State.EventsBy.refl s).congr fun q => by simp

/-- The recovery changes event queues and lost counts and nothing else of any port. -/
theorem State.judgeRecovery_others (mute : Option Port) (q : Port) (s : State) :
    (s.judgeRecovery mute).ports.get q = { s.ports.get q with
      events := ((s.judgeRecovery mute).ports.get q).events, lost := ((s.judgeRecovery mute).ports.get q).lost } := by
  unfold State.judgeRecovery
  split
  · rw [State.postNotices_ports]
    split
    · rw [ClientPort.post_eq]
    · rfl
  · rfl

/-! ## A grant -/

/-- The fields of a record granted at a completion (R29). -/
def State.granted (owner : Port) (cls : ResClass) (set : List Run) (lease : Nat) (ticket : Option Byte) (s : State) :
    Reservation :=
  { state := .pending, owner := owner, cls := cls, set := set, lease := leaseOf lease, context := none,
    ticket := ticket, grantFrame := s.now }


@[simp] theorem State.grant_pending (i : RecIx) (rest : List RecIx) (owner : Port) (cls : ResClass) (set : List Run) (lease : Nat)
    (ticket : Option Byte) (place : Placement) (s : State) :
    (s.grant i rest owner cls set lease ticket place).pending = s.pending := by
  simp [State.grant]

@[simp] theorem State.grant_resetLow (i : RecIx) (rest : List RecIx) (owner : Port) (cls : ResClass) (set : List Run) (lease : Nat)
    (ticket : Option Byte) (place : Placement) (s : State) :
    (s.grant i rest owner cls set lease ticket place).resetLow = s.resetLow := by
  simp [State.grant]

@[simp] theorem State.grant_waits (i : RecIx) (rest : List RecIx) (owner : Port) (cls : ResClass) (set : List Run) (lease : Nat)
    (ticket : Option Byte) (place : Placement) (s : State) :
    (s.grant i rest owner cls set lease ticket place).waits = s.waits := by
  simp [State.grant]

@[simp] theorem State.grant_timing (i : RecIx) (rest : List RecIx) (owner : Port) (cls : ResClass) (set : List Run) (lease : Nat)
    (ticket : Option Byte) (place : Placement) (s : State) :
    (s.grant i rest owner cls set lease ticket place).timing = s.timing := by
  simp [State.grant]

@[simp] theorem State.grant_marks (i : RecIx) (rest : List RecIx) (owner : Port) (cls : ResClass) (set : List Run) (lease : Nat)
    (ticket : Option Byte) (place : Placement) (s : State) :
    (s.grant i rest owner cls set lease ticket place).marks = s.marks := by
  simp [State.grant]

@[simp] theorem State.grant_moves (i : RecIx) (rest : List RecIx) (owner : Port) (cls : ResClass) (set : List Run) (lease : Nat)
    (ticket : Option Byte) (place : Placement) (s : State) :
    (s.grant i rest owner cls set lease ticket place).moves = s.moves := by
  simp [State.grant]

@[simp] theorem State.grant_units (i : RecIx) (rest : List RecIx) (owner : Port) (cls : ResClass) (set : List Run) (lease : Nat)
    (ticket : Option Byte) (place : Placement) (s : State) :
    (s.grant i rest owner cls set lease ticket place).units = s.units := by
  simp [State.grant]

@[simp] theorem State.grant_params (i : RecIx) (rest : List RecIx) (owner : Port) (cls : ResClass) (set : List Run) (lease : Nat)
    (ticket : Option Byte) (place : Placement) (s : State) :
    (s.grant i rest owner cls set lease ticket place).params = s.params := by
  simp [State.grant]

@[simp] theorem State.grant_map (i : RecIx) (rest : List RecIx) (owner : Port) (cls : ResClass) (set : List Run) (lease : Nat)
    (ticket : Option Byte) (place : Placement) (s : State) :
    (s.grant i rest owner cls set lease ticket place).map = s.map.rewrite (grantSlot i set) := by
  simp [State.grant]

@[simp] theorem State.grant_pool (i : RecIx) (rest : List RecIx) (owner : Port) (cls : ResClass) (set : List Run) (lease : Nat)
    (ticket : Option Byte) (place : Placement) (s : State) :
    (s.grant i rest owner cls set lease ticket place).pool = { s.pool with
      records := s.pool.records.set i ⟨(s.pool.records.get i).gen, some (s.granted owner cls set lease ticket)⟩
      fifo := rest } := by
  simp [State.grant, State.allocate, State.granted, Table.modify]

@[simp] theorem State.grant_engine (i : RecIx) (rest : List RecIx) (owner : Port) (cls : ResClass) (set : List Run) (lease : Nat)
    (ticket : Option Byte) (place : Placement) (s : State) :
    (s.grant i rest owner cls set lease ticket place).engine = { s.engine with rover := roverMoved place set s.engine.rover } := by
  simp only [State.grant, State.moveRover_engine, State.claim_engine, State.allocate_engine, State.allocate_map,
    grantSlot_no_free, Bool.or_false]

@[simp] theorem State.grant_ports (i : RecIx) (rest : List RecIx) (owner : Port) (cls : ResClass) (set : List Run) (lease : Nat)
    (ticket : Option Byte) (place : Placement) (s : State) :
    (s.grant i rest owner cls set lease ticket place).ports = s.ports.modify owner fun c =>
      { c with ownedSlots := c.ownedSlots + setTotal set, ownedRecords := c.ownedRecords + 1 } := by
  unfold State.grant
  rw [State.moveRover_ports, State.claim_ports_of_no_bar]
  · rfl
  · exact grantSlot_no_bar _ _ _

@[simp] theorem State.grant_reports (i : RecIx) (rest : List RecIx) (owner : Port) (cls : ResClass) (set : List Run) (lease : Nat)
    (ticket : Option Byte) (place : Placement) (s : State) :
    (s.grant i rest owner cls set lease ticket place).reports = { s.reports with
      watch := s.reports.watch ++
        if (s.map.changes (grantSlot i set)).isEmpty then [] else [.slots (s.map.changes (grantSlot i set))] } := by
  simp [State.grant]

@[simp] theorem State.grantReports_pending (i : RecIx) (s : State) :
    (s.grantReports i).pending = s.pending := by
  simp [State.grantReports]

@[simp] theorem State.grantReports_resetLow (i : RecIx) (s : State) :
    (s.grantReports i).resetLow = s.resetLow := by
  simp [State.grantReports]

@[simp] theorem State.grantReports_map (i : RecIx) (s : State) :
    (s.grantReports i).map = s.map := by
  simp [State.grantReports]

@[simp] theorem State.grantReports_engine (i : RecIx) (s : State) :
    (s.grantReports i).engine = s.engine := by
  simp [State.grantReports]

@[simp] theorem State.grantReports_waits (i : RecIx) (s : State) :
    (s.grantReports i).waits = s.waits := by
  simp [State.grantReports]

@[simp] theorem State.grantReports_timing (i : RecIx) (s : State) :
    (s.grantReports i).timing = s.timing := by
  simp [State.grantReports]

@[simp] theorem State.grantReports_marks (i : RecIx) (s : State) :
    (s.grantReports i).marks = s.marks := by
  simp [State.grantReports]

@[simp] theorem State.grantReports_moves (i : RecIx) (s : State) :
    (s.grantReports i).moves = s.moves := by
  simp [State.grantReports]

@[simp] theorem State.grantReports_units (i : RecIx) (s : State) :
    (s.grantReports i).units = s.units := by
  simp [State.grantReports]

@[simp] theorem State.grantReports_params (i : RecIx) (s : State) :
    (s.grantReports i).params = s.params := by
  simp [State.grantReports]

@[simp] theorem State.grantReports_reports (i : RecIx) (s : State) :
    (s.grantReports i).reports = { s.reports with
      watch := s.reports.watch ++ [.record (handleOf i (s.pool.records.get i).gen) (some .pending)] } := by
  simp [State.grantReports]

/-- After the warning of a grant no recovery is due, where the flag was set and the count is below 192 (R31, R32). -/
theorem State.judgeWarning_recoveryDue (s : State) (h : s.freeRecords < 192) :
    s.judgeWarning.recoveryDue = s.recoveryDue := by
  unfold State.recoveryDue State.recoveryLevel State.freeRecords
  simp only [State.judgeWarning_pool, State.judgeWarning_params]
  unfold State.freeRecords at h
  unfold State.warningDue State.freeRecords
  cases s.pool.warnArmed
  · rfl
  · simp only [Bool.true_and, Bool.not_true, Bool.false_and, Bool.not_not]
    by_cases h1 : s.pool.fifo.length ≤ s.params.poolLow
    · simp only [h1, decide_true, Bool.true_and, decide_eq_false_iff_not]
      unfold Config.recoveryStep
      omega
    · simp [h1]

theorem State.grantReports_pool (i : RecIx) (s : State) (h : s.freeRecords < 192) :
    (s.grantReports i).pool =
      { s.pool with warnArmed := s.pool.warnArmed && !s.warningDue || s.recoveryDue } := by
  simp only [State.grantReports, State.handReport_pool, State.judgeRecovery_pool, State.judgeWarning_pool,
    State.judgeWarning_recoveryDue s h]

theorem State.grantReports_eventsBy (i : RecIx) (s : State) (h : s.freeRecords < 192) :
    s.EventsBy (fun q =>
      eventIf ((s.ports.get q).attrs.notices && s.warningDue) s.now (.poolLow s.freeRecords) ++
        eventIf ((s.ports.get q).attrs.notices && s.recoveryDue) s.now (.poolRecovered s.freeRecords))
      (s.grantReports i) := by
  unfold State.grantReports
  have h2 := State.judgeRecovery_eventsBy none s.judgeWarning
  rw [State.judgeWarning_recoveryDue s h] at h2
  refine (((State.judgeWarning_eventsBy s).trans h2).congr ?_).of_right fun q => ⟨rfl, rfl⟩
  intro q
  rw [State.judgeWarning_others]
  simp [State.now, State.freeRecords]

/-- The end of a grant changes event queues and lost counts and nothing else of any port. -/
theorem State.grantReports_others (i : RecIx) (q : Port) (s : State) :
    (s.grantReports i).ports.get q = { s.ports.get q with
      events := ((s.grantReports i).ports.get q).events, lost := ((s.grantReports i).ports.get q).lost } := by
  unfold State.grantReports
  rw [State.handReport_ports, State.judgeRecovery_others, State.judgeWarning_others]

/-! ## The release procedure -/

theorem State.freeRecord_ports (i : RecIx) (a : Reservation) (s : State) :
    (s.freeRecord i a).ports = s.ports.modify a.owner fun c =>
      { c with ownedSlots := c.ownedSlots - setTotal a.set, ownedRecords := c.ownedRecords - 1 } := rfl

theorem State.contextOf_of_not_moving {a : Reservation} (s : State) (h : a.state ≠ .moving) : s.contextOf a = none := by
  unfold State.contextOf
  split <;> simp_all

theorem State.contextOf_congr (a : Reservation) {s t : State} (h : t.moves = s.moves) :
    t.contextOf a = s.contextOf a := by
  unfold State.contextOf; rw [h]

theorem State.targetOf_congr (a : Reservation) {s t : State} (h : t.moves = s.moves) :
    t.targetOf a = s.targetOf a := by
  unfold State.targetOf; rw [State.contextOf_congr a h]


@[simp] theorem State.freeContextOf_pending (a : Reservation) (s : State) :
    (s.freeContextOf a).pending = s.pending := by
  unfold State.freeContextOf; split <;> rfl

@[simp] theorem State.freeContextOf_resetLow (a : Reservation) (s : State) :
    (s.freeContextOf a).resetLow = s.resetLow := by
  unfold State.freeContextOf; split <;> rfl

@[simp] theorem State.freeContextOf_map (a : Reservation) (s : State) :
    (s.freeContextOf a).map = s.map := by
  unfold State.freeContextOf; split <;> rfl

@[simp] theorem State.freeContextOf_pool (a : Reservation) (s : State) :
    (s.freeContextOf a).pool = s.pool := by
  unfold State.freeContextOf; split <;> rfl

@[simp] theorem State.freeContextOf_engine (a : Reservation) (s : State) :
    (s.freeContextOf a).engine = s.engine := by
  unfold State.freeContextOf; split <;> rfl

@[simp] theorem State.freeContextOf_waits (a : Reservation) (s : State) :
    (s.freeContextOf a).waits = s.waits := by
  unfold State.freeContextOf; split <;> rfl

@[simp] theorem State.freeContextOf_timing (a : Reservation) (s : State) :
    (s.freeContextOf a).timing = s.timing := by
  unfold State.freeContextOf; split <;> rfl

@[simp] theorem State.freeContextOf_marks (a : Reservation) (s : State) :
    (s.freeContextOf a).marks = s.marks := by
  unfold State.freeContextOf; split <;> rfl

@[simp] theorem State.freeContextOf_ports (a : Reservation) (s : State) :
    (s.freeContextOf a).ports = s.ports := by
  unfold State.freeContextOf; split <;> rfl

@[simp] theorem State.freeContextOf_units (a : Reservation) (s : State) :
    (s.freeContextOf a).units = s.units := by
  unfold State.freeContextOf; split <;> rfl

@[simp] theorem State.freeContextOf_reports (a : Reservation) (s : State) :
    (s.freeContextOf a).reports = s.reports := by
  unfold State.freeContextOf; split <;> rfl

@[simp] theorem State.freeContextOf_params (a : Reservation) (s : State) :
    (s.freeContextOf a).params = s.params := by
  unfold State.freeContextOf; split <;> rfl

@[simp] theorem State.freeContextOf_moves (a : Reservation) (s : State) :
    (s.freeContextOf a).moves = match s.contextOf a with
      | some (k, _) => s.moves.set k none
      | none => s.moves := by
  unfold State.freeContextOf
  split <;> simp_all

@[simp] theorem State.postCause_pending (cause : Cause) (releasing : Option Port) (h : Handle) (a : Reservation) (s : State) :
    (s.postCause cause releasing h a).pending = s.pending := by
  unfold State.postCause; split <;> first | rfl | simp | (split <;> simp)

@[simp] theorem State.postCause_resetLow (cause : Cause) (releasing : Option Port) (h : Handle) (a : Reservation) (s : State) :
    (s.postCause cause releasing h a).resetLow = s.resetLow := by
  unfold State.postCause; split <;> first | rfl | simp | (split <;> simp)

@[simp] theorem State.postCause_map (cause : Cause) (releasing : Option Port) (h : Handle) (a : Reservation) (s : State) :
    (s.postCause cause releasing h a).map = s.map := by
  unfold State.postCause; split <;> first | rfl | simp | (split <;> simp)

@[simp] theorem State.postCause_pool (cause : Cause) (releasing : Option Port) (h : Handle) (a : Reservation) (s : State) :
    (s.postCause cause releasing h a).pool = s.pool := by
  unfold State.postCause; split <;> first | rfl | simp | (split <;> simp)

@[simp] theorem State.postCause_engine (cause : Cause) (releasing : Option Port) (h : Handle) (a : Reservation) (s : State) :
    (s.postCause cause releasing h a).engine = s.engine := by
  unfold State.postCause; split <;> first | rfl | simp | (split <;> simp)

@[simp] theorem State.postCause_waits (cause : Cause) (releasing : Option Port) (h : Handle) (a : Reservation) (s : State) :
    (s.postCause cause releasing h a).waits = s.waits := by
  unfold State.postCause; split <;> first | rfl | simp | (split <;> simp)

@[simp] theorem State.postCause_timing (cause : Cause) (releasing : Option Port) (h : Handle) (a : Reservation) (s : State) :
    (s.postCause cause releasing h a).timing = s.timing := by
  unfold State.postCause; split <;> first | rfl | simp | (split <;> simp)

@[simp] theorem State.postCause_marks (cause : Cause) (releasing : Option Port) (h : Handle) (a : Reservation) (s : State) :
    (s.postCause cause releasing h a).marks = s.marks := by
  unfold State.postCause; split <;> first | rfl | simp | (split <;> simp)

@[simp] theorem State.postCause_moves (cause : Cause) (releasing : Option Port) (h : Handle) (a : Reservation) (s : State) :
    (s.postCause cause releasing h a).moves = s.moves := by
  unfold State.postCause; split <;> first | rfl | simp | (split <;> simp)

@[simp] theorem State.postCause_units (cause : Cause) (releasing : Option Port) (h : Handle) (a : Reservation) (s : State) :
    (s.postCause cause releasing h a).units = s.units := by
  unfold State.postCause; split <;> first | rfl | simp | (split <;> simp)

@[simp] theorem State.postCause_reports (cause : Cause) (releasing : Option Port) (h : Handle) (a : Reservation) (s : State) :
    (s.postCause cause releasing h a).reports = s.reports := by
  unfold State.postCause; split <;> first | rfl | simp | (split <;> simp)

@[simp] theorem State.postCause_params (cause : Cause) (releasing : Option Port) (h : Handle) (a : Reservation) (s : State) :
    (s.postCause cause releasing h a).params = s.params := by
  unfold State.postCause; split <;> first | rfl | simp | (split <;> simp)

@[simp] theorem State.postReleased_pending (releasing : Option Port) (h : Handle) (ctx : Option (CtxIx × MoveContext)) (s : State) :
    (s.postReleased releasing h ctx).pending = s.pending := by
  unfold State.postReleased; split <;> [split <;> [split <;> simp; rfl]; rfl]

@[simp] theorem State.postReleased_resetLow (releasing : Option Port) (h : Handle) (ctx : Option (CtxIx × MoveContext)) (s : State) :
    (s.postReleased releasing h ctx).resetLow = s.resetLow := by
  unfold State.postReleased; split <;> [split <;> [split <;> simp; rfl]; rfl]

@[simp] theorem State.postReleased_map (releasing : Option Port) (h : Handle) (ctx : Option (CtxIx × MoveContext)) (s : State) :
    (s.postReleased releasing h ctx).map = s.map := by
  unfold State.postReleased; split <;> [split <;> [split <;> simp; rfl]; rfl]

@[simp] theorem State.postReleased_pool (releasing : Option Port) (h : Handle) (ctx : Option (CtxIx × MoveContext)) (s : State) :
    (s.postReleased releasing h ctx).pool = s.pool := by
  unfold State.postReleased; split <;> [split <;> [split <;> simp; rfl]; rfl]

@[simp] theorem State.postReleased_engine (releasing : Option Port) (h : Handle) (ctx : Option (CtxIx × MoveContext)) (s : State) :
    (s.postReleased releasing h ctx).engine = s.engine := by
  unfold State.postReleased; split <;> [split <;> [split <;> simp; rfl]; rfl]

@[simp] theorem State.postReleased_waits (releasing : Option Port) (h : Handle) (ctx : Option (CtxIx × MoveContext)) (s : State) :
    (s.postReleased releasing h ctx).waits = s.waits := by
  unfold State.postReleased; split <;> [split <;> [split <;> simp; rfl]; rfl]

@[simp] theorem State.postReleased_timing (releasing : Option Port) (h : Handle) (ctx : Option (CtxIx × MoveContext)) (s : State) :
    (s.postReleased releasing h ctx).timing = s.timing := by
  unfold State.postReleased; split <;> [split <;> [split <;> simp; rfl]; rfl]

@[simp] theorem State.postReleased_marks (releasing : Option Port) (h : Handle) (ctx : Option (CtxIx × MoveContext)) (s : State) :
    (s.postReleased releasing h ctx).marks = s.marks := by
  unfold State.postReleased; split <;> [split <;> [split <;> simp; rfl]; rfl]

@[simp] theorem State.postReleased_moves (releasing : Option Port) (h : Handle) (ctx : Option (CtxIx × MoveContext)) (s : State) :
    (s.postReleased releasing h ctx).moves = s.moves := by
  unfold State.postReleased; split <;> [split <;> [split <;> simp; rfl]; rfl]

@[simp] theorem State.postReleased_units (releasing : Option Port) (h : Handle) (ctx : Option (CtxIx × MoveContext)) (s : State) :
    (s.postReleased releasing h ctx).units = s.units := by
  unfold State.postReleased; split <;> [split <;> [split <;> simp; rfl]; rfl]

@[simp] theorem State.postReleased_reports (releasing : Option Port) (h : Handle) (ctx : Option (CtxIx × MoveContext)) (s : State) :
    (s.postReleased releasing h ctx).reports = s.reports := by
  unfold State.postReleased; split <;> [split <;> [split <;> simp; rfl]; rfl]

@[simp] theorem State.postReleased_params (releasing : Option Port) (h : Handle) (ctx : Option (CtxIx × MoveContext)) (s : State) :
    (s.postReleased releasing h ctx).params = s.params := by
  unfold State.postReleased; split <;> [split <;> [split <;> simp; rfl]; rfl]

/-- The events of the cause at a port (R37). -/
def causeEvents (cause : Cause) (releasing : Option Port) (now : Word) (h : Handle) (a : Reservation) (q : Port) :
    List Event :=
  match cause with
  | .release => []
  | .force => eventIf (decide (a.owner = q) && decide (releasing ≠ some a.owner)) now (.releasedByAdmin h a.set)
  | .expiry => eventIf (decide (a.owner = q)) now (.expired h a.set)
  | .reset => []

theorem State.postCause_eventsBy (cause : Cause) (releasing : Option Port) (h : Handle) (a : Reservation) (s : State) :
    s.EventsBy (causeEvents cause releasing s.now h a) (s.postCause cause releasing h a) := by
  unfold State.postCause
  cases cause with
  | release => exact State.EventsBy.refl s
  | reset => exact State.EventsBy.refl s
  | expiry => exact (State.post_eventsBy none s.now _ a.owner s).congr fun q => by simp [causeEvents]
  | force =>
    dsimp only
    split
    · next hr => exact (State.EventsBy.refl s).congr fun q => by simp [causeEvents, hr]
    · next hr => exact (State.post_eventsBy none s.now _ a.owner s).congr fun q => by simp [causeEvents, hr]

/-- MOVE_ABANDONED with reason RELEASED at a port (R36, R118). -/
def releasedEvents (releasing : Option Port) (now : Word) (h : Handle) (ctx : Option (CtxIx × MoveContext)) (q : Port) :
    List Event :=
  match ctx with
  | some (_, c) => eventIf (decide (c.requesterPort = some q) && decide (releasing ≠ some q)) now
      (.moveAbandoned h c.tagField c.target .released)
  | none => []

theorem State.postReleased_eventsBy (releasing : Option Port) (h : Handle) (ctx : Option (CtxIx × MoveContext))
    (s : State) : s.EventsBy (releasedEvents releasing s.now h ctx) (s.postReleased releasing h ctx) := by
  unfold State.postReleased releasedEvents
  cases ctx with
  | none => exact State.EventsBy.refl s
  | some x =>
    obtain ⟨k, c⟩ := x
    dsimp only
    unfold MoveContext.requesterPort
    cases hr : c.requester with
    | none => exact (State.EventsBy.refl s).congr fun q => by simp
    | some x =>
      obtain ⟨r, t⟩ := x
      dsimp only
      split
      · next e =>
        refine (State.EventsBy.refl s).congr fun q => ?_
        by_cases hq : r = q
        · subst hq; simp [e]
        · simp [hq]
      · next e =>
        refine (State.post_eventsBy none s.now _ r s).congr fun q => ?_
        by_cases hq : r = q
        · subst hq; simp [e]
        · simp [hq]

theorem State.postCause_others (cause : Cause) (releasing : Option Port) (h : Handle) (a : Reservation) (q : Port)
    (s : State) :
    (s.postCause cause releasing h a).ports.get q = { s.ports.get q with
      events := ((s.postCause cause releasing h a).ports.get q).events
      lost := ((s.postCause cause releasing h a).ports.get q).lost } := by
  unfold State.postCause
  split <;> [rfl; split; skip; rfl]
  · rfl
  all_goals
    rw [State.post_ports]
    split
    · rw [ClientPort.post_eq]
    · rfl

theorem State.postReleased_others (releasing : Option Port) (h : Handle) (ctx : Option (CtxIx × MoveContext)) (q : Port)
    (s : State) :
    (s.postReleased releasing h ctx).ports.get q = { s.ports.get q with
      events := ((s.postReleased releasing h ctx).ports.get q).events
      lost := ((s.postReleased releasing h ctx).ports.get q).lost } := by
  unfold State.postReleased
  split
  · split
    · split
      · rfl
      · rw [State.post_ports]
        split
        · rw [ClientPort.post_eq]
        · rfl
    · rfl
  · rfl

theorem State.post_others (mute : Option Port) (stamp : Word) (body : EventBody) (p q : Port) (s : State) :
    (s.post mute stamp body p).ports.get q = { s.ports.get q with
      events := ((s.post mute stamp body p).ports.get q).events
      lost := ((s.post mute stamp body p).ports.get q).lost } := by
  rw [State.post_ports]
  split
  · rw [ClientPort.post_eq]
  · rfl

/-- A free record is not released. -/
theorem State.releaseRecord_none (i : RecIx) (cause : Cause) (releasing : Option Port) (s : State)
    (h : s.reservation i = none) : s.releaseRecord i cause releasing = s := by
  unfold State.releaseRecord; rw [h]

/-- The recovery is due once one more record is free (R32). -/
def State.recoveryAfterFreeing (s : State) : Bool :=
  !s.pool.warnArmed && decide (s.recoveryLevel ≤ s.freeRecords + 1)

/-- A PENDING set was found LIVE by the give-up claim (R37). -/
def State.foundLive (a : Reservation) (s : State) : Bool :=
  decide (a.state = .pending) && decide (s.releaseDrained a ≠ 0)


@[simp] theorem State.releaseRecord_pending (i : RecIx) (cause : Cause) (releasing : Option Port) (s : State) :
    (s.releaseRecord i cause releasing).pending = s.pending := by
  unfold State.releaseRecord
  split
  · rfl
  · dsimp only; split <;> simp

@[simp] theorem State.releaseRecord_resetLow (i : RecIx) (cause : Cause) (releasing : Option Port) (s : State) :
    (s.releaseRecord i cause releasing).resetLow = s.resetLow := by
  unfold State.releaseRecord
  split
  · rfl
  · dsimp only; split <;> simp

@[simp] theorem State.releaseRecord_waits (i : RecIx) (cause : Cause) (releasing : Option Port) (s : State) :
    (s.releaseRecord i cause releasing).waits = s.waits := by
  unfold State.releaseRecord
  split
  · rfl
  · dsimp only; split <;> simp

@[simp] theorem State.releaseRecord_timing (i : RecIx) (cause : Cause) (releasing : Option Port) (s : State) :
    (s.releaseRecord i cause releasing).timing = s.timing := by
  unfold State.releaseRecord
  split
  · rfl
  · dsimp only; split <;> simp

@[simp] theorem State.releaseRecord_marks (i : RecIx) (cause : Cause) (releasing : Option Port) (s : State) :
    (s.releaseRecord i cause releasing).marks = s.marks := by
  unfold State.releaseRecord
  split
  · rfl
  · dsimp only; split <;> simp

@[simp] theorem State.releaseRecord_units (i : RecIx) (cause : Cause) (releasing : Option Port) (s : State) :
    (s.releaseRecord i cause releasing).units = s.units := by
  unfold State.releaseRecord
  split
  · rfl
  · dsimp only; split <;> simp

@[simp] theorem State.releaseRecord_params (i : RecIx) (cause : Cause) (releasing : Option Port) (s : State) :
    (s.releaseRecord i cause releasing).params = s.params := by
  unfold State.releaseRecord
  split
  · rfl
  · dsimp only; split <;> simp

theorem State.releaseRecord_map {i : RecIx} {a : Reservation} (cause : Cause) (releasing : Option Port) {s : State}
    (h : s.reservation i = some a) :
    (s.releaseRecord i cause releasing).map = s.map.rewrite (s.releaseClaim a) := by
  unfold State.releaseRecord
  rw [h]
  dsimp only
  split <;> simp

theorem State.releaseRecord_engine {i : RecIx} {a : Reservation} (cause : Cause) (releasing : Option Port) {s : State}
    (h : s.reservation i = some a) :
    (s.releaseRecord i cause releasing).engine = { s.engine with waitReq := true } := by
  unfold State.releaseRecord
  rw [h]
  dsimp only
  split <;> simp

theorem State.releaseRecord_pool {i : RecIx} {a : Reservation} (cause : Cause) (releasing : Option Port) {s : State}
    (h : s.reservation i = some a) :
    (s.releaseRecord i cause releasing).pool = { s.pool with
      records := s.pool.records.set i ⟨(s.pool.records.get i).gen + 1#8, none⟩
      fifo := s.pool.fifo ++ [i]
      warnArmed := s.pool.warnArmed || s.recoveryAfterFreeing } := by
  unfold State.releaseRecord
  rw [h]
  dsimp only
  split <;> simp [State.recoveryDue, State.recoveryLevel, State.recoveryAfterFreeing, State.freeRecords, Table.modify]

theorem State.releaseRecord_moves {i : RecIx} {a : Reservation} (cause : Cause) (releasing : Option Port) {s : State}
    (h : s.reservation i = some a) :
    (s.releaseRecord i cause releasing).moves = match s.contextOf a with
      | some (k, _) => s.moves.set k none
      | none => s.moves := by
  unfold State.releaseRecord
  rw [h]
  dsimp only
  split <;> simp [State.contextOf_congr a (State.claim_moves _ _ s)]

theorem State.releaseRecord_reports {i : RecIx} {a : Reservation} (cause : Cause) (releasing : Option Port) {s : State}
    (h : s.reservation i = some a) :
    (s.releaseRecord i cause releasing).reports = { s.reports with watch := s.reports.watch ++
      (if (s.map.changes (s.releaseClaim a)).isEmpty then [] else [.slots (s.map.changes (s.releaseClaim a))]) ++
      [.record (handleOf i (s.pool.records.get i).gen) none] } := by
  unfold State.releaseRecord
  rw [h]
  dsimp only
  split <;> simp

/-- The events of the release procedure at a port, in the order of R37, BAR_DONE of the give-up claim first. -/
def State.releaseEvents (i : RecIx) (a : Reservation) (cause : Cause) (releasing : Option Port) (s : State) (q : Port) :
    List Event :=
  let h := handleOf i (s.pool.records.get i).gen
  let mute := muteOf cause releasing
  let bars := completedBars (s.map.changes (s.releaseClaim a))
  let notices := (s.ports.get q).attrs.notices && decide (mute ≠ some q)
  eventIf (notices && !bars.isEmpty) s.now (.barDone bars.length (barDoneSet bars)) ++
    eventIf (s.foundLive a && decide (a.owner = q) && decide (mute ≠ some a.owner)) s.now (.live h a.set) ++
    releasedEvents releasing s.now h (s.contextOf a) q ++ causeEvents cause releasing s.now h a q ++
    eventIf (notices && s.recoveryAfterFreeing) s.now (.poolRecovered (s.freeRecords + 1))

/-- The port `q` after the release of record `i`: its holdings fall where it is the owner, and events are posted. -/
theorem State.releaseRecord_others (q : Port) {i : RecIx} {a : Reservation} (cause : Cause)
    (releasing : Option Port) {s : State} (h : s.reservation i = some a) :
    (s.releaseRecord i cause releasing).ports.get q = { s.ports.get q with
      events := ((s.releaseRecord i cause releasing).ports.get q).events
      lost := ((s.releaseRecord i cause releasing).ports.get q).lost
      ownedSlots := if a.owner = q then (s.ports.get q).ownedSlots - setTotal a.set else (s.ports.get q).ownedSlots
      ownedRecords := if a.owner = q then (s.ports.get q).ownedRecords - 1 else (s.ports.get q).ownedRecords } := by
  unfold State.releaseRecord
  rw [h]
  dsimp only
  rw [State.judgeRecovery_others, State.postCause_others, State.postReleased_others]
  split
  · rw [State.post_others]
    simp only [State.handReport_ports, State.requestPass_ports, State.freeRecord_ports, State.freeContextOf_ports,
      Table.get_modify]
    split <;> rw [State.claim_others]
  · simp only [State.handReport_ports, State.requestPass_ports, State.freeRecord_ports, State.freeContextOf_ports,
      Table.get_modify]
    split <;> rw [State.claim_others]

theorem State.releaseRecord_eventsBy {i : RecIx} {a : Reservation} (cause : Cause) (releasing : Option Port)
    {s : State} (h : s.reservation i = some a) :
    s.EventsBy (s.releaseEvents i a cause releasing) (s.releaseRecord i cause releasing) := by
  unfold State.releaseRecord
  rw [h]
  dsimp only
  have e1 := State.claim_eventsBy (muteOf cause releasing) (s.releaseClaim a) s
  let s3 := (((s.claim (muteOf cause releasing) (s.releaseClaim a)).freeContextOf a).freeRecord i a).requestPass.handReport
    (.record (handleOf i (s.pool.records.get i).gen) none)
  have e3 : s.EventsBy _ s3 := e1.of_right (t' := s3) (by
    intro q
    show (s3.ports.get q).events = _ ∧ (s3.ports.get q).lost = _
    simp only [s3, State.handReport_ports, State.requestPass_ports, State.freeRecord_ports, State.freeContextOf_ports,
      Table.get_modify]
    split <;> exact ⟨rfl, rfl⟩)
  have n3 : s3.now = s.now := by simp [s3, State.now]
  let s4 := if (decide (a.state = .pending) && decide (s.releaseDrained a ≠ 0)) = true then
      s3.post (muteOf cause releasing) s3.now (.live (handleOf i (s.pool.records.get i).gen) a.set) a.owner else s3
  have n4 : s4.now = s.now := by
    simp only [s4]; split
    · simpa [State.now] using n3
    · exact n3
  have e4 : s3.EventsBy (fun q => eventIf (s.foundLive a && decide (a.owner = q) &&
      decide (muteOf cause releasing ≠ some a.owner)) s.now (.live (handleOf i (s.pool.records.get i).gen) a.set)) s4 := by
    simp only [s4]
    split
    · next hf =>
      have hf' : s.foundLive a = true := hf
      exact (State.post_eventsBy _ _ _ _ s3).congr fun q => by simp [hf', n3]
    · next hf =>
      have hf' : s.foundLive a = false := by simpa [State.foundLive] using hf
      exact (State.EventsBy.refl s3).congr fun q => by simp [hf']
  have e5 := State.postReleased_eventsBy releasing (handleOf i (s.pool.records.get i).gen) (s.contextOf a) s4
  rw [n4] at e5
  let s5 := s4.postReleased releasing (handleOf i (s.pool.records.get i).gen) (s.contextOf a)
  have n5 : s5.now = s.now := by simpa [s5, State.now] using n4
  have e6 := State.postCause_eventsBy cause releasing (handleOf i (s.pool.records.get i).gen) a s5
  rw [n5] at e6
  let s6 := s5.postCause cause releasing (handleOf i (s.pool.records.get i).gen) a
  have n6 : s6.now = s.now := by simpa [s6, State.now] using n5
  have p6 : s6.pool = s3.pool ∧ s6.params = s3.params := by
    simp only [s6, s5, s4, State.postCause_pool, State.postCause_params, State.postReleased_pool,
      State.postReleased_params]
    split <;> simp
  have r6 : s6.recoveryDue = s.recoveryAfterFreeing ∧ s6.freeRecords = s.freeRecords + 1 := by
    unfold State.recoveryDue State.recoveryLevel State.freeRecords State.recoveryAfterFreeing
    rw [p6.1, p6.2]
    simp [s3, State.recoveryLevel, State.freeRecords]
  have e7 := State.judgeRecovery_eventsBy (muteOf cause releasing) s6
  rw [n6, r6.1, r6.2] at e7
  refine ((((e3.trans e4).trans e5).trans e6).trans e7).congr fun q => ?_
  have hn : (s6.ports.get q).attrs = (s.ports.get q).attrs := by
    simp only [s6]
    rw [State.postCause_others, State.postReleased_others]
    simp only [s4]
    have h3 : (s3.ports.get q).attrs = (s.ports.get q).attrs := by
      simp only [s3, State.handReport_ports, State.requestPass_ports, State.freeRecord_ports, State.freeContextOf_ports,
        Table.get_modify]
      split <;> rw [State.claim_others]
    split
    · rw [State.post_others]; exact h3
    · exact h3
  rw [hn]
  rfl

end Sys2Proof.Machine
end

