-- ==== Sys2Proof/Laws/Moves.lean ====
section
/-! SUPPORT. What an abandonment, a port reset's first steps and the removal of a wait entry do (R80, R82, R117, R185). -/

namespace Sys2Proof.Machine

/-! ## Who is told -/

theorem ownerThenRequester_nodup (owner : Option Port) (c : MoveContext) : (ownerThenRequester owner c).Nodup := by
  unfold ownerThenRequester
  cases owner with
  | none => cases c.requesterPort <;> simp
  | some p =>
    cases c.requesterPort with
    | none => simp
    | some q =>
      by_cases h : p = q
      · simp [h]
      · simp [h]

theorem mem_ownerThenRequester (owner : Option Port) (c : MoveContext) (q : Port) :
    q ∈ ownerThenRequester owner c ↔ owner = some q ∨ c.requesterPort = some q := by
  unfold ownerThenRequester
  cases owner with
  | none => cases c.requesterPort <;> simp [eq_comm]
  | some p =>
    cases c.requesterPort with
    | none => simp [eq_comm]
    | some r =>
      by_cases h : p = r
      · subst h; simp [eq_comm]
      · simp [h, eq_comm]

theorem abandonRecipients_nodup (reason : Reason) (owner : Option Port) (c : MoveContext) :
    (abandonRecipients reason owner c).Nodup := by
  cases reason <;> first
    | exact ownerThenRequester_nodup owner c
    | (show c.requesterPort.toList.Nodup; cases c.requesterPort <;> simp)

/-! ## Abandonment -/

/-- A free context is not abandoned. -/
theorem State.abandonMove_none (k : CtxIx) (reason : Reason) (stamp : Word) (mute : Option Port) (s : State)
    (h : s.moves.get k = none) : s.abandonMove k reason stamp mute = s := by
  unfold State.abandonMove; rw [h]

@[simp] theorem State.abandonMove_pending (k : CtxIx) (reason : Reason) (stamp : Word) (mute : Option Port) (s : State) :
    (s.abandonMove k reason stamp mute).pending = s.pending := by
  unfold State.abandonMove State.returnToLive; split <;> simp

@[simp] theorem State.abandonMove_resetLow (k : CtxIx) (reason : Reason) (stamp : Word) (mute : Option Port) (s : State) :
    (s.abandonMove k reason stamp mute).resetLow = s.resetLow := by
  unfold State.abandonMove State.returnToLive; split <;> simp

@[simp] theorem State.abandonMove_waits (k : CtxIx) (reason : Reason) (stamp : Word) (mute : Option Port) (s : State) :
    (s.abandonMove k reason stamp mute).waits = s.waits := by
  unfold State.abandonMove State.returnToLive; split <;> simp

@[simp] theorem State.abandonMove_timing (k : CtxIx) (reason : Reason) (stamp : Word) (mute : Option Port) (s : State) :
    (s.abandonMove k reason stamp mute).timing = s.timing := by
  unfold State.abandonMove State.returnToLive; split <;> simp

@[simp] theorem State.abandonMove_marks (k : CtxIx) (reason : Reason) (stamp : Word) (mute : Option Port) (s : State) :
    (s.abandonMove k reason stamp mute).marks = s.marks := by
  unfold State.abandonMove State.returnToLive; split <;> simp

@[simp] theorem State.abandonMove_units (k : CtxIx) (reason : Reason) (stamp : Word) (mute : Option Port) (s : State) :
    (s.abandonMove k reason stamp mute).units = s.units := by
  unfold State.abandonMove State.returnToLive; split <;> simp

@[simp] theorem State.abandonMove_params (k : CtxIx) (reason : Reason) (stamp : Word) (mute : Option Port) (s : State) :
    (s.abandonMove k reason stamp mute).params = s.params := by
  unfold State.abandonMove State.returnToLive; split <;> simp

theorem State.abandonMove_map {k : CtxIx} {c : MoveContext} (reason : Reason) (stamp : Word)
    (mute : Option Port) {s : State} (h : s.moves.get k = some c) :
    (s.abandonMove k reason stamp mute).map = s.map.rewrite (giveUpSlot s.params.guard c.target) := by
  unfold State.abandonMove State.returnToLive
  rw [h]
  simp

theorem State.abandonMove_engine {k : CtxIx} {c : MoveContext} (reason : Reason) (stamp : Word)
    (mute : Option Port) {s : State} (h : s.moves.get k = some c) :
    (s.abandonMove k reason stamp mute).engine = { s.engine with
      waitReq := s.engine.waitReq ||
        (s.map.changes (giveUpSlot s.params.guard c.target)).any (fun x => decide (x.after = .free)) } := by
  unfold State.abandonMove State.returnToLive
  rw [h]
  simp

theorem State.abandonMove_moves {k : CtxIx} {c : MoveContext} (reason : Reason) (stamp : Word)
    (mute : Option Port) {s : State} (h : s.moves.get k = some c) :
    (s.abandonMove k reason stamp mute).moves = s.moves.set k none := by
  unfold State.abandonMove State.returnToLive
  rw [h]
  simp

theorem State.abandonMove_pool {k : CtxIx} {c : MoveContext} (reason : Reason) (stamp : Word)
    (mute : Option Port) {s : State} (h : s.moves.get k = some c) :
    (s.abandonMove k reason stamp mute).pool = { s.pool with records := s.pool.records.modify c.index (fun r =>
      { r with alloc := r.alloc.map fun a => { a with state := .live, context := none } }) } := by
  unfold State.abandonMove State.returnToLive
  rw [h]
  simp

theorem State.abandonMove_reports {k : CtxIx} {c : MoveContext} (reason : Reason) (stamp : Word)
    (mute : Option Port) {s : State} (h : s.moves.get k = some c) :
    (s.abandonMove k reason stamp mute).reports = { s.reports with watch := s.reports.watch ++
      (if (s.map.changes (giveUpSlot s.params.guard c.target)).isEmpty then []
        else [.slots (s.map.changes (giveUpSlot s.params.guard c.target))]) ++
      [.record (handleOf c.index c.gen) (some .live)] } := by
  unfold State.abandonMove State.returnToLive
  rw [h]
  simp

theorem State.abandonMove_eventsBy {k : CtxIx} {c : MoveContext} (reason : Reason) (stamp : Word) (mute : Option Port)
    {s : State} (h : s.moves.get k = some c) :
    s.EventsBy (fun q =>
      eventIf ((s.ports.get q).attrs.notices && decide (mute ≠ some q) &&
          !(completedBars (s.map.changes (giveUpSlot s.params.guard c.target))).isEmpty) s.now
        (.barDone (completedBars (s.map.changes (giveUpSlot s.params.guard c.target))).length
          (barDoneSet (completedBars (s.map.changes (giveUpSlot s.params.guard c.target))))) ++
      eventIf (decide (q ∈ abandonRecipients reason (s.ownerOf c.index) c) && decide (mute ≠ some q)) stamp
        (.moveAbandoned (handleOf c.index c.gen) c.tagField c.target reason))
      (s.abandonMove k reason stamp mute) := by
  unfold State.abandonMove State.returnToLive
  rw [h]
  dsimp only
  have e1 := State.claim_eventsBy mute (giveUpSlot s.params.guard c.target) s
  refine State.EventsBy.of_right (t := State.postEach mute stamp _ _ _) ?_ fun q => ⟨rfl, rfl⟩
  exact e1.trans ((State.postEach_eventsBy mute stamp _ _ _ (abandonRecipients_nodup _ _ _)).of_left
    fun q => ⟨rfl, rfl⟩)

/-- An abandonment changes event queues and lost counts and nothing else of any port. -/
theorem State.abandonMove_others (k : CtxIx) (reason : Reason) (stamp : Word) (mute : Option Port) (q : Port)
    (s : State) :
    (s.abandonMove k reason stamp mute).ports.get q = { s.ports.get q with
      events := ((s.abandonMove k reason stamp mute).ports.get q).events
      lost := ((s.abandonMove k reason stamp mute).ports.get q).lost } := by
  unfold State.abandonMove State.returnToLive
  cases h : s.moves.get k with
  | none => rfl
  | some c =>
    dsimp only
    rw [State.handReport_ports, State.postEach_others]
    simp only [State.setMove_ports, State.modReservation_ports]
    rw [State.claim_others]

/-! ## Give-up claims made twice -/

/-- Giving up twice is giving up the runs of both lists (R8): a slot given up holds nothing to give up. -/
theorem giveUpSlot_append (guard : Nat) (xs ys : List Run) (i : Nat) (e : Slot) :
    giveUpSlot guard ys i (giveUpSlot guard xs i e) = giveUpSlot guard (xs ++ ys) i e := by
  unfold giveUpSlot inSet
  rw [List.any_append]
  cases xs.any (fun r => r.has i) <;> cases ys.any (fun r => r.has i) <;>
    rcases e with _ | ⟨x, r, a, b⟩ | ⟨x, r, b⟩ | ⟨n, b⟩ | _ <;> first | rfl | (cases b <;> rfl)

@[simp] theorem giveUpSlot_nil (guard : Nat) (i : Nat) (e : Slot) : giveUpSlot guard [] i e = e := by
  simp [giveUpSlot, inSet]

/-- What a give-up claim does to the state of a slot (R8, Table 1-4). -/
theorem giveUpSlot_state (guard : Nat) (set : List Run) (i : Nat) (e : Slot) :
    (giveUpSlot guard set i e).state =
      if inSet set i = true ∧ e.state = .held then (if e.barPending then .barred else .free)
      else if inSet set i = true ∧ e.state = .live then .draining
      else e.state := by
  unfold giveUpSlot
  cases inSet set i
  · simp
  · rcases e with _ | ⟨x, r, a, b⟩ | ⟨x, r, b⟩ | ⟨n, b⟩ | _ <;> first | rfl | (cases b <;> rfl)

/-- The bars a give-up claim completes: the HELD slots of the set with bar pending, ascending (R12). -/
theorem giveUpSlot_bars (guard : Nat) (set : List Run) (m : SlotMap) :
    completedBars (m.changes (giveUpSlot guard set)) = ((List.finRange 512).filter fun j =>
      inSet set j.val && (m.entries.get j).barPending && decide ((m.entries.get j).state = .held)).map Fin.val := by
  rw [SlotMap.completedBars_changes]
  refine congrArg (List.map Fin.val) (List.filter_congr ?_)
  intro j _
  rw [giveUpSlot_state]
  rcases m.entries.get j with _ | ⟨x, r, a, b⟩ | ⟨x, r, b⟩ | ⟨n, b⟩ | _ <;> cases inSet set j.val <;>
    first | rfl | (cases b <;> rfl)

/-- A give-up claim returns capacity where it finds a HELD slot without bar pending (R19). -/
theorem giveUpSlot_free (guard : Nat) (set : List Run) (m : SlotMap) :
    ((m.changes (giveUpSlot guard set)).any fun c => decide (c.after = .free)) = (List.finRange 512).any fun j =>
      inSet set j.val && !(m.entries.get j).barPending && decide ((m.entries.get j).state = .held) := by
  rw [SlotMap.any_changes]
  refine congrArg (List.any (List.finRange 512)) ?_
  funext j
  rw [giveUpSlot_state]
  rcases m.entries.get j with _ | ⟨x, r, a, b⟩ | ⟨x, r, b⟩ | ⟨n, b⟩ | _ <;> cases inSet set j.val <;>
    first | rfl | (cases b <;> rfl)

/-- The slots a give-up claim puts into DRAINING are the LIVE slots of the set (R8, R39). -/
theorem giveUpSlot_drained (guard : Nat) (set : List Run) (m : SlotMap) :
    entering .draining (m.changes (giveUpSlot guard set)) = (List.finRange 512).countP fun j =>
      inSet set j.val && decide ((m.entries.get j).state = .live) := by
  unfold entering
  rw [SlotMap.countP_changes]
  apply List.countP_congr
  intro j _
  rw [giveUpSlot_state]
  rcases m.entries.get j with _ | ⟨x, r, a, b⟩ | ⟨x, r, b⟩ | ⟨n, b⟩ | _ <;> cases inSet set j.val <;>
    first | rfl | (cases b <;> rfl)

/-! ## Wait entries -/

theorem State.removeEntry_eventsBy (e : WaitEntry) (s : State) : s.EventsBy (fun _ => []) (s.removeEntry e) := by
  unfold State.removeEntry
  exact (State.modPort_eventsBy e.port (fun c => { c with promised := c.promised - e.search.n }) s
    fun c => ⟨rfl, rfl⟩).of_right fun q => ⟨rfl, rfl⟩

end Sys2Proof.Machine
end

