-- ==== Sys2Proof/Laws/Watch.lean ====
section
/-! SUPPORT. What the taking of a report does to the watch units and to the event queues (R165, R166, R167). -/

namespace Sys2Proof.Machine

theorem targetPorts_nodup (targets : BitVec 6) : (targetPorts targets).Nodup :=
  (List.nodup_finRange 6).filter _

theorem mem_targetPorts (targets : BitVec 6) (q : Port) : q ∈ targetPorts targets ↔ targets.getLsbD q.val = true := by
  simp [targetPorts, allPorts]

/-! ## One judgement -/

@[simp] theorem State.judgeUnit_pending (k : UnitIx) (u : WatchUnit) (s : State) :
    (s.judgeUnit k u).pending = s.pending := by
  unfold State.judgeUnit; dsimp only; split <;> [rfl; split] <;> simp

@[simp] theorem State.judgeUnit_resetLow (k : UnitIx) (u : WatchUnit) (s : State) :
    (s.judgeUnit k u).resetLow = s.resetLow := by
  unfold State.judgeUnit; dsimp only; split <;> [rfl; split] <;> simp

@[simp] theorem State.judgeUnit_map (k : UnitIx) (u : WatchUnit) (s : State) :
    (s.judgeUnit k u).map = s.map := by
  unfold State.judgeUnit; dsimp only; split <;> [rfl; split] <;> simp

@[simp] theorem State.judgeUnit_pool (k : UnitIx) (u : WatchUnit) (s : State) :
    (s.judgeUnit k u).pool = s.pool := by
  unfold State.judgeUnit; dsimp only; split <;> [rfl; split] <;> simp

@[simp] theorem State.judgeUnit_engine (k : UnitIx) (u : WatchUnit) (s : State) :
    (s.judgeUnit k u).engine = s.engine := by
  unfold State.judgeUnit; dsimp only; split <;> [rfl; split] <;> simp

@[simp] theorem State.judgeUnit_waits (k : UnitIx) (u : WatchUnit) (s : State) :
    (s.judgeUnit k u).waits = s.waits := by
  unfold State.judgeUnit; dsimp only; split <;> [rfl; split] <;> simp

@[simp] theorem State.judgeUnit_timing (k : UnitIx) (u : WatchUnit) (s : State) :
    (s.judgeUnit k u).timing = s.timing := by
  unfold State.judgeUnit; dsimp only; split <;> [rfl; split] <;> simp

@[simp] theorem State.judgeUnit_marks (k : UnitIx) (u : WatchUnit) (s : State) :
    (s.judgeUnit k u).marks = s.marks := by
  unfold State.judgeUnit; dsimp only; split <;> [rfl; split] <;> simp

@[simp] theorem State.judgeUnit_moves (k : UnitIx) (u : WatchUnit) (s : State) :
    (s.judgeUnit k u).moves = s.moves := by
  unfold State.judgeUnit; dsimp only; split <;> [rfl; split] <;> simp

@[simp] theorem State.judgeUnit_reports (k : UnitIx) (u : WatchUnit) (s : State) :
    (s.judgeUnit k u).reports = s.reports := by
  unfold State.judgeUnit; dsimp only; split <;> [rfl; split] <;> simp

@[simp] theorem State.judgeUnit_params (k : UnitIx) (u : WatchUnit) (s : State) :
    (s.judgeUnit k u).params = s.params := by
  unfold State.judgeUnit; dsimp only; split <;> [rfl; split] <;> simp

/-- The unit after a judgement: the new condition, the new last result, and the fall of a ONE_SHOT unit to HELD (R167). -/
theorem State.judgeUnit_units (k : UnitIx) (u : WatchUnit) (cond : WatchCond) (s : State) :
    (s.judgeUnit k { u with cond := cond }).units = s.units.set k (some (u.judged cond)) := by
  unfold State.judgeUnit WatchUnit.judged
  dsimp only
  split
  · next h => simp [h]
  · next h =>
    split
    · next g =>
      simp only [Bool.and_eq_true] at g
      simp only [State.postEach_units, State.setUnit_units]
      congr 2
      simp only [h, g.1, g.2, ne_eq, not_false_eq_true, decide_true, Bool.and_self, Bool.true_and]
      cases u.mode <;> rfl
    · next g =>
      simp only [State.setUnit_units]
      congr 2
      have : (u.armed && !((decide (cond.result ≠ u.last) && u.edge.selects cond.result) &&
          decide (u.mode = .oneShot))) = u.armed := by
        cases ha : u.armed
        · rfl
        · have : u.edge.selects cond.result = false := by simpa [ha] using g
          simp [this]
      rw [this]

/-- The WATCH events of a judgement, at each queue (R167). -/
theorem State.judgeUnit_eventsBy (k : UnitIx) (u : WatchUnit) (cond : WatchCond) (s : State) :
    s.EventsBy (fun q => u.eventsAt k q s.now cond) (s.judgeUnit k { u with cond := cond }) := by
  unfold State.judgeUnit WatchUnit.eventsAt
  dsimp only
  split
  · next h => exact ((State.EventsBy.refl s).of_right fun q => ⟨rfl, rfl⟩).congr fun q => by simp [h]
  · next h =>
    split
    · next g =>
      simp only [Bool.and_eq_true] at g
      have e := State.postEach_eventsBy none s.now (.watch k cond.result) (targetPorts u.targets)
        (s.setUnit k (some { u with
          cond := cond, last := cond.result, armed := decide (u.mode = .continuous) })) (targetPorts_nodup _)
      refine (e.of_left fun q => ⟨rfl, rfl⟩).congr fun q => ?_
      simp [mem_targetPorts, h, g.1, g.2]
    · next g =>
      refine ((State.EventsBy.refl s).of_right fun q => ⟨rfl, rfl⟩).congr fun q => ?_
      have : (u.armed && u.edge.selects cond.result) = false := by simpa using g
      have : (u.armed && decide (cond.result ≠ u.last) && u.edge.selects cond.result) = false := by
        cases ha : u.armed
        · rfl
        · have : u.edge.selects cond.result = false := by simpa [ha] using this
          simp [this]
      rw [this]
      rfl

/-- A judgement changes event queues and lost counts and nothing else of any port. -/
theorem State.judgeUnit_others (k : UnitIx) (u : WatchUnit) (q : Port) (s : State) :
    (s.judgeUnit k u).ports.get q = { s.ports.get q with
      events := ((s.judgeUnit k u).ports.get q).events, lost := ((s.judgeUnit k u).ports.get q).lost } := by
  unfold State.judgeUnit
  dsimp only
  split
  · rfl
  · split
    · rw [State.postEach_others]; rfl
    · rfl

/-! ## One unit takes a report -/

@[simp] theorem State.takeSlots_pending (ch : List SlotChange) (s : State) (k : UnitIx) :
    (s.takeSlots ch k).pending = s.pending := by
  unfold State.takeSlots; split <;> [rfl; split <;> [rfl; split <;> simp]]

@[simp] theorem State.takeSlots_resetLow (ch : List SlotChange) (s : State) (k : UnitIx) :
    (s.takeSlots ch k).resetLow = s.resetLow := by
  unfold State.takeSlots; split <;> [rfl; split <;> [rfl; split <;> simp]]

@[simp] theorem State.takeSlots_map (ch : List SlotChange) (s : State) (k : UnitIx) :
    (s.takeSlots ch k).map = s.map := by
  unfold State.takeSlots; split <;> [rfl; split <;> [rfl; split <;> simp]]

@[simp] theorem State.takeSlots_pool (ch : List SlotChange) (s : State) (k : UnitIx) :
    (s.takeSlots ch k).pool = s.pool := by
  unfold State.takeSlots; split <;> [rfl; split <;> [rfl; split <;> simp]]

@[simp] theorem State.takeSlots_engine (ch : List SlotChange) (s : State) (k : UnitIx) :
    (s.takeSlots ch k).engine = s.engine := by
  unfold State.takeSlots; split <;> [rfl; split <;> [rfl; split <;> simp]]

@[simp] theorem State.takeSlots_waits (ch : List SlotChange) (s : State) (k : UnitIx) :
    (s.takeSlots ch k).waits = s.waits := by
  unfold State.takeSlots; split <;> [rfl; split <;> [rfl; split <;> simp]]

@[simp] theorem State.takeSlots_timing (ch : List SlotChange) (s : State) (k : UnitIx) :
    (s.takeSlots ch k).timing = s.timing := by
  unfold State.takeSlots; split <;> [rfl; split <;> [rfl; split <;> simp]]

@[simp] theorem State.takeSlots_marks (ch : List SlotChange) (s : State) (k : UnitIx) :
    (s.takeSlots ch k).marks = s.marks := by
  unfold State.takeSlots; split <;> [rfl; split <;> [rfl; split <;> simp]]

@[simp] theorem State.takeSlots_moves (ch : List SlotChange) (s : State) (k : UnitIx) :
    (s.takeSlots ch k).moves = s.moves := by
  unfold State.takeSlots; split <;> [rfl; split <;> [rfl; split <;> simp]]

@[simp] theorem State.takeSlots_reports (ch : List SlotChange) (s : State) (k : UnitIx) :
    (s.takeSlots ch k).reports = s.reports := by
  unfold State.takeSlots; split <;> [rfl; split <;> [rfl; split <;> simp]]

@[simp] theorem State.takeSlots_params (ch : List SlotChange) (s : State) (k : UnitIx) :
    (s.takeSlots ch k).params = s.params := by
  unfold State.takeSlots; split <;> [rfl; split <;> [rfl; split <;> simp]]

@[simp] theorem State.takeRecord_pending (h : Handle) (st : Option ResState) (s : State) (k : UnitIx) :
    (s.takeRecord h st k).pending = s.pending := by
  unfold State.takeRecord; split <;> [rfl; split <;> [rfl; split <;> simp]]

@[simp] theorem State.takeRecord_resetLow (h : Handle) (st : Option ResState) (s : State) (k : UnitIx) :
    (s.takeRecord h st k).resetLow = s.resetLow := by
  unfold State.takeRecord; split <;> [rfl; split <;> [rfl; split <;> simp]]

@[simp] theorem State.takeRecord_map (h : Handle) (st : Option ResState) (s : State) (k : UnitIx) :
    (s.takeRecord h st k).map = s.map := by
  unfold State.takeRecord; split <;> [rfl; split <;> [rfl; split <;> simp]]

@[simp] theorem State.takeRecord_pool (h : Handle) (st : Option ResState) (s : State) (k : UnitIx) :
    (s.takeRecord h st k).pool = s.pool := by
  unfold State.takeRecord; split <;> [rfl; split <;> [rfl; split <;> simp]]

@[simp] theorem State.takeRecord_engine (h : Handle) (st : Option ResState) (s : State) (k : UnitIx) :
    (s.takeRecord h st k).engine = s.engine := by
  unfold State.takeRecord; split <;> [rfl; split <;> [rfl; split <;> simp]]

@[simp] theorem State.takeRecord_waits (h : Handle) (st : Option ResState) (s : State) (k : UnitIx) :
    (s.takeRecord h st k).waits = s.waits := by
  unfold State.takeRecord; split <;> [rfl; split <;> [rfl; split <;> simp]]

@[simp] theorem State.takeRecord_timing (h : Handle) (st : Option ResState) (s : State) (k : UnitIx) :
    (s.takeRecord h st k).timing = s.timing := by
  unfold State.takeRecord; split <;> [rfl; split <;> [rfl; split <;> simp]]

@[simp] theorem State.takeRecord_marks (h : Handle) (st : Option ResState) (s : State) (k : UnitIx) :
    (s.takeRecord h st k).marks = s.marks := by
  unfold State.takeRecord; split <;> [rfl; split <;> [rfl; split <;> simp]]

@[simp] theorem State.takeRecord_moves (h : Handle) (st : Option ResState) (s : State) (k : UnitIx) :
    (s.takeRecord h st k).moves = s.moves := by
  unfold State.takeRecord; split <;> [rfl; split <;> [rfl; split <;> simp]]

@[simp] theorem State.takeRecord_reports (h : Handle) (st : Option ResState) (s : State) (k : UnitIx) :
    (s.takeRecord h st k).reports = s.reports := by
  unfold State.takeRecord; split <;> [rfl; split <;> [rfl; split <;> simp]]

@[simp] theorem State.takeRecord_params (h : Handle) (st : Option ResState) (s : State) (k : UnitIx) :
    (s.takeRecord h st k).params = s.params := by
  unfold State.takeRecord; split <;> [rfl; split <;> [rfl; split <;> simp]]

theorem State.takeSlots_others (ch : List SlotChange) (k : UnitIx) (q : Port) (s : State) :
    (s.takeSlots ch k).ports.get q = { s.ports.get q with
      events := ((s.takeSlots ch k).ports.get q).events, lost := ((s.takeSlots ch k).ports.get q).lost } := by
  unfold State.takeSlots
  split <;> [rfl; split <;> [rfl; split <;> [exact State.judgeUnit_others _ _ q s; rfl]]]

theorem State.takeRecord_others (h : Handle) (st : Option ResState) (k : UnitIx) (q : Port) (s : State) :
    (s.takeRecord h st k).ports.get q = { s.ports.get q with
      events := ((s.takeRecord h st k).ports.get q).events, lost := ((s.takeRecord h st k).ports.get q).lost } := by
  unfold State.takeRecord
  split <;> [rfl; split <;> [rfl; split <;> [exact State.judgeUnit_others _ _ q s; rfl]]]

/-! ## Every unit takes a report -/

/-- A fold of steps that each change only event queues and lost counts of the ports changes only those. -/
theorem State.foldl_others {α : Type} (f : State → α → State) (q : Port)
    (h : ∀ s a, (f s a).ports.get q = { s.ports.get q with
      events := ((f s a).ports.get q).events, lost := ((f s a).ports.get q).lost }) (l : List α) (s : State) :
    (l.foldl f s).ports.get q = { s.ports.get q with
      events := ((l.foldl f s).ports.get q).events, lost := ((l.foldl f s).ports.get q).lost } := by
  induction l generalizing s with
  | nil => rfl
  | cons a l ih =>
    rw [List.foldl_cons, ih]
    rw [h]

/-- A fold of steps that each keep a projection of the state keeps it. -/
theorem State.foldl_keeps {α β : Type} (f : State → α → State) (proj : State → β)
    (h : ∀ s a, proj (f s a) = proj s) (l : List α) (s : State) : proj (l.foldl f s) = proj s := by
  induction l generalizing s with
  | nil => rfl
  | cons a l ih => rw [List.foldl_cons, ih, h]

@[simp] theorem State.takeReport_pending (s : State) (r : Report) :
    (s.takeReport r).pending = s.pending := by
  unfold State.takeReport
  split
  · exact State.foldl_keeps _ (fun t => t.pending) (fun t k => State.takeSlots_pending _ t k) _ s
  · exact State.foldl_keeps _ (fun t => t.pending) (fun t k => State.takeRecord_pending _ _ t k) _ s

@[simp] theorem State.takeReport_resetLow (s : State) (r : Report) :
    (s.takeReport r).resetLow = s.resetLow := by
  unfold State.takeReport
  split
  · exact State.foldl_keeps _ (fun t => t.resetLow) (fun t k => State.takeSlots_resetLow _ t k) _ s
  · exact State.foldl_keeps _ (fun t => t.resetLow) (fun t k => State.takeRecord_resetLow _ _ t k) _ s

@[simp] theorem State.takeReport_map (s : State) (r : Report) :
    (s.takeReport r).map = s.map := by
  unfold State.takeReport
  split
  · exact State.foldl_keeps _ (fun t => t.map) (fun t k => State.takeSlots_map _ t k) _ s
  · exact State.foldl_keeps _ (fun t => t.map) (fun t k => State.takeRecord_map _ _ t k) _ s

@[simp] theorem State.takeReport_pool (s : State) (r : Report) :
    (s.takeReport r).pool = s.pool := by
  unfold State.takeReport
  split
  · exact State.foldl_keeps _ (fun t => t.pool) (fun t k => State.takeSlots_pool _ t k) _ s
  · exact State.foldl_keeps _ (fun t => t.pool) (fun t k => State.takeRecord_pool _ _ t k) _ s

@[simp] theorem State.takeReport_engine (s : State) (r : Report) :
    (s.takeReport r).engine = s.engine := by
  unfold State.takeReport
  split
  · exact State.foldl_keeps _ (fun t => t.engine) (fun t k => State.takeSlots_engine _ t k) _ s
  · exact State.foldl_keeps _ (fun t => t.engine) (fun t k => State.takeRecord_engine _ _ t k) _ s

@[simp] theorem State.takeReport_waits (s : State) (r : Report) :
    (s.takeReport r).waits = s.waits := by
  unfold State.takeReport
  split
  · exact State.foldl_keeps _ (fun t => t.waits) (fun t k => State.takeSlots_waits _ t k) _ s
  · exact State.foldl_keeps _ (fun t => t.waits) (fun t k => State.takeRecord_waits _ _ t k) _ s

@[simp] theorem State.takeReport_timing (s : State) (r : Report) :
    (s.takeReport r).timing = s.timing := by
  unfold State.takeReport
  split
  · exact State.foldl_keeps _ (fun t => t.timing) (fun t k => State.takeSlots_timing _ t k) _ s
  · exact State.foldl_keeps _ (fun t => t.timing) (fun t k => State.takeRecord_timing _ _ t k) _ s

@[simp] theorem State.takeReport_marks (s : State) (r : Report) :
    (s.takeReport r).marks = s.marks := by
  unfold State.takeReport
  split
  · exact State.foldl_keeps _ (fun t => t.marks) (fun t k => State.takeSlots_marks _ t k) _ s
  · exact State.foldl_keeps _ (fun t => t.marks) (fun t k => State.takeRecord_marks _ _ t k) _ s

@[simp] theorem State.takeReport_moves (s : State) (r : Report) :
    (s.takeReport r).moves = s.moves := by
  unfold State.takeReport
  split
  · exact State.foldl_keeps _ (fun t => t.moves) (fun t k => State.takeSlots_moves _ t k) _ s
  · exact State.foldl_keeps _ (fun t => t.moves) (fun t k => State.takeRecord_moves _ _ t k) _ s

@[simp] theorem State.takeReport_reports (s : State) (r : Report) :
    (s.takeReport r).reports = s.reports := by
  unfold State.takeReport
  split
  · exact State.foldl_keeps _ (fun t => t.reports) (fun t k => State.takeSlots_reports _ t k) _ s
  · exact State.foldl_keeps _ (fun t => t.reports) (fun t k => State.takeRecord_reports _ _ t k) _ s

@[simp] theorem State.takeReport_params (s : State) (r : Report) :
    (s.takeReport r).params = s.params := by
  unfold State.takeReport
  split
  · exact State.foldl_keeps _ (fun t => t.params) (fun t k => State.takeSlots_params _ t k) _ s
  · exact State.foldl_keeps _ (fun t => t.params) (fun t k => State.takeRecord_params _ _ t k) _ s

/-- The taking of a report changes event queues and lost counts and nothing else of any port. -/
theorem State.takeReport_others (r : Report) (q : Port) (s : State) :
    (s.takeReport r).ports.get q = { s.ports.get q with
      events := ((s.takeReport r).ports.get q).events, lost := ((s.takeReport r).ports.get q).lost } := by
  unfold State.takeReport
  split
  · exact State.foldl_others _ q (fun t k => State.takeSlots_others _ k q t) _ s
  · exact State.foldl_others _ q (fun t k => State.takeRecord_others _ _ k q t) _ s


@[simp] theorem State.takeAllReports_pending (s : State) :
    (s.takeAllReports).pending = s.pending := by
  unfold State.takeAllReports
  rw [State.foldl_keeps _ (fun t => t.pending) (fun t r => State.takeReport_pending t r)]

@[simp] theorem State.takeAllReports_resetLow (s : State) :
    (s.takeAllReports).resetLow = s.resetLow := by
  unfold State.takeAllReports
  rw [State.foldl_keeps _ (fun t => t.resetLow) (fun t r => State.takeReport_resetLow t r)]

@[simp] theorem State.takeAllReports_map (s : State) :
    (s.takeAllReports).map = s.map := by
  unfold State.takeAllReports
  rw [State.foldl_keeps _ (fun t => t.map) (fun t r => State.takeReport_map t r)]

@[simp] theorem State.takeAllReports_pool (s : State) :
    (s.takeAllReports).pool = s.pool := by
  unfold State.takeAllReports
  rw [State.foldl_keeps _ (fun t => t.pool) (fun t r => State.takeReport_pool t r)]

@[simp] theorem State.takeAllReports_engine (s : State) :
    (s.takeAllReports).engine = s.engine := by
  unfold State.takeAllReports
  rw [State.foldl_keeps _ (fun t => t.engine) (fun t r => State.takeReport_engine t r)]

@[simp] theorem State.takeAllReports_waits (s : State) :
    (s.takeAllReports).waits = s.waits := by
  unfold State.takeAllReports
  rw [State.foldl_keeps _ (fun t => t.waits) (fun t r => State.takeReport_waits t r)]

@[simp] theorem State.takeAllReports_timing (s : State) :
    (s.takeAllReports).timing = s.timing := by
  unfold State.takeAllReports
  rw [State.foldl_keeps _ (fun t => t.timing) (fun t r => State.takeReport_timing t r)]

@[simp] theorem State.takeAllReports_marks (s : State) :
    (s.takeAllReports).marks = s.marks := by
  unfold State.takeAllReports
  rw [State.foldl_keeps _ (fun t => t.marks) (fun t r => State.takeReport_marks t r)]

@[simp] theorem State.takeAllReports_moves (s : State) :
    (s.takeAllReports).moves = s.moves := by
  unfold State.takeAllReports
  rw [State.foldl_keeps _ (fun t => t.moves) (fun t r => State.takeReport_moves t r)]

@[simp] theorem State.takeAllReports_params (s : State) :
    (s.takeAllReports).params = s.params := by
  unfold State.takeAllReports
  rw [State.foldl_keeps _ (fun t => t.params) (fun t r => State.takeReport_params t r)]

@[simp] theorem State.takeAllReports_reports (s : State) :
    s.takeAllReports.reports = { s.reports with watch := [] } := by
  unfold State.takeAllReports
  rw [State.foldl_keeps _ (fun t => t.reports) (fun t r => State.takeReport_reports t r)]

theorem State.takeAllReports_others (q : Port) (s : State) :
    s.takeAllReports.ports.get q = { s.ports.get q with
      events := (s.takeAllReports.ports.get q).events, lost := (s.takeAllReports.ports.get q).lost } := by
  unfold State.takeAllReports
  rw [State.foldl_others _ q (fun t r => State.takeReport_others r q t)]

end Sys2Proof.Machine
end

