-- ==== Sys2Proof/Laws/Reactions.lean ====
section
/-! SUPPORT. What the reactions to a frame mark and the promotion reports leave as it is, field by field
(R14, R34, R79, R95, R112, R114). -/

namespace Sys2Proof.Machine

/-! ## The Slot Map -/

@[simp] theorem FrameTiming.drive_sync (image : Table (Option Port) 512) (t : FrameTiming) :
    (t.drive image).sync = t.sync := by
  unfold FrameTiming.drive; split <;> [split; skip; skip] <;> rfl

@[simp] theorem FrameTiming.drive_slotIndex (image : Table (Option Port) 512) (t : FrameTiming) :
    (t.drive image).slotIndex = t.slotIndex := by
  unfold FrameTiming.drive; split <;> [split; skip; skip] <;> rfl

/-- Driving the lines changes the lines and nothing else of the unit (R93, R94). -/
theorem FrameTiming.drive_eq (image : Table (Option Port) 512) (t : FrameTiming) :
    t.drive image = { t with ownv := (t.drive image).ownv, own := (t.drive image).own } := by
  unfold FrameTiming.drive; split <;> [split; skip; skip] <;> rfl

@[simp] theorem State.mapReaction_map (m : Word) (s : State) : (s.mapReaction m).map = s.latchMap m := by
  unfold State.mapReaction State.handPromotion; dsimp only; split <;> simp

@[simp] theorem State.mapReaction_timing (m : Word) (s : State) :
    (s.mapReaction m).timing = { s.timing with frameCounter := m } := by
  unfold State.mapReaction State.handPromotion; dsimp only; split <;> simp

/-- The reaction changes event queues and lost counts and nothing else of any port. -/
theorem State.mapReaction_others (m : Word) (q : Port) (s : State) :
    (s.mapReaction m).ports.get q = { s.ports.get q with
      events := ((s.mapReaction m).ports.get q).events, lost := ((s.mapReaction m).ports.get q).lost } := by
  unfold State.mapReaction
  dsimp only
  rw [State.reportChanges_ports]
  have e : ∀ r : PromotionReport, (State.handPromotion r { s with
      map := s.latchMap m, timing := { s.timing with frameCounter := m } }).ports = s.ports := by
    intro r; unfold State.handPromotion; split <;> rfl
  rw [e]
  split
  · rw [ClientPort.post_eq]
  · rfl

@[simp] theorem State.mapReaction_pending (m : Word) (s : State) :
    (s.mapReaction m).pending = s.pending := by
  unfold State.mapReaction State.handPromotion; dsimp only; split <;> simp

@[simp] theorem State.mapReaction_resetLow (m : Word) (s : State) :
    (s.mapReaction m).resetLow = s.resetLow := by
  unfold State.mapReaction State.handPromotion; dsimp only; split <;> simp

@[simp] theorem State.mapReaction_pool (m : Word) (s : State) :
    (s.mapReaction m).pool = s.pool := by
  unfold State.mapReaction State.handPromotion; dsimp only; split <;> simp

@[simp] theorem State.mapReaction_waits (m : Word) (s : State) :
    (s.mapReaction m).waits = s.waits := by
  unfold State.mapReaction State.handPromotion; dsimp only; split <;> simp

@[simp] theorem State.mapReaction_marks (m : Word) (s : State) :
    (s.mapReaction m).marks = s.marks := by
  unfold State.mapReaction State.handPromotion; dsimp only; split <;> simp

@[simp] theorem State.mapReaction_moves (m : Word) (s : State) :
    (s.mapReaction m).moves = s.moves := by
  unfold State.mapReaction State.handPromotion; dsimp only; split <;> simp

@[simp] theorem State.mapReaction_units (m : Word) (s : State) :
    (s.mapReaction m).units = s.units := by
  unfold State.mapReaction State.handPromotion; dsimp only; split <;> simp

@[simp] theorem State.mapReaction_params (m : Word) (s : State) :
    (s.mapReaction m).params = s.params := by
  unfold State.mapReaction State.handPromotion; dsimp only; split <;> simp

/-! ## The Record Pool and the Lease Counter -/

@[simp] theorem State.promoteRecord_pending (m : Word) (s : State) (e : RecIx × Role) :
    (s.promoteRecord m e).pending = s.pending := by
  unfold State.promoteRecord
  split <;> [rfl; split <;> [rfl; split <;> [simp; rfl]]]

@[simp] theorem State.promoteRecord_resetLow (m : Word) (s : State) (e : RecIx × Role) :
    (s.promoteRecord m e).resetLow = s.resetLow := by
  unfold State.promoteRecord
  split <;> [rfl; split <;> [rfl; split <;> [simp; rfl]]]

@[simp] theorem State.promoteRecord_map (m : Word) (s : State) (e : RecIx × Role) :
    (s.promoteRecord m e).map = s.map := by
  unfold State.promoteRecord
  split <;> [rfl; split <;> [rfl; split <;> [simp; rfl]]]

@[simp] theorem State.promoteRecord_engine (m : Word) (s : State) (e : RecIx × Role) :
    (s.promoteRecord m e).engine = s.engine := by
  unfold State.promoteRecord
  split <;> [rfl; split <;> [rfl; split <;> [simp; rfl]]]

@[simp] theorem State.promoteRecord_waits (m : Word) (s : State) (e : RecIx × Role) :
    (s.promoteRecord m e).waits = s.waits := by
  unfold State.promoteRecord
  split <;> [rfl; split <;> [rfl; split <;> [simp; rfl]]]

@[simp] theorem State.promoteRecord_timing (m : Word) (s : State) (e : RecIx × Role) :
    (s.promoteRecord m e).timing = s.timing := by
  unfold State.promoteRecord
  split <;> [rfl; split <;> [rfl; split <;> [simp; rfl]]]

@[simp] theorem State.promoteRecord_marks (m : Word) (s : State) (e : RecIx × Role) :
    (s.promoteRecord m e).marks = s.marks := by
  unfold State.promoteRecord
  split <;> [rfl; split <;> [rfl; split <;> [simp; rfl]]]

@[simp] theorem State.promoteRecord_moves (m : Word) (s : State) (e : RecIx × Role) :
    (s.promoteRecord m e).moves = s.moves := by
  unfold State.promoteRecord
  split <;> [rfl; split <;> [rfl; split <;> [simp; rfl]]]

@[simp] theorem State.promoteRecord_units (m : Word) (s : State) (e : RecIx × Role) :
    (s.promoteRecord m e).units = s.units := by
  unfold State.promoteRecord
  split <;> [rfl; split <;> [rfl; split <;> [simp; rfl]]]

@[simp] theorem State.promoteRecord_params (m : Word) (s : State) (e : RecIx × Role) :
    (s.promoteRecord m e).params = s.params := by
  unfold State.promoteRecord
  split <;> [rfl; split <;> [rfl; split <;> [simp; rfl]]]

@[simp] theorem State.countLease_pending (m : Word) (s : State) (i : RecIx) :
    (s.countLease m i).pending = s.pending := by
  unfold State.countLease
  split <;> [rfl; split <;> [rfl; (dsimp only; split <;> split <;> simp)]]

@[simp] theorem State.countLease_resetLow (m : Word) (s : State) (i : RecIx) :
    (s.countLease m i).resetLow = s.resetLow := by
  unfold State.countLease
  split <;> [rfl; split <;> [rfl; (dsimp only; split <;> split <;> simp)]]

@[simp] theorem State.countLease_waits (m : Word) (s : State) (i : RecIx) :
    (s.countLease m i).waits = s.waits := by
  unfold State.countLease
  split <;> [rfl; split <;> [rfl; (dsimp only; split <;> split <;> simp)]]

@[simp] theorem State.countLease_timing (m : Word) (s : State) (i : RecIx) :
    (s.countLease m i).timing = s.timing := by
  unfold State.countLease
  split <;> [rfl; split <;> [rfl; (dsimp only; split <;> split <;> simp)]]

@[simp] theorem State.countLease_marks (m : Word) (s : State) (i : RecIx) :
    (s.countLease m i).marks = s.marks := by
  unfold State.countLease
  split <;> [rfl; split <;> [rfl; (dsimp only; split <;> split <;> simp)]]

@[simp] theorem State.countLease_units (m : Word) (s : State) (i : RecIx) :
    (s.countLease m i).units = s.units := by
  unfold State.countLease
  split <;> [rfl; split <;> [rfl; (dsimp only; split <;> split <;> simp)]]

@[simp] theorem State.countLease_params (m : Word) (s : State) (i : RecIx) :
    (s.countLease m i).params = s.params := by
  unfold State.countLease
  split <;> [rfl; split <;> [rfl; (dsimp only; split <;> split <;> simp)]]

@[simp] theorem State.leaseReaction_pending (m : Word) (s : State) :
    (s.leaseReaction m).pending = s.pending := by
  unfold State.leaseReaction
  exact State.foldl_keeps _ (fun t => t.pending) (fun t i => State.countLease_pending m t i) _ s

@[simp] theorem State.leaseReaction_resetLow (m : Word) (s : State) :
    (s.leaseReaction m).resetLow = s.resetLow := by
  unfold State.leaseReaction
  exact State.foldl_keeps _ (fun t => t.resetLow) (fun t i => State.countLease_resetLow m t i) _ s

@[simp] theorem State.leaseReaction_waits (m : Word) (s : State) :
    (s.leaseReaction m).waits = s.waits := by
  unfold State.leaseReaction
  exact State.foldl_keeps _ (fun t => t.waits) (fun t i => State.countLease_waits m t i) _ s

@[simp] theorem State.leaseReaction_timing (m : Word) (s : State) :
    (s.leaseReaction m).timing = s.timing := by
  unfold State.leaseReaction
  exact State.foldl_keeps _ (fun t => t.timing) (fun t i => State.countLease_timing m t i) _ s

@[simp] theorem State.leaseReaction_marks (m : Word) (s : State) :
    (s.leaseReaction m).marks = s.marks := by
  unfold State.leaseReaction
  exact State.foldl_keeps _ (fun t => t.marks) (fun t i => State.countLease_marks m t i) _ s

@[simp] theorem State.leaseReaction_units (m : Word) (s : State) :
    (s.leaseReaction m).units = s.units := by
  unfold State.leaseReaction
  exact State.foldl_keeps _ (fun t => t.units) (fun t i => State.countLease_units m t i) _ s

@[simp] theorem State.leaseReaction_params (m : Word) (s : State) :
    (s.leaseReaction m).params = s.params := by
  unfold State.leaseReaction
  exact State.foldl_keeps _ (fun t => t.params) (fun t i => State.countLease_params m t i) _ s

/-! ## The Move Unit -/

@[simp] theorem State.startOverlap_pending (m : Word) (s : State) (e : RecIx × Role) :
    (s.startOverlap m e).pending = s.pending := by
  unfold State.startOverlap
  split <;> [rfl; split <;> [rfl; simp]]

@[simp] theorem State.startOverlap_resetLow (m : Word) (s : State) (e : RecIx × Role) :
    (s.startOverlap m e).resetLow = s.resetLow := by
  unfold State.startOverlap
  split <;> [rfl; split <;> [rfl; simp]]

@[simp] theorem State.startOverlap_map (m : Word) (s : State) (e : RecIx × Role) :
    (s.startOverlap m e).map = s.map := by
  unfold State.startOverlap
  split <;> [rfl; split <;> [rfl; simp]]

@[simp] theorem State.startOverlap_pool (m : Word) (s : State) (e : RecIx × Role) :
    (s.startOverlap m e).pool = s.pool := by
  unfold State.startOverlap
  split <;> [rfl; split <;> [rfl; simp]]

@[simp] theorem State.startOverlap_engine (m : Word) (s : State) (e : RecIx × Role) :
    (s.startOverlap m e).engine = s.engine := by
  unfold State.startOverlap
  split <;> [rfl; split <;> [rfl; simp]]

@[simp] theorem State.startOverlap_waits (m : Word) (s : State) (e : RecIx × Role) :
    (s.startOverlap m e).waits = s.waits := by
  unfold State.startOverlap
  split <;> [rfl; split <;> [rfl; simp]]

@[simp] theorem State.startOverlap_timing (m : Word) (s : State) (e : RecIx × Role) :
    (s.startOverlap m e).timing = s.timing := by
  unfold State.startOverlap
  split <;> [rfl; split <;> [rfl; simp]]

@[simp] theorem State.startOverlap_marks (m : Word) (s : State) (e : RecIx × Role) :
    (s.startOverlap m e).marks = s.marks := by
  unfold State.startOverlap
  split <;> [rfl; split <;> [rfl; simp]]

@[simp] theorem State.startOverlap_units (m : Word) (s : State) (e : RecIx × Role) :
    (s.startOverlap m e).units = s.units := by
  unfold State.startOverlap
  split <;> [rfl; split <;> [rfl; simp]]

@[simp] theorem State.startOverlap_reports (m : Word) (s : State) (e : RecIx × Role) :
    (s.startOverlap m e).reports = s.reports := by
  unfold State.startOverlap
  split <;> [rfl; split <;> [rfl; simp]]

@[simp] theorem State.startOverlap_params (m : Word) (s : State) (e : RecIx × Role) :
    (s.startOverlap m e).params = s.params := by
  unfold State.startOverlap
  split <;> [rfl; split <;> [rfl; simp]]

@[simp] theorem State.cutoverMove_pending (k : CtxIx) (c : MoveContext) (m : Word) (s : State) :
    (s.cutoverMove k c m).pending = s.pending := by
  unfold State.cutoverMove
  split <;> [rfl; simp]

@[simp] theorem State.cutoverMove_resetLow (k : CtxIx) (c : MoveContext) (m : Word) (s : State) :
    (s.cutoverMove k c m).resetLow = s.resetLow := by
  unfold State.cutoverMove
  split <;> [rfl; simp]

@[simp] theorem State.cutoverMove_waits (k : CtxIx) (c : MoveContext) (m : Word) (s : State) :
    (s.cutoverMove k c m).waits = s.waits := by
  unfold State.cutoverMove
  split <;> [rfl; simp]

@[simp] theorem State.cutoverMove_timing (k : CtxIx) (c : MoveContext) (m : Word) (s : State) :
    (s.cutoverMove k c m).timing = s.timing := by
  unfold State.cutoverMove
  split <;> [rfl; simp]

@[simp] theorem State.cutoverMove_marks (k : CtxIx) (c : MoveContext) (m : Word) (s : State) :
    (s.cutoverMove k c m).marks = s.marks := by
  unfold State.cutoverMove
  split <;> [rfl; simp]

@[simp] theorem State.cutoverMove_units (k : CtxIx) (c : MoveContext) (m : Word) (s : State) :
    (s.cutoverMove k c m).units = s.units := by
  unfold State.cutoverMove
  split <;> [rfl; simp]

@[simp] theorem State.cutoverMove_params (k : CtxIx) (c : MoveContext) (m : Word) (s : State) :
    (s.cutoverMove k c m).params = s.params := by
  unfold State.cutoverMove
  split <;> [rfl; simp]

@[simp] theorem State.countContext_pending (m : Word) (s : State) (k : CtxIx) :
    (s.countContext m k).pending = s.pending := by
  unfold State.countContext
  split <;> [rfl; split <;> [(split <;> simp); rfl; (split <;> [rfl; split <;> simp])]]

@[simp] theorem State.countContext_resetLow (m : Word) (s : State) (k : CtxIx) :
    (s.countContext m k).resetLow = s.resetLow := by
  unfold State.countContext
  split <;> [rfl; split <;> [(split <;> simp); rfl; (split <;> [rfl; split <;> simp])]]

@[simp] theorem State.countContext_waits (m : Word) (s : State) (k : CtxIx) :
    (s.countContext m k).waits = s.waits := by
  unfold State.countContext
  split <;> [rfl; split <;> [(split <;> simp); rfl; (split <;> [rfl; split <;> simp])]]

@[simp] theorem State.countContext_timing (m : Word) (s : State) (k : CtxIx) :
    (s.countContext m k).timing = s.timing := by
  unfold State.countContext
  split <;> [rfl; split <;> [(split <;> simp); rfl; (split <;> [rfl; split <;> simp])]]

@[simp] theorem State.countContext_marks (m : Word) (s : State) (k : CtxIx) :
    (s.countContext m k).marks = s.marks := by
  unfold State.countContext
  split <;> [rfl; split <;> [(split <;> simp); rfl; (split <;> [rfl; split <;> simp])]]

@[simp] theorem State.countContext_units (m : Word) (s : State) (k : CtxIx) :
    (s.countContext m k).units = s.units := by
  unfold State.countContext
  split <;> [rfl; split <;> [(split <;> simp); rfl; (split <;> [rfl; split <;> simp])]]

@[simp] theorem State.countContext_params (m : Word) (s : State) (k : CtxIx) :
    (s.countContext m k).params = s.params := by
  unfold State.countContext
  split <;> [rfl; split <;> [(split <;> simp); rfl; (split <;> [rfl; split <;> simp])]]

@[simp] theorem State.moveReaction_pending (m : Word) (s : State) :
    (s.moveReaction m).pending = s.pending := by
  unfold State.moveReaction
  exact State.foldl_keeps _ (fun t => t.pending) (fun t k => State.countContext_pending m t k) _ s

@[simp] theorem State.moveReaction_resetLow (m : Word) (s : State) :
    (s.moveReaction m).resetLow = s.resetLow := by
  unfold State.moveReaction
  exact State.foldl_keeps _ (fun t => t.resetLow) (fun t k => State.countContext_resetLow m t k) _ s

@[simp] theorem State.moveReaction_waits (m : Word) (s : State) :
    (s.moveReaction m).waits = s.waits := by
  unfold State.moveReaction
  exact State.foldl_keeps _ (fun t => t.waits) (fun t k => State.countContext_waits m t k) _ s

@[simp] theorem State.moveReaction_timing (m : Word) (s : State) :
    (s.moveReaction m).timing = s.timing := by
  unfold State.moveReaction
  exact State.foldl_keeps _ (fun t => t.timing) (fun t k => State.countContext_timing m t k) _ s

@[simp] theorem State.moveReaction_marks (m : Word) (s : State) :
    (s.moveReaction m).marks = s.marks := by
  unfold State.moveReaction
  exact State.foldl_keeps _ (fun t => t.marks) (fun t k => State.countContext_marks m t k) _ s

@[simp] theorem State.moveReaction_units (m : Word) (s : State) :
    (s.moveReaction m).units = s.units := by
  unfold State.moveReaction
  exact State.foldl_keeps _ (fun t => t.units) (fun t k => State.countContext_units m t k) _ s

@[simp] theorem State.moveReaction_params (m : Word) (s : State) :
    (s.moveReaction m).params = s.params := by
  unfold State.moveReaction
  exact State.foldl_keeps _ (fun t => t.params) (fun t k => State.countContext_params m t k) _ s

/-! ## The Wait List -/

@[simp] theorem State.expireEntry_pending (m : Word) (s : State) (e : WaitEntry) :
    (s.expireEntry m e).pending = s.pending := by
  simp [State.expireEntry]

@[simp] theorem State.expireEntry_resetLow (m : Word) (s : State) (e : WaitEntry) :
    (s.expireEntry m e).resetLow = s.resetLow := by
  simp [State.expireEntry]

@[simp] theorem State.expireEntry_map (m : Word) (s : State) (e : WaitEntry) :
    (s.expireEntry m e).map = s.map := by
  simp [State.expireEntry]

@[simp] theorem State.expireEntry_pool (m : Word) (s : State) (e : WaitEntry) :
    (s.expireEntry m e).pool = s.pool := by
  simp [State.expireEntry]

@[simp] theorem State.expireEntry_timing (m : Word) (s : State) (e : WaitEntry) :
    (s.expireEntry m e).timing = s.timing := by
  simp [State.expireEntry]

@[simp] theorem State.expireEntry_marks (m : Word) (s : State) (e : WaitEntry) :
    (s.expireEntry m e).marks = s.marks := by
  simp [State.expireEntry]

@[simp] theorem State.expireEntry_moves (m : Word) (s : State) (e : WaitEntry) :
    (s.expireEntry m e).moves = s.moves := by
  simp [State.expireEntry]

@[simp] theorem State.expireEntry_units (m : Word) (s : State) (e : WaitEntry) :
    (s.expireEntry m e).units = s.units := by
  simp [State.expireEntry]

@[simp] theorem State.expireEntry_reports (m : Word) (s : State) (e : WaitEntry) :
    (s.expireEntry m e).reports = s.reports := by
  simp [State.expireEntry]

@[simp] theorem State.expireEntry_params (m : Word) (s : State) (e : WaitEntry) :
    (s.expireEntry m e).params = s.params := by
  simp [State.expireEntry]

@[simp] theorem State.waitReaction_pending (m : Word) (s : State) :
    (s.waitReaction m).pending = s.pending := by
  unfold State.waitReaction
  dsimp only
  rw [State.foldl_keeps _ (fun t => t.pending) (fun t e => State.expireEntry_pending m t e)]

@[simp] theorem State.waitReaction_resetLow (m : Word) (s : State) :
    (s.waitReaction m).resetLow = s.resetLow := by
  unfold State.waitReaction
  dsimp only
  rw [State.foldl_keeps _ (fun t => t.resetLow) (fun t e => State.expireEntry_resetLow m t e)]

@[simp] theorem State.waitReaction_map (m : Word) (s : State) :
    (s.waitReaction m).map = s.map := by
  unfold State.waitReaction
  dsimp only
  rw [State.foldl_keeps _ (fun t => t.map) (fun t e => State.expireEntry_map m t e)]

@[simp] theorem State.waitReaction_pool (m : Word) (s : State) :
    (s.waitReaction m).pool = s.pool := by
  unfold State.waitReaction
  dsimp only
  rw [State.foldl_keeps _ (fun t => t.pool) (fun t e => State.expireEntry_pool m t e)]

@[simp] theorem State.waitReaction_timing (m : Word) (s : State) :
    (s.waitReaction m).timing = s.timing := by
  unfold State.waitReaction
  dsimp only
  rw [State.foldl_keeps _ (fun t => t.timing) (fun t e => State.expireEntry_timing m t e)]

@[simp] theorem State.waitReaction_marks (m : Word) (s : State) :
    (s.waitReaction m).marks = s.marks := by
  unfold State.waitReaction
  dsimp only
  rw [State.foldl_keeps _ (fun t => t.marks) (fun t e => State.expireEntry_marks m t e)]

@[simp] theorem State.waitReaction_moves (m : Word) (s : State) :
    (s.waitReaction m).moves = s.moves := by
  unfold State.waitReaction
  dsimp only
  rw [State.foldl_keeps _ (fun t => t.moves) (fun t e => State.expireEntry_moves m t e)]

@[simp] theorem State.waitReaction_units (m : Word) (s : State) :
    (s.waitReaction m).units = s.units := by
  unfold State.waitReaction
  dsimp only
  rw [State.foldl_keeps _ (fun t => t.units) (fun t e => State.expireEntry_units m t e)]

@[simp] theorem State.waitReaction_reports (m : Word) (s : State) :
    (s.waitReaction m).reports = s.reports := by
  unfold State.waitReaction
  dsimp only
  rw [State.foldl_keeps _ (fun t => t.reports) (fun t e => State.expireEntry_reports m t e)]

@[simp] theorem State.waitReaction_params (m : Word) (s : State) :
    (s.waitReaction m).params = s.params := by
  unfold State.waitReaction
  dsimp only
  rw [State.foldl_keeps _ (fun t => t.params) (fun t e => State.expireEntry_params m t e)]

end Sys2Proof.Machine
end

