-- ==== Sys2Proof/Laws/Marks.lean ====
section
/-! SUPPORT. Taking what is due of a mark: when a block takes, what it then does, and what it leaves as it is, up to a slot edge and a
frame start (R18, R34, R89, R90, R93, R114); and the bits of a transfer as bytes (R127). -/

namespace Sys2Proof.Machine

/-! ## When a block takes a mark or a report -/

/-- The Slot Map takes no mark out of LOCKED or while RESET is low (R18, R79, R101, R123). -/
theorem State.mapTakeMark_of_notTaking {s : State} (h : s.takesMarks = false) : s.mapTakeMark = s := by
  simp [State.mapTakeMark, h]

/-- The Slot Map with no mark handed takes none. -/
theorem State.mapTakeMark_of_none {s : State} (h : s.marks.slotMap = []) : s.mapTakeMark = s := by
  simp [State.mapTakeMark, h]

/-- The Slot Map with a mark handed reacts to it (R89). -/
theorem State.mapTakeMark_of_cons {s : State} {m : Word} {rest : List Word} (h : s.takesMarks = true)
    (hm : s.marks.slotMap = m :: rest) :
    s.mapTakeMark = State.mapReaction m { s with marks := { s.marks with slotMap := rest } } := by
  simp [State.mapTakeMark, h, hm]

/-- The Lease Counter takes no mark out of LOCKED or while RESET is low (R18, R79, R101, R123). -/
theorem State.leaseTakeMark_of_notTaking {s : State} (h : s.takesMarks = false) : s.leaseTakeMark = s := by
  simp [State.leaseTakeMark, h]

/-- The Lease Counter with no mark handed takes none. -/
theorem State.leaseTakeMark_of_none {s : State} (h : s.marks.lease = []) : s.leaseTakeMark = s := by
  simp [State.leaseTakeMark, h]

/-- The Lease Counter with a mark handed reacts to it (R89). -/
theorem State.leaseTakeMark_of_cons {s : State} {m : Word} {rest : List Word} (h : s.takesMarks = true)
    (hm : s.marks.lease = m :: rest) :
    s.leaseTakeMark = State.leaseReaction m { s with marks := { s.marks with lease := rest } } := by
  simp [State.leaseTakeMark, h, hm]

/-- The Move Unit takes no mark out of LOCKED or while RESET is low (R18, R79, R101, R123). -/
theorem State.moveTakeMark_of_notTaking {s : State} (h : s.takesMarks = false) : s.moveTakeMark = s := by
  simp [State.moveTakeMark, h]

/-- The Move Unit with no mark handed takes none. -/
theorem State.moveTakeMark_of_none {s : State} (h : s.marks.move = []) : s.moveTakeMark = s := by
  simp [State.moveTakeMark, h]

/-- The Move Unit with a mark handed reacts to it (R89). -/
theorem State.moveTakeMark_of_cons {s : State} {m : Word} {rest : List Word} (h : s.takesMarks = true)
    (hm : s.marks.move = m :: rest) :
    s.moveTakeMark = State.moveReaction m { s with marks := { s.marks with move := rest } } := by
  simp [State.moveTakeMark, h, hm]

/-- The Wait List takes no mark out of LOCKED or while RESET is low (R18, R79, R101, R123). -/
theorem State.waitTakeMark_of_notTaking {s : State} (h : s.takesMarks = false) : s.waitTakeMark = s := by
  simp [State.waitTakeMark, h]

/-- The Wait List with no mark handed takes none. -/
theorem State.waitTakeMark_of_none {s : State} (h : s.marks.wait = []) : s.waitTakeMark = s := by
  simp [State.waitTakeMark, h]

/-- The Wait List with a mark handed reacts to it (R89). -/
theorem State.waitTakeMark_of_cons {s : State} {m : Word} {rest : List Word} (h : s.takesMarks = true)
    (hm : s.marks.wait = m :: rest) :
    s.waitTakeMark = State.waitReaction m { s with marks := { s.marks with wait := rest } } := by
  simp [State.waitTakeMark, h, hm]

/-- The Record Pool with no promotion report handed takes none. -/
theorem State.poolTakeReport_of_none {s : State} (h : s.reports.pool = []) : s.poolTakeReport = s := by
  simp [State.poolTakeReport, h]

/-- The Record Pool takes a promotion report entry by entry. -/
theorem State.poolTakeReport_of_cons {s : State} {r : PromotionReport} {rest : List PromotionReport}
    (h : s.reports.pool = r :: rest) :
    s.poolTakeReport =
      r.promoted.foldl (State.promoteRecord r.mark) { s with reports := { s.reports with pool := rest } } := by
  simp [State.poolTakeReport, h]

/-- The Move Unit with no promotion report handed takes none. -/
theorem State.moveTakeReport_of_none {s : State} (h : s.reports.move = []) : s.moveTakeReport = s := by
  simp [State.moveTakeReport, h]

/-- The Move Unit takes a promotion report entry by entry. -/
theorem State.moveTakeReport_of_cons {s : State} {r : PromotionReport} {rest : List PromotionReport}
    (h : s.reports.move = r :: rest) :
    s.moveTakeReport =
      r.promoted.foldl (State.startOverlap r.mark) { s with reports := { s.reports with move := rest } } := by
  simp [State.moveTakeReport, h]

/-- Where nothing is due of the last mark, settling changes nothing (log 11). -/
theorem State.settle_of_nothingDue {s : State} (hm : s.marks = ⟨[], [], [], []⟩) (hp : s.reports.pool = [])
    (hv : s.reports.move = []) : s.settle = s := by
  rw [State.settle, State.mapTakeMark_of_none (by rw [hm]), State.poolTakeReport_of_none hp,
    State.moveTakeReport_of_none hv, State.leaseTakeMark_of_none (by rw [hm]), State.moveTakeMark_of_none (by rw [hm]),
    State.waitTakeMark_of_none (by rw [hm])]

/-! ## What taking leaves as it is -/

@[simp] theorem State.mapTakeMark_pending (s : State) : s.mapTakeMark.pending = s.pending := by
  unfold State.mapTakeMark; split <;> [split <;> simp; rfl]

@[simp] theorem State.mapTakeMark_resetLow (s : State) : s.mapTakeMark.resetLow = s.resetLow := by
  unfold State.mapTakeMark; split <;> [split <;> simp; rfl]

@[simp] theorem State.mapTakeMark_units (s : State) : s.mapTakeMark.units = s.units := by
  unfold State.mapTakeMark; split <;> [split <;> simp; rfl]

@[simp] theorem State.mapTakeMark_params (s : State) : s.mapTakeMark.params = s.params := by
  unfold State.mapTakeMark; split <;> [split <;> simp; rfl]

@[simp] theorem State.mapTakeMark_pool (s : State) : s.mapTakeMark.pool = s.pool := by
  unfold State.mapTakeMark; split <;> [split <;> simp; rfl]

@[simp] theorem State.mapTakeMark_waits (s : State) : s.mapTakeMark.waits = s.waits := by
  unfold State.mapTakeMark; split <;> [split <;> simp; rfl]

@[simp] theorem State.mapTakeMark_moves (s : State) : s.mapTakeMark.moves = s.moves := by
  unfold State.mapTakeMark; split <;> [split <;> simp; rfl]

@[simp] theorem State.leaseTakeMark_pending (s : State) : s.leaseTakeMark.pending = s.pending := by
  unfold State.leaseTakeMark; split <;> [split <;> simp; rfl]

@[simp] theorem State.leaseTakeMark_resetLow (s : State) : s.leaseTakeMark.resetLow = s.resetLow := by
  unfold State.leaseTakeMark; split <;> [split <;> simp; rfl]

@[simp] theorem State.leaseTakeMark_units (s : State) : s.leaseTakeMark.units = s.units := by
  unfold State.leaseTakeMark; split <;> [split <;> simp; rfl]

@[simp] theorem State.leaseTakeMark_params (s : State) : s.leaseTakeMark.params = s.params := by
  unfold State.leaseTakeMark; split <;> [split <;> simp; rfl]

@[simp] theorem State.leaseTakeMark_waits (s : State) : s.leaseTakeMark.waits = s.waits := by
  unfold State.leaseTakeMark; split <;> [split <;> simp; rfl]

@[simp] theorem State.leaseTakeMark_timing (s : State) : s.leaseTakeMark.timing = s.timing := by
  unfold State.leaseTakeMark; split <;> [split <;> simp; rfl]

@[simp] theorem State.moveTakeMark_pending (s : State) : s.moveTakeMark.pending = s.pending := by
  unfold State.moveTakeMark; split <;> [split <;> simp; rfl]

@[simp] theorem State.moveTakeMark_resetLow (s : State) : s.moveTakeMark.resetLow = s.resetLow := by
  unfold State.moveTakeMark; split <;> [split <;> simp; rfl]

@[simp] theorem State.moveTakeMark_units (s : State) : s.moveTakeMark.units = s.units := by
  unfold State.moveTakeMark; split <;> [split <;> simp; rfl]

@[simp] theorem State.moveTakeMark_params (s : State) : s.moveTakeMark.params = s.params := by
  unfold State.moveTakeMark; split <;> [split <;> simp; rfl]

@[simp] theorem State.moveTakeMark_waits (s : State) : s.moveTakeMark.waits = s.waits := by
  unfold State.moveTakeMark; split <;> [split <;> simp; rfl]

@[simp] theorem State.moveTakeMark_timing (s : State) : s.moveTakeMark.timing = s.timing := by
  unfold State.moveTakeMark; split <;> [split <;> simp; rfl]

@[simp] theorem State.waitTakeMark_pending (s : State) : s.waitTakeMark.pending = s.pending := by
  unfold State.waitTakeMark; split <;> [split <;> simp; rfl]

@[simp] theorem State.waitTakeMark_resetLow (s : State) : s.waitTakeMark.resetLow = s.resetLow := by
  unfold State.waitTakeMark; split <;> [split <;> simp; rfl]

@[simp] theorem State.waitTakeMark_units (s : State) : s.waitTakeMark.units = s.units := by
  unfold State.waitTakeMark; split <;> [split <;> simp; rfl]

@[simp] theorem State.waitTakeMark_params (s : State) : s.waitTakeMark.params = s.params := by
  unfold State.waitTakeMark; split <;> [split <;> simp; rfl]

@[simp] theorem State.waitTakeMark_map (s : State) : s.waitTakeMark.map = s.map := by
  unfold State.waitTakeMark; split <;> [split <;> simp; rfl]

@[simp] theorem State.waitTakeMark_pool (s : State) : s.waitTakeMark.pool = s.pool := by
  unfold State.waitTakeMark; split <;> [split <;> simp; rfl]

@[simp] theorem State.waitTakeMark_timing (s : State) : s.waitTakeMark.timing = s.timing := by
  unfold State.waitTakeMark; split <;> [split <;> simp; rfl]

@[simp] theorem State.waitTakeMark_moves (s : State) : s.waitTakeMark.moves = s.moves := by
  unfold State.waitTakeMark; split <;> [split <;> simp; rfl]

@[simp] theorem State.waitTakeMark_reports (s : State) : s.waitTakeMark.reports = s.reports := by
  unfold State.waitTakeMark; split <;> [split <;> simp; rfl]

/-- The latch sets the frame counter and nothing else of the unit (R90). -/
theorem State.mapTakeMark_timing (s : State) :
    s.mapTakeMark.timing = { s.timing with frameCounter := s.mapTakeMark.timing.frameCounter } := by
  unfold State.mapTakeMark; split <;> [split <;> simp; rfl]

/-- The Slot Map takes at most the first of its marks, and no other block's. -/
theorem State.mapTakeMark_marks (s : State) :
    s.mapTakeMark.marks = { s.marks with slotMap := if s.takesMarks then s.marks.slotMap.tail else s.marks.slotMap } := by
  cases hb : s.takesMarks
  · rw [State.mapTakeMark_of_notTaking hb]
    rfl
  · cases hm : s.marks.slotMap with
    | nil =>
      rw [State.mapTakeMark_of_none hm]
      exact congrArg (fun l => { s.marks with slotMap := l }) hm
    | cons m rest =>
      rw [State.mapTakeMark_of_cons hb hm]
      simp

/-- The Lease Counter takes at most the first of its marks, and no other block's. -/
theorem State.leaseTakeMark_marks (s : State) :
    s.leaseTakeMark.marks = { s.marks with lease := if s.takesMarks then s.marks.lease.tail else s.marks.lease } := by
  cases hb : s.takesMarks
  · rw [State.leaseTakeMark_of_notTaking hb]
    rfl
  · cases hm : s.marks.lease with
    | nil =>
      rw [State.leaseTakeMark_of_none hm]
      exact congrArg (fun l => { s.marks with lease := l }) hm
    | cons m rest =>
      rw [State.leaseTakeMark_of_cons hb hm]
      simp

/-- The Move Unit takes at most the first of its marks, and no other block's. -/
theorem State.moveTakeMark_marks (s : State) :
    s.moveTakeMark.marks = { s.marks with move := if s.takesMarks then s.marks.move.tail else s.marks.move } := by
  cases hb : s.takesMarks
  · rw [State.moveTakeMark_of_notTaking hb]
    rfl
  · cases hm : s.marks.move with
    | nil =>
      rw [State.moveTakeMark_of_none hm]
      exact congrArg (fun l => { s.marks with move := l }) hm
    | cons m rest =>
      rw [State.moveTakeMark_of_cons hb hm]
      simp

/-- The Wait List takes at most the first of its marks, and no other block's. -/
theorem State.waitTakeMark_marks (s : State) :
    s.waitTakeMark.marks = { s.marks with wait := if s.takesMarks then s.marks.wait.tail else s.marks.wait } := by
  cases hb : s.takesMarks
  · rw [State.waitTakeMark_of_notTaking hb]
    rfl
  · cases hm : s.marks.wait with
    | nil =>
      rw [State.waitTakeMark_of_none hm]
      exact congrArg (fun l => { s.marks with wait := l }) hm
    | cons m rest =>
      rw [State.waitTakeMark_of_cons hb hm]
      simp

@[simp] theorem State.poolTakeReport_pending (s : State) : s.poolTakeReport.pending = s.pending := by
  unfold State.poolTakeReport
  split
  · rfl
  · rw [State.foldl_keeps _ (fun t => t.pending) (fun t e => State.promoteRecord_pending _ t e)]

@[simp] theorem State.poolTakeReport_resetLow (s : State) : s.poolTakeReport.resetLow = s.resetLow := by
  unfold State.poolTakeReport
  split
  · rfl
  · rw [State.foldl_keeps _ (fun t => t.resetLow) (fun t e => State.promoteRecord_resetLow _ t e)]

@[simp] theorem State.poolTakeReport_map (s : State) : s.poolTakeReport.map = s.map := by
  unfold State.poolTakeReport
  split
  · rfl
  · rw [State.foldl_keeps _ (fun t => t.map) (fun t e => State.promoteRecord_map _ t e)]

@[simp] theorem State.poolTakeReport_engine (s : State) : s.poolTakeReport.engine = s.engine := by
  unfold State.poolTakeReport
  split
  · rfl
  · rw [State.foldl_keeps _ (fun t => t.engine) (fun t e => State.promoteRecord_engine _ t e)]

@[simp] theorem State.poolTakeReport_waits (s : State) : s.poolTakeReport.waits = s.waits := by
  unfold State.poolTakeReport
  split
  · rfl
  · rw [State.foldl_keeps _ (fun t => t.waits) (fun t e => State.promoteRecord_waits _ t e)]

@[simp] theorem State.poolTakeReport_timing (s : State) : s.poolTakeReport.timing = s.timing := by
  unfold State.poolTakeReport
  split
  · rfl
  · rw [State.foldl_keeps _ (fun t => t.timing) (fun t e => State.promoteRecord_timing _ t e)]

@[simp] theorem State.poolTakeReport_marks (s : State) : s.poolTakeReport.marks = s.marks := by
  unfold State.poolTakeReport
  split
  · rfl
  · rw [State.foldl_keeps _ (fun t => t.marks) (fun t e => State.promoteRecord_marks _ t e)]

@[simp] theorem State.poolTakeReport_moves (s : State) : s.poolTakeReport.moves = s.moves := by
  unfold State.poolTakeReport
  split
  · rfl
  · rw [State.foldl_keeps _ (fun t => t.moves) (fun t e => State.promoteRecord_moves _ t e)]

@[simp] theorem State.poolTakeReport_units (s : State) : s.poolTakeReport.units = s.units := by
  unfold State.poolTakeReport
  split
  · rfl
  · rw [State.foldl_keeps _ (fun t => t.units) (fun t e => State.promoteRecord_units _ t e)]

@[simp] theorem State.poolTakeReport_params (s : State) : s.poolTakeReport.params = s.params := by
  unfold State.poolTakeReport
  split
  · rfl
  · rw [State.foldl_keeps _ (fun t => t.params) (fun t e => State.promoteRecord_params _ t e)]

@[simp] theorem State.moveTakeReport_pending (s : State) : s.moveTakeReport.pending = s.pending := by
  unfold State.moveTakeReport
  split
  · rfl
  · rw [State.foldl_keeps _ (fun t => t.pending) (fun t e => State.startOverlap_pending _ t e)]

@[simp] theorem State.moveTakeReport_resetLow (s : State) : s.moveTakeReport.resetLow = s.resetLow := by
  unfold State.moveTakeReport
  split
  · rfl
  · rw [State.foldl_keeps _ (fun t => t.resetLow) (fun t e => State.startOverlap_resetLow _ t e)]

@[simp] theorem State.moveTakeReport_map (s : State) : s.moveTakeReport.map = s.map := by
  unfold State.moveTakeReport
  split
  · rfl
  · rw [State.foldl_keeps _ (fun t => t.map) (fun t e => State.startOverlap_map _ t e)]

@[simp] theorem State.moveTakeReport_pool (s : State) : s.moveTakeReport.pool = s.pool := by
  unfold State.moveTakeReport
  split
  · rfl
  · rw [State.foldl_keeps _ (fun t => t.pool) (fun t e => State.startOverlap_pool _ t e)]

@[simp] theorem State.moveTakeReport_engine (s : State) : s.moveTakeReport.engine = s.engine := by
  unfold State.moveTakeReport
  split
  · rfl
  · rw [State.foldl_keeps _ (fun t => t.engine) (fun t e => State.startOverlap_engine _ t e)]

@[simp] theorem State.moveTakeReport_waits (s : State) : s.moveTakeReport.waits = s.waits := by
  unfold State.moveTakeReport
  split
  · rfl
  · rw [State.foldl_keeps _ (fun t => t.waits) (fun t e => State.startOverlap_waits _ t e)]

@[simp] theorem State.moveTakeReport_timing (s : State) : s.moveTakeReport.timing = s.timing := by
  unfold State.moveTakeReport
  split
  · rfl
  · rw [State.foldl_keeps _ (fun t => t.timing) (fun t e => State.startOverlap_timing _ t e)]

@[simp] theorem State.moveTakeReport_marks (s : State) : s.moveTakeReport.marks = s.marks := by
  unfold State.moveTakeReport
  split
  · rfl
  · rw [State.foldl_keeps _ (fun t => t.marks) (fun t e => State.startOverlap_marks _ t e)]

@[simp] theorem State.moveTakeReport_units (s : State) : s.moveTakeReport.units = s.units := by
  unfold State.moveTakeReport
  split
  · rfl
  · rw [State.foldl_keeps _ (fun t => t.units) (fun t e => State.startOverlap_units _ t e)]

@[simp] theorem State.moveTakeReport_params (s : State) : s.moveTakeReport.params = s.params := by
  unfold State.moveTakeReport
  split
  · rfl
  · rw [State.foldl_keeps _ (fun t => t.params) (fun t e => State.startOverlap_params _ t e)]

@[simp] theorem State.settle_pending (s : State) : s.settle.pending = s.pending := by
  simp [State.settle]

@[simp] theorem State.settle_resetLow (s : State) : s.settle.resetLow = s.resetLow := by
  simp [State.settle]

@[simp] theorem State.settle_units (s : State) : s.settle.units = s.units := by
  simp [State.settle]

@[simp] theorem State.settle_params (s : State) : s.settle.params = s.params := by
  simp [State.settle]

/-- Settling sets the frame counter and nothing else of the unit (R90). -/
theorem State.settle_timing (s : State) :
    s.settle.timing = { s.timing with frameCounter := s.settle.timing.frameCounter } := by
  simp only [State.settle, State.waitTakeMark_timing, State.moveTakeMark_timing, State.leaseTakeMark_timing,
    State.moveTakeReport_timing, State.poolTakeReport_timing]
  exact State.mapTakeMark_timing s

/-! ## The owner lines -/

/-- Driving the lines changes OWNV and OWN2 to OWN0 and nothing else (R93, R94). -/
theorem State.driveLines_eq (s : State) :
    s.driveLines = { s with timing := { s.timing with ownv := s.driveLines.timing.ownv, own := s.driveLines.timing.own } } := by
  unfold State.driveLines
  dsimp only
  rw [FrameTiming.drive_eq]

/-- A slot edge after the latch moves the slot index and drives the lines (R91, R93). -/
theorem State.takeEdge_of_none {s : State} (h : s.marks.slotMap = []) :
    s.takeEdge = State.driveLines { s with timing := s.timing.edge } := by
  rw [State.takeEdge, State.mapTakeMark_of_none h]

@[simp] theorem State.takeEdge_pending (s : State) : s.takeEdge.pending = s.pending := by
  simp [State.takeEdge, State.driveLines]

@[simp] theorem State.takeEdge_resetLow (s : State) : s.takeEdge.resetLow = s.resetLow := by
  simp [State.takeEdge, State.driveLines]

@[simp] theorem State.takeEdge_units (s : State) : s.takeEdge.units = s.units := by
  simp [State.takeEdge, State.driveLines]

@[simp] theorem State.takeEdge_params (s : State) : s.takeEdge.params = s.params := by
  simp [State.takeEdge, State.driveLines]

@[simp] theorem State.takeEdge_pool (s : State) : s.takeEdge.pool = s.pool := by
  simp [State.takeEdge, State.driveLines]

@[simp] theorem State.takeEdge_waits (s : State) : s.takeEdge.waits = s.waits := by
  simp [State.takeEdge, State.driveLines]

@[simp] theorem State.takeEdge_moves (s : State) : s.takeEdge.moves = s.moves := by
  simp [State.takeEdge, State.driveLines]

/-! ## The bits of a transfer -/

/-- The bits of a byte, the most significant first, spell it again (R127). -/
@[simp] theorem packByte_octetOf : ∀ b : Byte, packByte (octetOf b) = b := by decide +kernel

end Sys2Proof.Machine
end

