-- ==== Sys2Proof/Laws/Reset.lean ====
section
/-! SUPPORT. What a port reset, a grant of a pass and the issue of a ticket do (R71, R77, R145, R185). -/

namespace Sys2Proof.Machine

/-! ## The first six steps of a port reset -/

@[simp] theorem State.removePortEntries_pending (p : Port) (s : State) :
    (s.removePortEntries p).pending = s.pending := by
  unfold State.removePortEntries; dsimp only; split <;> rfl

@[simp] theorem State.removePortEntries_resetLow (p : Port) (s : State) :
    (s.removePortEntries p).resetLow = s.resetLow := by
  unfold State.removePortEntries; dsimp only; split <;> rfl

@[simp] theorem State.removePortEntries_map (p : Port) (s : State) :
    (s.removePortEntries p).map = s.map := by
  unfold State.removePortEntries; dsimp only; split <;> rfl

@[simp] theorem State.removePortEntries_pool (p : Port) (s : State) :
    (s.removePortEntries p).pool = s.pool := by
  unfold State.removePortEntries; dsimp only; split <;> rfl

@[simp] theorem State.removePortEntries_timing (p : Port) (s : State) :
    (s.removePortEntries p).timing = s.timing := by
  unfold State.removePortEntries; dsimp only; split <;> rfl

@[simp] theorem State.removePortEntries_marks (p : Port) (s : State) :
    (s.removePortEntries p).marks = s.marks := by
  unfold State.removePortEntries; dsimp only; split <;> rfl

@[simp] theorem State.removePortEntries_moves (p : Port) (s : State) :
    (s.removePortEntries p).moves = s.moves := by
  unfold State.removePortEntries; dsimp only; split <;> rfl

@[simp] theorem State.removePortEntries_units (p : Port) (s : State) :
    (s.removePortEntries p).units = s.units := by
  unfold State.removePortEntries; dsimp only; split <;> rfl

@[simp] theorem State.removePortEntries_reports (p : Port) (s : State) :
    (s.removePortEntries p).reports = s.reports := by
  unfold State.removePortEntries; dsimp only; split <;> rfl

@[simp] theorem State.removePortEntries_params (p : Port) (s : State) :
    (s.removePortEntries p).params = s.params := by
  unfold State.removePortEntries; dsimp only; split <;> rfl

@[simp] theorem State.removePortEntries_waits (p : Port) (s : State) :
    (s.removePortEntries p).waits = { s.waits with entries := s.waits.entries.filter fun e => e.port ≠ p } := by
  unfold State.removePortEntries; dsimp only; split <;> rfl

@[simp] theorem State.removePortEntries_ports (p : Port) (s : State) :
    (s.removePortEntries p).ports = s.ports.modify p fun c => { c with promised := 0 } := by
  unfold State.removePortEntries; dsimp only; split <;> rfl

@[simp] theorem State.removePortEntries_engine (p : Port) (s : State) :
    (s.removePortEntries p).engine =
      { s.engine with waitReq := s.engine.waitReq || s.waits.entries.any fun e => decide (e.port = p) } := by
  unfold State.removePortEntries
  dsimp only
  split
  · next h => rw [h]; simp
  · next h => rw [Bool.not_eq_true] at h; rw [h]; simp

@[simp] theorem State.freePortUnits_pending (p : Port) (s : State) :
    (s.freePortUnits p).pending = s.pending := rfl

@[simp] theorem State.freePortUnits_resetLow (p : Port) (s : State) :
    (s.freePortUnits p).resetLow = s.resetLow := rfl

@[simp] theorem State.freePortUnits_map (p : Port) (s : State) :
    (s.freePortUnits p).map = s.map := rfl

@[simp] theorem State.freePortUnits_pool (p : Port) (s : State) :
    (s.freePortUnits p).pool = s.pool := rfl

@[simp] theorem State.freePortUnits_engine (p : Port) (s : State) :
    (s.freePortUnits p).engine = s.engine := rfl

@[simp] theorem State.freePortUnits_waits (p : Port) (s : State) :
    (s.freePortUnits p).waits = s.waits := rfl

@[simp] theorem State.freePortUnits_timing (p : Port) (s : State) :
    (s.freePortUnits p).timing = s.timing := rfl

@[simp] theorem State.freePortUnits_marks (p : Port) (s : State) :
    (s.freePortUnits p).marks = s.marks := rfl

@[simp] theorem State.freePortUnits_moves (p : Port) (s : State) :
    (s.freePortUnits p).moves = s.moves := rfl

@[simp] theorem State.freePortUnits_ports (p : Port) (s : State) :
    (s.freePortUnits p).ports = s.ports := rfl

@[simp] theorem State.freePortUnits_reports (p : Port) (s : State) :
    (s.freePortUnits p).reports = s.reports := rfl

@[simp] theorem State.freePortUnits_params (p : Port) (s : State) :
    (s.freePortUnits p).params = s.params := rfl

@[simp] theorem State.dropRequester_pending (p : Port) (s : State) :
    (s.dropRequester p).pending = s.pending := rfl

@[simp] theorem State.dropRequester_resetLow (p : Port) (s : State) :
    (s.dropRequester p).resetLow = s.resetLow := rfl

@[simp] theorem State.dropRequester_map (p : Port) (s : State) :
    (s.dropRequester p).map = s.map := rfl

@[simp] theorem State.dropRequester_pool (p : Port) (s : State) :
    (s.dropRequester p).pool = s.pool := rfl

@[simp] theorem State.dropRequester_engine (p : Port) (s : State) :
    (s.dropRequester p).engine = s.engine := rfl

@[simp] theorem State.dropRequester_waits (p : Port) (s : State) :
    (s.dropRequester p).waits = s.waits := rfl

@[simp] theorem State.dropRequester_timing (p : Port) (s : State) :
    (s.dropRequester p).timing = s.timing := rfl

@[simp] theorem State.dropRequester_marks (p : Port) (s : State) :
    (s.dropRequester p).marks = s.marks := rfl

@[simp] theorem State.dropRequester_ports (p : Port) (s : State) :
    (s.dropRequester p).ports = s.ports := rfl

@[simp] theorem State.dropRequester_units (p : Port) (s : State) :
    (s.dropRequester p).units = s.units := rfl

@[simp] theorem State.dropRequester_reports (p : Port) (s : State) :
    (s.dropRequester p).reports = s.reports := rfl

@[simp] theorem State.dropRequester_params (p : Port) (s : State) :
    (s.dropRequester p).params = s.params := rfl

@[simp] theorem State.resetDealings_pending (p : Port) (s : State) :
    (s.resetDealings p).pending = s.pending := by
  simp [State.resetDealings]

@[simp] theorem State.resetDealings_resetLow (p : Port) (s : State) :
    (s.resetDealings p).resetLow = s.resetLow := by
  simp [State.resetDealings]

@[simp] theorem State.resetDealings_map (p : Port) (s : State) :
    (s.resetDealings p).map = s.map := by
  simp [State.resetDealings]

@[simp] theorem State.resetDealings_pool (p : Port) (s : State) :
    (s.resetDealings p).pool = s.pool := by
  simp [State.resetDealings]

@[simp] theorem State.resetDealings_timing (p : Port) (s : State) :
    (s.resetDealings p).timing = s.timing := by
  simp [State.resetDealings]

@[simp] theorem State.resetDealings_marks (p : Port) (s : State) :
    (s.resetDealings p).marks = s.marks := by
  simp [State.resetDealings]

@[simp] theorem State.resetDealings_reports (p : Port) (s : State) :
    (s.resetDealings p).reports = s.reports := by
  simp [State.resetDealings]

@[simp] theorem State.resetDealings_params (p : Port) (s : State) :
    (s.resetDealings p).params = s.params := by
  simp [State.resetDealings]

@[simp] theorem State.resetDealings_waits (p : Port) (s : State) :
    (s.resetDealings p).waits = { s.waits with entries := s.waits.entries.filter fun e => e.port ≠ p } := by
  simp [State.resetDealings]

@[simp] theorem State.resetDealings_ports (p : Port) (s : State) :
    (s.resetDealings p).ports = s.ports.modify p fun c => { c.clear with promised := 0 } := by
  simp only [State.resetDealings, State.dropRequester_ports, State.freePortUnits_ports, State.removePortEntries_ports,
    State.setWork_ports, State.modPort_ports]
  apply Table.ext
  intro q
  simp only [Table.get_modify]
  split <;> rfl

@[simp] theorem State.resetDealings_engine (p : Port) (s : State) :
    (s.resetDealings p).engine = { s.engine with
      work := s.engine.work.withdraw p
      waitReq := s.engine.waitReq || s.waits.entries.any fun e => decide (e.port = p) } := by
  simp [State.resetDealings]

theorem State.resetDealings_units (p : Port) (k : UnitIx) (s : State) :
    (s.resetDealings p).units.get k = (s.units.get k).bind fun u => if u.owner = p then none else some u := by
  simp only [State.resetDealings, State.dropRequester_units, State.freePortUnits, Table.get_map]
  simp only [State.removePortEntries_units, State.setWork_units, State.modPort_units]
  cases s.units.get k <;> rfl

theorem State.resetDealings_moves (p : Port) (k : CtxIx) (s : State) :
    (s.resetDealings p).moves.get k = (s.moves.get k).map fun c =>
      if c.requesterPort = some p ∧ s.ownerOf c.index ≠ some p then { c with requester := none } else c := by
  simp only [State.resetDealings, State.dropRequester, Table.get_map]
  simp only [State.freePortUnits_moves, State.removePortEntries_moves, State.setWork_moves, State.modPort_moves]
  cases s.moves.get k with
  | none => rfl
  | some c =>
    dsimp only [Option.map_some]
    have e : State.ownerOf c.index ((((s.modPort p ClientPort.clear).setWork
        (s.engine.work.withdraw p)).removePortEntries p).freePortUnits p) = s.ownerOf c.index := by
      simp [State.ownerOf, State.reservation]
    rw [e]
    by_cases h : c.requesterPort = some p <;> by_cases g : s.ownerOf c.index = some p <;> simp [h, g]

/-! ## The seventh step -/

@[simp] theorem State.resetRecord_pending (p : Port) (policy : ResetPolicy) (s : State) (i : RecIx) :
    (s.resetRecord p policy i).pending = s.pending := by
  unfold State.resetRecord
  split <;> [split <;> [simp; split <;> [split <;> [simp; rfl; rfl]; rfl]]; rfl]

@[simp] theorem State.resetRecord_resetLow (p : Port) (policy : ResetPolicy) (s : State) (i : RecIx) :
    (s.resetRecord p policy i).resetLow = s.resetLow := by
  unfold State.resetRecord
  split <;> [split <;> [simp; split <;> [split <;> [simp; rfl; rfl]; rfl]]; rfl]

@[simp] theorem State.resetRecord_waits (p : Port) (policy : ResetPolicy) (s : State) (i : RecIx) :
    (s.resetRecord p policy i).waits = s.waits := by
  unfold State.resetRecord
  split <;> [split <;> [simp; split <;> [split <;> [simp; rfl; rfl]; rfl]]; rfl]

@[simp] theorem State.resetRecord_timing (p : Port) (policy : ResetPolicy) (s : State) (i : RecIx) :
    (s.resetRecord p policy i).timing = s.timing := by
  unfold State.resetRecord
  split <;> [split <;> [simp; split <;> [split <;> [simp; rfl; rfl]; rfl]]; rfl]

@[simp] theorem State.resetRecord_marks (p : Port) (policy : ResetPolicy) (s : State) (i : RecIx) :
    (s.resetRecord p policy i).marks = s.marks := by
  unfold State.resetRecord
  split <;> [split <;> [simp; split <;> [split <;> [simp; rfl; rfl]; rfl]]; rfl]

@[simp] theorem State.resetRecord_units (p : Port) (policy : ResetPolicy) (s : State) (i : RecIx) :
    (s.resetRecord p policy i).units = s.units := by
  unfold State.resetRecord
  split <;> [split <;> [simp; split <;> [split <;> [simp; rfl; rfl]; rfl]]; rfl]

@[simp] theorem State.resetRecord_params (p : Port) (policy : ResetPolicy) (s : State) (i : RecIx) :
    (s.resetRecord p policy i).params = s.params := by
  unfold State.resetRecord
  split <;> [split <;> [simp; split <;> [split <;> [simp; rfl; rfl]; rfl]]; rfl]

@[simp] theorem State.portReset_pending (p : Port) (s : State) :
    (s.portReset p).pending = s.pending := by
  unfold State.portReset
  dsimp only
  rw [State.foldl_keeps _ (fun t => t.pending) (fun t i => State.resetRecord_pending p _ t i)]
  simp

@[simp] theorem State.portReset_resetLow (p : Port) (s : State) :
    (s.portReset p).resetLow = s.resetLow := by
  unfold State.portReset
  dsimp only
  rw [State.foldl_keeps _ (fun t => t.resetLow) (fun t i => State.resetRecord_resetLow p _ t i)]
  simp

@[simp] theorem State.portReset_timing (p : Port) (s : State) :
    (s.portReset p).timing = s.timing := by
  unfold State.portReset
  dsimp only
  rw [State.foldl_keeps _ (fun t => t.timing) (fun t i => State.resetRecord_timing p _ t i)]
  simp

@[simp] theorem State.portReset_marks (p : Port) (s : State) :
    (s.portReset p).marks = s.marks := by
  unfold State.portReset
  dsimp only
  rw [State.foldl_keeps _ (fun t => t.marks) (fun t i => State.resetRecord_marks p _ t i)]
  simp

@[simp] theorem State.portReset_params (p : Port) (s : State) :
    (s.portReset p).params = s.params := by
  unfold State.portReset
  dsimp only
  rw [State.foldl_keeps _ (fun t => t.params) (fun t i => State.resetRecord_params p _ t i)]
  simp

@[simp] theorem State.portReset_waits (p : Port) (s : State) :
    (s.portReset p).waits = { s.waits with entries := s.waits.entries.filter fun e => e.port ≠ p } := by
  unfold State.portReset
  dsimp only
  rw [State.foldl_keeps _ (fun t => t.waits) (fun t i => State.resetRecord_waits p _ t i)]
  simp

theorem State.portReset_units (p : Port) (k : UnitIx) (s : State) :
    (s.portReset p).units.get k = (s.units.get k).bind fun u => if u.owner = p then none else some u := by
  unfold State.portReset
  dsimp only
  rw [State.foldl_keeps _ (fun t => t.units) (fun t i => State.resetRecord_units p _ t i), State.resetDealings_units]

/-! ## A grant of a pass -/

@[simp] theorem State.grantEntry_pending (e : WaitEntry) (set : List Run) (i : RecIx) (rest : List RecIx) (s : State) :
    (s.grantEntry e set i rest).pending = s.pending := by
  simp [State.grantEntry]

@[simp] theorem State.grantEntry_resetLow (e : WaitEntry) (set : List Run) (i : RecIx) (rest : List RecIx) (s : State) :
    (s.grantEntry e set i rest).resetLow = s.resetLow := by
  simp [State.grantEntry]

@[simp] theorem State.grantEntry_timing (e : WaitEntry) (set : List Run) (i : RecIx) (rest : List RecIx) (s : State) :
    (s.grantEntry e set i rest).timing = s.timing := by
  simp [State.grantEntry]

@[simp] theorem State.grantEntry_marks (e : WaitEntry) (set : List Run) (i : RecIx) (rest : List RecIx) (s : State) :
    (s.grantEntry e set i rest).marks = s.marks := by
  simp [State.grantEntry]

@[simp] theorem State.grantEntry_moves (e : WaitEntry) (set : List Run) (i : RecIx) (rest : List RecIx) (s : State) :
    (s.grantEntry e set i rest).moves = s.moves := by
  simp [State.grantEntry]

@[simp] theorem State.grantEntry_units (e : WaitEntry) (set : List Run) (i : RecIx) (rest : List RecIx) (s : State) :
    (s.grantEntry e set i rest).units = s.units := by
  simp [State.grantEntry]

@[simp] theorem State.grantEntry_params (e : WaitEntry) (set : List Run) (i : RecIx) (rest : List RecIx) (s : State) :
    (s.grantEntry e set i rest).params = s.params := by
  simp [State.grantEntry]

@[simp] theorem State.grantTrial_pending (s : State) (t : Trial) :
    (s.grantTrial t).pending = s.pending := by
  unfold State.grantTrial
  split <;> [rfl; split <;> [split <;> [rfl; simp]; rfl]]

@[simp] theorem State.grantTrial_resetLow (s : State) (t : Trial) :
    (s.grantTrial t).resetLow = s.resetLow := by
  unfold State.grantTrial
  split <;> [rfl; split <;> [split <;> [rfl; simp]; rfl]]

@[simp] theorem State.grantTrial_timing (s : State) (t : Trial) :
    (s.grantTrial t).timing = s.timing := by
  unfold State.grantTrial
  split <;> [rfl; split <;> [split <;> [rfl; simp]; rfl]]

@[simp] theorem State.grantTrial_marks (s : State) (t : Trial) :
    (s.grantTrial t).marks = s.marks := by
  unfold State.grantTrial
  split <;> [rfl; split <;> [split <;> [rfl; simp]; rfl]]

@[simp] theorem State.grantTrial_moves (s : State) (t : Trial) :
    (s.grantTrial t).moves = s.moves := by
  unfold State.grantTrial
  split <;> [rfl; split <;> [split <;> [rfl; simp]; rfl]]

@[simp] theorem State.grantTrial_units (s : State) (t : Trial) :
    (s.grantTrial t).units = s.units := by
  unfold State.grantTrial
  split <;> [rfl; split <;> [split <;> [rfl; simp]; rfl]]

@[simp] theorem State.grantTrial_params (s : State) (t : Trial) :
    (s.grantTrial t).params = s.params := by
  unfold State.grantTrial
  split <;> [rfl; split <;> [split <;> [rfl; simp]; rfl]]

/-! ## Tickets -/

/-- The ticket looked for is free, and every value passed over is held, where a free one lies within reach (R71). -/
theorem freeTicket_spec (held : List Byte) (k : Nat) (t : Byte) :
    (freeTicket held k t ∉ held ∨ ∀ j, j ≤ k → t + BitVec.ofNat 8 j ∈ held) ∧
    ∃ d, d ≤ k ∧ freeTicket held k t = t + BitVec.ofNat 8 d ∧ ∀ j, j < d → t + BitVec.ofNat 8 j ∈ held := by
  induction k generalizing t with
  | zero =>
    refine ⟨?_, 0, le_refl _, by simp [freeTicket], by simp⟩
    by_cases h : t ∈ held
    · exact Or.inr fun j hj => by simpa [Nat.le_zero.mp hj] using h
    · exact Or.inl h
  | succ k ih =>
    unfold freeTicket
    have shift : ∀ j : Nat, t + 1#8 + BitVec.ofNat 8 j = t + BitVec.ofNat 8 (j + 1) := by
      intro j; rw [BitVec.add_assoc, ← BitVec.ofNat_add, Nat.add_comm]
    by_cases h : held.contains t = true
    · rw [if_pos h]
      have ht : t ∈ held := by simpa using h
      obtain ⟨h1, d, hd, he, hp⟩ := ih (t + 1#8)
      refine ⟨?_, d + 1, by omega, by rw [he, shift], ?_⟩
      · rcases h1 with h1 | h1
        · exact Or.inl h1
        · refine Or.inr fun j hj => ?_
          cases j with
          | zero => simpa using ht
          | succ j => rw [← shift]; exact h1 j (by omega)
      · intro j hj
        cases j with
        | zero => simpa using ht
        | succ j => rw [← shift]; exact hp j (by omega)
    · rw [if_neg h]
      have ht : t ∉ held := by simpa using h
      exact ⟨Or.inl ht, 0, by omega, by simp, by simp⟩

/-- The next ticket is held by no entry, where fewer than 256 entries stand on the list (R71). -/
theorem WaitList.nextTicket_free (w : WaitList) (h : w.entries.length < 256) :
    w.nextTicket ∉ w.entries.map WaitEntry.ticket := by
  unfold WaitList.nextTicket
  rcases (freeTicket_spec (w.entries.map WaitEntry.ticket) w.entries.length (w.lastTicket + 1#8)).1 with h1 | h1
  · exact h1
  · exfalso
    have sub : ((List.range (w.entries.length + 1)).map fun j => w.lastTicket + 1#8 + BitVec.ofNat 8 j) ⊆
        w.entries.map WaitEntry.ticket := by
      intro x hx
      obtain ⟨j, hj, rfl⟩ := List.mem_map.mp hx
      exact h1 j (by have := List.mem_range.mp hj; omega)
    have nd : ((List.range (w.entries.length + 1)).map fun j => w.lastTicket + 1#8 + BitVec.ofNat 8 j).Nodup := by
      apply List.Nodup.map_on _ List.nodup_range
      intro a ha b hb hab
      have ha' := List.mem_range.mp ha
      have hb' := List.mem_range.mp hb
      have : BitVec.ofNat 8 a = BitVec.ofNat 8 b := by simpa using hab
      have := congrArg BitVec.toNat this
      simp only [BitVec.toNat_ofNat] at this
      omega
    have := (List.subperm_of_subset nd sub).length_le
    simp only [List.length_map, List.length_range] at this
    omega

end Sys2Proof.Machine
end

