-- ==== Sys2Proof/Laws/Search.lean ====
section
/-! SUPPORT. What the parts of a placement search give: stretches of FREE slots inside the segments, and runs cut from
stretches (R61, R62, R63). -/

namespace Sys2Proof.Machine

/-! ## Runs inside runs -/

/-- Run `q` lies inside run `r`. -/
def Run.within (r q : Run) : Prop :=
  r.first ≤ q.first ∧ q.first + q.len ≤ r.first + r.len

theorem Run.has_iff (r : Run) (i : Nat) : r.has i = true ↔ r.first ≤ i ∧ i < r.first + r.len := by
  simp [Run.has]

theorem Run.has_of_within {r q : Run} (w : r.within q) {i : Nat} (h : q.has i = true) : r.has i = true := by
  rw [Run.has_iff] at *
  obtain ⟨w1, w2⟩ := w
  omega

theorem Run.disjoint_iff (r q : Run) :
    r.disjoint q = true ↔ r.first + r.len ≤ q.first ∨ q.first + q.len ≤ r.first := by
  simp [Run.disjoint]

theorem Run.disjoint_of_within {r q r' q' : Run} (h : r.disjoint q = true) (w : r.within r') (v : q.within q') :
    r'.disjoint q' = true := by
  rw [Run.disjoint_iff] at *
  obtain ⟨w1, w2⟩ := w
  obtain ⟨v1, v2⟩ := v
  omega

theorem runsDisjoint_iff (l : List Run) : runsDisjoint l = true ↔ l.Pairwise fun r q => r.disjoint q = true := by
  induction l with
  | nil => simp [runsDisjoint]
  | cons r l ih => simp [runsDisjoint, ih]

theorem mem_inSet (set : List Run) (i : Nat) : inSet set i = true ↔ ∃ r ∈ set, r.has i = true := by
  simp [inSet]

/-! ## Stretches -/

/-- The stretches of one segment, read in order: each is a run of readings that were FREE, inside the segment, each ending
before the next begins. -/
theorem stretchesFrom_spec (l : List Bool) (i : Nat) :
    (∀ r ∈ stretchesFrom i l, 1 ≤ r.len ∧ i ≤ r.first ∧ r.first + r.len ≤ i + l.length ∧
      ∀ j, r.has j = true → l[j - i]? = some true) ∧
    (stretchesFrom i l).Pairwise fun r q => r.first + r.len ≤ q.first := by
  induction l generalizing i with
  | nil => simp [stretchesFrom]
  | cons b l ih =>
    obtain ⟨h1, h2⟩ := ih (i + 1)
    have shift : ∀ r ∈ stretchesFrom (i + 1) l, 1 ≤ r.len ∧ i ≤ r.first ∧
        r.first + r.len ≤ i + (b :: l).length ∧ ∀ j, r.has j = true → (b :: l)[j - i]? = some true := by
      intro r hr
      obtain ⟨a1, a2, a3, a4⟩ := h1 r hr
      refine ⟨a1, by omega, by simp only [List.length_cons]; omega, fun j hj => ?_⟩
      have hk := (Run.has_iff r j).mp hj
      have : j - i = (j - (i + 1)) + 1 := by omega
      rw [this, List.getElem?_cons_succ]
      exact a4 j hj
    cases b with
    | false => exact ⟨shift, h2⟩
    | true =>
      simp only [stretchesFrom]
      cases hs : stretchesFrom (i + 1) l with
      | nil =>
        refine ⟨?_, by simp⟩
        intro r hr
        simp only [List.mem_singleton] at hr
        subst hr
        refine ⟨le_refl _, le_refl _, by simp, fun j hj => ?_⟩
        have hk := (Run.has_iff _ j).mp hj
        have : j - i = 0 := by dsimp only at hk; omega
        simp [this]
      | cons r rs =>
        rw [hs] at h1 h2 shift
        obtain ⟨h2a, h2b⟩ := List.pairwise_cons.mp h2
        obtain ⟨s1, s2, s3, s4⟩ := shift r (by simp)
        obtain ⟨-, g2, -, -⟩ := h1 r (by simp)
        have single : ∀ k, 1 ≤ k → (∀ j, i < j → j < i + k → r.has j = true) → i + k ≤ i + l.length + 1 →
            1 ≤ (⟨i, k⟩ : Run).len ∧ i ≤ (⟨i, k⟩ : Run).first ∧
            (⟨i, k⟩ : Run).first + (⟨i, k⟩ : Run).len ≤ i + (true :: l).length ∧
            ∀ j, (⟨i, k⟩ : Run).has j = true → (true :: l)[j - i]? = some true := by
          intro k hk hin hlen
          refine ⟨hk, le_refl _, by simp only [List.length_cons]; omega, fun j hj => ?_⟩
          have hj' := (Run.has_iff _ j).mp hj
          dsimp only at hj'
          by_cases e : j = i
          · subst e; simp
          · exact s4 j (hin j (by omega) (by omega))
        dsimp only
        split
        · next hf =>
          refine ⟨?_, ?_⟩
          · intro q hq
            rcases List.mem_cons.mp hq with rfl | hq
            · apply single
              · omega
              · intro j hj1 hj2
                rw [Run.has_iff]; omega
              · simp only [List.length_cons] at s3; omega
            · exact shift q (List.mem_cons_of_mem _ hq)
          · rw [List.pairwise_cons]
            refine ⟨fun q hq => ?_, h2b⟩
            have := h2a q hq
            dsimp only
            omega
        · refine ⟨?_, ?_⟩
          · intro q hq
            rcases List.mem_cons.mp hq with rfl | hq
            · apply single
              · omega
              · intro j hj1 hj2; omega
              · omega
            · exact shift q hq
          · rw [List.pairwise_cons]
            refine ⟨fun q hq => ?_, h2⟩
            dsimp only
            obtain ⟨-, k2, -, -⟩ := h1 q hq
            omega

/-- The stretches of all segments, each read now by `free`: every stretch lies in a segment and is FREE throughout. -/
theorem stretchesOf_spec (free : Nat → Bool) (segs : List Run) :
    (∀ r ∈ stretchesOf segs ((segs.flatMap Run.slots).map free), 1 ≤ r.len ∧
      (∃ seg ∈ segs, seg.within r) ∧ ∀ j, r.has j = true → free j = true) ∧
    (segs.Pairwise (fun r q => r.disjoint q = true) →
      (stretchesOf segs ((segs.flatMap Run.slots).map free)).Pairwise fun r q => r.disjoint q = true) := by
  induction segs with
  | nil => simp [stretchesOf]
  | cons seg segs ih =>
    obtain ⟨h1, h2⟩ := ih
    have hlen : (seg.slots.map free).length = seg.len := by simp [Run.slots]
    have ht : (((seg :: segs).flatMap Run.slots).map free).take seg.len = seg.slots.map free := by
      rw [List.flatMap_cons, List.map_append, ← hlen, List.take_left]
    have hd : (((seg :: segs).flatMap Run.slots).map free).drop seg.len = (segs.flatMap Run.slots).map free := by
      rw [List.flatMap_cons, List.map_append, ← hlen, List.drop_left]
    simp only [stretchesOf, ht, hd]
    obtain ⟨f1, f2⟩ := stretchesFrom_spec (seg.slots.map free) seg.first
    have first : ∀ r ∈ stretchesFrom seg.first (seg.slots.map free), 1 ≤ r.len ∧ seg.within r ∧
        ∀ j, r.has j = true → free j = true := by
      intro r hr
      obtain ⟨a1, a2, a3, a4⟩ := f1 r hr
      rw [hlen] at a3
      refine ⟨a1, ⟨a2, a3⟩, fun j hj => ?_⟩
      have h := a4 j hj
      have hk := (Run.has_iff r j).mp hj
      rw [List.getElem?_map] at h
      unfold Run.slots at h
      rw [List.getElem?_range' (by omega)] at h
      simp only [Option.map_some, Option.some.injEq] at h
      have e : seg.first + 1 * (j - seg.first) = j := by omega
      rwa [e] at h
    constructor
    · intro r hr
      rcases List.mem_append.mp hr with hr | hr
      · obtain ⟨a1, a2, a3⟩ := first r hr
        exact ⟨a1, ⟨seg, by simp, a2⟩, a3⟩
      · obtain ⟨a1, ⟨g, hg, hw⟩, a3⟩ := h1 r hr
        exact ⟨a1, ⟨g, List.mem_cons_of_mem _ hg, hw⟩, a3⟩
    · intro hp
      obtain ⟨p1, p2⟩ := List.pairwise_cons.mp hp
      rw [List.pairwise_append]
      refine ⟨f2.imp ?_, h2 p2, ?_⟩
      · intro a b hab; rw [Run.disjoint_iff]; exact Or.inl hab
      · intro a ha b hb
        obtain ⟨-, wa, -⟩ := first a ha
        obtain ⟨-, ⟨g, hg, wb⟩, -⟩ := h1 b hb
        exact Run.disjoint_of_within (p1 g hg) wa wb

/-! ## Runs cut from stretches -/

/-- Runs cut from one stretch: inside it, of 1 to 64 slots, in order, no more than `left`, and counted (R63). -/
theorem takeRuns_spec (minRun left : Nat) (r : Run) (remaining : Nat) :
    (∀ q ∈ (takeRuns minRun left r remaining).1, 1 ≤ q.len ∧ q.len ≤ Config.maxRun ∧ r.within q) ∧
    ((takeRuns minRun left r remaining).1.Pairwise fun a b => a.disjoint b = true) ∧
    (takeRuns minRun left r remaining).1.length ≤ left ∧
    setTotal (takeRuns minRun left r remaining).1 + (takeRuns minRun left r remaining).2 = remaining := by
  induction left generalizing r remaining with
  | zero => simp [takeRuns, setTotal]
  | succ left ih =>
    unfold takeRuns
    dsimp only
    split
    · simp [setTotal]
    · next hk =>
      obtain ⟨h1, h2, h3, h4⟩ := ih ⟨r.first + min r.len (min Config.maxRun remaining),
        r.len - min r.len (min Config.maxRun remaining)⟩ (remaining - min r.len (min Config.maxRun remaining))
      generalize hkk : min r.len (min Config.maxRun remaining) = k at *
      generalize takeRuns minRun left ⟨r.first + k, r.len - k⟩ (remaining - k) = x at *
      obtain ⟨more, after⟩ := x
      dsimp only at *
      have hk0 : k ≠ 0 := fun e => hk (Or.inl e)
      refine ⟨?_, ?_, ?_, ?_⟩
      · intro q hq
        rcases List.mem_cons.mp hq with rfl | hq
        · refine ⟨by dsimp only; omega, by dsimp only; omega, ⟨le_refl _, by dsimp only; omega⟩⟩
        · obtain ⟨a1, a2, a3, a4⟩ := h1 q hq
          dsimp only at a3 a4
          exact ⟨a1, a2, ⟨by omega, by omega⟩⟩
      · rw [List.pairwise_cons]
        refine ⟨fun q hq => ?_, h2⟩
        obtain ⟨-, -, a3, -⟩ := h1 q hq
        rw [Run.disjoint_iff]
        dsimp only at a3 ⊢
        omega
      · simp only [List.length_cons]; omega
      · simp only [setTotal, List.map_cons, List.sum_cons] at *
        omega

/-- Runs collected from stretches: each inside a stretch, of 1 to 64 slots, no two sharing a slot where the stretches share
none, no more than `left`, and counted (R63). -/
theorem collectRuns_spec (minRun : Nat) (stretches : List Run) (left remaining : Nat) :
    (∀ q ∈ (collectRuns minRun stretches left remaining).1, 1 ≤ q.len ∧ q.len ≤ Config.maxRun ∧
      ∃ r ∈ stretches, r.within q) ∧
    (stretches.Pairwise (fun a b => a.disjoint b = true) →
      (collectRuns minRun stretches left remaining).1.Pairwise fun a b => a.disjoint b = true) ∧
    (collectRuns minRun stretches left remaining).1.length ≤ left ∧
    setTotal (collectRuns minRun stretches left remaining).1 + (collectRuns minRun stretches left remaining).2 =
      remaining := by
  induction stretches generalizing left remaining with
  | nil => simp [collectRuns, setTotal]
  | cons r rest ih =>
    unfold collectRuns
    obtain ⟨t1, t2, t3, t4⟩ := takeRuns_spec minRun left r remaining
    generalize takeRuns minRun left r remaining = x at *
    obtain ⟨got, now⟩ := x
    dsimp only at *
    obtain ⟨c1, c2, c3, c4⟩ := ih (left - got.length) now
    generalize collectRuns minRun rest (left - got.length) now = y at *
    obtain ⟨more, after⟩ := y
    dsimp only at *
    refine ⟨?_, ?_, ?_, ?_⟩
    · intro q hq
      rcases List.mem_append.mp hq with hq | hq
      · obtain ⟨a1, a2, a3⟩ := t1 q hq
        exact ⟨a1, a2, r, by simp, a3⟩
      · obtain ⟨a1, a2, g, hg, hw⟩ := c1 q hq
        exact ⟨a1, a2, g, List.mem_cons_of_mem _ hg, hw⟩
    · intro hp
      obtain ⟨p1, p2⟩ := List.pairwise_cons.mp hp
      rw [List.pairwise_append]
      refine ⟨t2, c2 p2, ?_⟩
      intro a ha b hb
      obtain ⟨-, -, wa⟩ := t1 a ha
      obtain ⟨-, -, g, hg, wb⟩ := c1 b hb
      exact Run.disjoint_of_within (p1 g hg) wa wb
    · simp only [List.length_append]; omega
    · simp only [setTotal, List.map_append, List.sum_append] at *
      omega

/-- A CONTIGUOUS search takes the first `n` slots of a stretch of `n` or more (R62). -/
theorem findContiguous_spec {n : Nat} {stretches set : List Run} (h : findContiguous n stretches = some set) :
    ∃ r ∈ stretches, n ≤ r.len ∧ set = [⟨r.first, n⟩] := by
  unfold findContiguous at h
  cases hf : stretches.find? fun r => n ≤ r.len with
  | none => rw [hf] at h; cases h
  | some r =>
    rw [hf] at h
    simp only [Option.map_some, Option.some.injEq] at h
    exact ⟨r, List.mem_of_find?_eq_some hf, by simpa using List.find?_some hf, h.symm⟩

/-- A SPLIT search that succeeds collected all it wanted (R63). -/
theorem findSplit_spec {n minRun maxRuns : Nat} {stretches set : List Run}
    (h : findSplit n minRun maxRuns stretches = some set) :
    set = (collectRuns minRun stretches maxRuns n).1 ∧ setTotal set = n := by
  unfold findSplit at h
  obtain ⟨-, -, -, c4⟩ := collectRuns_spec minRun stretches maxRuns n
  dsimp only at h
  split at h
  · next h0 =>
    rw [Option.some.injEq] at h
    subst h
    exact ⟨rfl, by omega⟩
  · cases h

/-- The segments of a NEXT_FIT or LOW_FIT search lie in the window and share no slot (R61). -/
theorem SearchArgs.segments_spec (a : SearchArgs) (p : Nat) (h : ∀ runs, a.place ≠ .atRuns runs) (hw : a.lo ≤ a.hi) :
    (∀ seg ∈ a.segments p, a.lo ≤ seg.first ∧ seg.first + seg.len ≤ a.hi + 1) ∧
    (a.segments p).Pairwise fun r q => r.disjoint q = true := by
  unfold SearchArgs.segments
  cases hp : a.place with
  | atRuns runs => exact absurd hp (h runs)
  | lowFit =>
    dsimp only
    refine ⟨?_, by simp⟩
    intro seg hs
    simp only [List.mem_singleton] at hs
    subst hs
    dsimp only
    omega
  | nextFit =>
    dsimp only
    split
    · next hin =>
      refine ⟨?_, ?_⟩
      · intro seg hs
        simp only [List.mem_cons, List.not_mem_nil, or_false] at hs
        rcases hs with rfl | rfl <;> dsimp only <;> omega
      · simp only [List.pairwise_cons, List.mem_singleton, forall_eq, List.not_mem_nil, false_implies, implies_true,
          List.Pairwise.nil, and_true]
        rw [Run.disjoint_iff]
        dsimp only
        omega
    · refine ⟨?_, by simp⟩
      intro seg hs
      simp only [List.mem_singleton] at hs
      subst hs
      dsimp only
      omega

end Sys2Proof.Machine
end

