-- ==== Sys2Proof/WellFormed.lean ====
section
/-! DEFINITION. Which commands are well formed: the operands that a link can produce. Port, slot, record and context
numbers are in range by their types. -/

namespace Sys2Proof

/-- The check of a command's operands.
A faulted transfer has a type byte that is neither of the two (R129), and eight bits are a byte, so fewer are left over (R127). -/
def Instr.wellFormed : Instr → Bool
  | .faultedTransfer _ t => t != 0x5A#8 && t != 0xA5#8
  | .commandTransfer _ _ rest => decide (rest.length < 8)
  | .collectEnd _ _ => true
  | .powerOnReset => true
  | .resetRelease _ => true
  | .transferStart _ => true
  | .collectChoice _ => true
  | .engineTakeCommand => true
  | .reserve => true
  | .release => true
  | .renew => true
  | .queryReservation => true
  | .listOwned => true
  | .readMap => true
  | .cancelWait => true
  | .relocate => true
  | .confirmMove => true
  | .declineMove => true
  | .setWatch => true
  | .clearWatch => true
  | .rearmWatch => true
  | .bar => true
  | .unbar => true
  | .forceRelease => true
  | .setParam => true
  | .setPort => true
  | .resetPort => true
  | .readParams => true
  | .fetchEvents _ => true
  | .readStatus _ => true
  | .selfReset _ => true
  | .echo _ => true
  | .waitPassBegin => true
  | .waitPassCompletion => true
  | .frameStart => true
  | .syncWatchTimeout => true
  | .slotEdge => true
  | .slotMapFrameReaction => true
  | .drainComplete _ => true
  | .promotionReportPool => true
  | .promotionReportMove => true
  | .leaseCounterReaction => true
  | .leaseExpiry _ => true
  | .moveUnitFrameReaction => true
  | .confirmTimeout _ => true
  | .cutover _ => true
  | .waitListFrameReaction => true
  | .waitExpiry _ => true
  | .watchReport => true
  | .recordReport => true

end Sys2Proof
end

