-- ==== Sys2Proof/Tests/Slice0.lean ====
section
/-! SUPPORT. The model's own tests: ill-formed operands, worked examples of the spec, one step of each command on a small
state, and a state that meets the hypotheses of each statement. -/

namespace Sys2Proof.Tests

open Sys2Proof.Machine

-- One theorem after the other: each evaluation in a thread of its own takes more memory than the check allows.
set_option Elab.async false

/-! ## Operands -/

theorem test_faulted_transfer_of_command_type_refused : (Instr.faultedTransfer 0 0x5A#8).wellFormed = false := by decide
theorem test_whole_last_byte_refused : (Instr.commandTransfer 0 [] (List.replicate 8 true)).wellFormed = false := by decide
theorem test_faulted_transfer_of_collect_type_refused : (Instr.faultedTransfer 0 0xA5#8).wellFormed = false := by decide
theorem test_boundary_operands_accepted :
    (Instr.faultedTransfer 5 0x00#8).wellFormed = true ∧ (Instr.commandTransfer 5 [] (List.replicate 7 true)).wellFormed = true ∧
      (Instr.collectEnd 5 0).wellFormed = true := by decide

/-! ## Small states -/

/-- The state a command leaves. -/
def after (c : Instr) (s : State) : Option State :=
  match exec c s with
  | .next t => some t
  | .fault _ => none
  | .refused _ => none

/-- What a command leaves of the part that `f` reads. -/
def sees {α : Type} (c : Instr) (s : State) (f : State → α) : Option α :=
  (after c s).map f

theorem next_of_after {c : Instr} {s : State} (h : (after c s).isSome = true) : ∃ t, exec c s = .next t := by
  unfold after at h
  split at h
  · exact ⟨_, by assumption⟩
  · exact absurd h (by simp)
  · exact absurd h (by simp)

/-- Right after reset, every port an administrator. -/
def base : State :=
  { State.reset with ports := State.reset.ports.map fun _ _ => ClientPort.reset .none true }

/-- `s` in LOCKED with mark 9 handed to the four blocks, the frame counter one behind it. -/
def marked (s : State) : State :=
  { s with
    timing := { s.timing with sync := .locked, lastMark := 9#16, frameCounter := 8#16, timer := some 375 }
    marks := ⟨[9#16], [9#16], [9#16], [9#16]⟩ }

/-- `s` in LOCKED after every block has taken mark 9. -/
def settled (s : State) : State :=
  { s with
    timing := { s.timing with sync := .locked, lastMark := 9#16, frameCounter := 9#16, timer := some 375 }
    map := { s.map with imageMark := some 9#16 } }

/-- `s` with one command in port `p`'s queue. -/
def queued (p : Port) (q : QueuedCommand) (s : State) : State :=
  s.modPort p fun c => { c with queue := [q], inFlight := [q.tag] }

/-- `s` with the engine at a command of port `p`, tag 7. -/
def engaged (p : Port) (req : Request) (s : State) : State :=
  { queued p ⟨7#8, 0x01#8, [], true⟩ s with engine := { s.engine with work := .command ⟨p, 7#8, req, false, none⟩ } }

/-- A LIVE reservation of port 1: slots 40 to 43, a lease of 10 with 2 left, and ticket 3. -/
def sample : Reservation := ⟨.live, 1, .normal, [⟨40, 4⟩], some ⟨10, 2, true⟩, none, some 3#8, 5#16⟩

/-- The entry of a target slot at a stage of its move, a bar pending. -/
def targetSlot : Stage → Slot
  | .offered _ => .held 0 .target false true
  | .armed => .held 0 .target true true
  | .overlap _ _ => .live 0 .target true

/-- `s` with `a` in record 0, generation 0, its current set in the map as `slot` says and its target's slots as its stage. -/
def holding (a : Reservation) (slot : Slot) (s : State) : State :=
  { s.modPort a.owner fun c => { c with ownedSlots := setTotal a.set, ownedRecords := 1 } with
    pool := { s.pool with records := s.pool.records.set 0 ⟨0#8, some a⟩, fifo := s.pool.fifo.tail }
    map := { s.map with
      entries := s.map.entries.map fun i e =>
        if inSet a.set i then slot
        else if inSet (s.targetOf a) i then (s.contextOf a).elim e fun x => targetSlot x.2.stage
        else e
      freeCount := 512 - setTotal a.set - setTotal (s.targetOf a) } }

/-- `base` with `sample` LIVE in record 0. -/
def live : State := holding sample (.live 0 .current false) base

/-- `base` with `sample` MOVING in context 0 toward slots 60 to 63, at a stage; port 2 asked for the move with tag 9. -/
def moving (stage : Stage) : State :=
  holding { sample with state := .moving, context := some 0 } (.live 0 .current false)
    (base.setMove 0 (some ⟨0, 0#8, some (2, 9#8), stage, [⟨60, 4⟩]⟩))

/-- The handle of record 0 at generation 0. -/
def handle0 : Handle := ⟨0#8, 0#8⟩

/-- RESERVE of 4 slots, CONTIGUOUS, LOW_FIT, in slots 0 to 15, NORMAL, lease 10. -/
def reserve4 (wait : WaitOption) : ReserveArgs := ⟨⟨4, .contiguous, .lowFit, 0, 15⟩, .normal, 10, wait⟩

/-- RELOCATE of record 0 to slots 60 to 63. -/
def relocate4 : RelocateArgs := ⟨handle0, .contiguous, .atRuns [⟨60, 4⟩], 0, 511⟩

/-- A wait entry of port 1 for 4 slots, ticket 3, with one frame left. -/
def entry3 : WaitEntry := ⟨3#8, 1, .normal, (reserve4 .noWait).search, 10, some 1⟩

/-- `base` with that entry on the list. -/
def waiting : State :=
  { base.modPort 1 fun c => { c with promised := 4 } with waits := ⟨[entry3], 3#8⟩ }

/-- `s` with every slot BARRED. -/
def barredOut (s : State) : State :=
  { s with map := { s.map with entries := s.map.entries.map (fun _ _ => .barred), freeCount := 0, barredCount := 512 } }

/-- A FREE_COUNT unit of port 1 over slots 40 to 47, threshold 5. -/
def unit1 : WatchUnit := ⟨1, true, .freeCount 40 47 5 4, .rise, 0x12#6, .oneShot, false⟩

/-- `base` with that unit in place 2. -/
def watching : State := base.setUnit 2 (some unit1)

/-- A command frame for the link, without its type byte. -/
def frame (tag code : Byte) (body : List Byte) : List Byte :=
  let f := tag :: code :: byteOf body.length :: body
  f ++ crcBytes (0x5A#8 :: f)

/-- Bytes as the bits of a transfer. -/
def bits (bytes : List Byte) : List Octet := bytes.map octetOf

/-! ## Worked examples of the spec -/

/-- R193: the characters 1 to 9 give 0x29B1. -/
theorem test_crc_of_digits :
    crcOf [0x31#8, 0x32#8, 0x33#8, 0x34#8, 0x35#8, 0x36#8, 0x37#8, 0x38#8, 0x39#8] = 0x29B1#16 := by decide +kernel

/-- Table 11-13. -/
theorem test_read_status_frame :
    frame 0x01#8 0x21#8 [] = [0x01#8, 0x21#8, 0x00#8, 0x9B#8, 0xB7#8] := by decide +kernel

/-! ## Power and links -/

theorem test_power_on_reset :
    sees .powerOnReset { live with params := { live.params with guard := 7 } } (fun t =>
      (t.resetLow, t.params.guard, t.map.freeCount, (t.ports.get 0).admin)) = some (true, 2, 512, false) := by
  decide +kernel

theorem test_reset_release_samples_straps :
    sees (.resetRelease 0b100001#6) { State.reset with resetLow := true } (fun t =>
      (t.resetLow, (t.ports.get 0).admin, (t.ports.get 1).admin, (t.ports.get 5).attrs.urgent)) =
        some (false, true, false, true) := by decide +kernel

theorem test_transfer_start_forms_status_byte :
    sees (.transferStart 3) base (fun t => (t.ports.get 3).link) = some (.opened 0x08#8) := by decide +kernel

theorem test_faulted_transfer_counts :
    sees (.faultedTransfer 3 0xFF#8) base (fun t => ((t.ports.get 3).faultCount, (t.ports.get 3).lastFaulted)) =
      some (1, true) := by decide +kernel

theorem test_command_transfer_accepts :
    sees (.commandTransfer 3 (bits (frame 1#8 0x23#8 [5#8])) []) base (fun t => (t.ports.get 3).queue) =
      some [⟨1#8, 0x23#8, [5#8], false⟩] := by decide +kernel

theorem test_command_transfer_without_crc_faults :
    sees (.commandTransfer 3 (bits [1#8, 0x23#8, 0#8]) []) base (fun t => (t.ports.get 3).stored) =
      some [⟨255#8, .linkFault, [1#8], false⟩] := by decide +kernel

theorem test_command_transfer_with_a_bit_over_faults :
    sees (.commandTransfer 3 (bits (frame 1#8 0x23#8 [])) [true]) base (fun t => (t.ports.get 3).stored) =
      some [⟨255#8, .linkFault, [2#8], false⟩] := by decide +kernel

theorem test_bytes_come_most_significant_bit_first :
    packByte ⟨false, true, false, true, true, false, true, false⟩ = 0x5A#8 := by decide

/-- `base` with a transfer open on port 3. -/
def opened : State := base.modPort 3 fun c => { c with link := .opened 0x08#8 }

theorem test_empty_transfer_ends :
    sees (.collectEnd 3 7) opened (fun t => ((t.ports.get 3).link, (t.ports.get 3).faultCount)) = some (.none, 0) := by
  decide +kernel

theorem test_status_byte_goes_out_most_significant_bit_first :
    (List.range 9).map (fun k => opened.doBit 3 k) =
      [false, false, false, false, true, false, false, false, false].map some := by decide +kernel

theorem test_collect_choice_of_empty_frame :
    sees (.collectChoice 3) base (fun t => (t.ports.get 3).link) =
      some (.collecting 0x08#8 ([0xFF#8, 0x02#8, 0x00#8] ++ crcBytes [0xFF#8, 0x02#8, 0x00#8]) false) := by
  decide +kernel

/-- A port with one answered command whose frame is on the link. -/
def collecting : State :=
  base.modPort 3 fun c =>
    { c with stored := [⟨1#8, .ok, [], true⟩], inFlight := [1#8], link := .collecting 0x28#8 [1#8, 0#8, 0#8, 0#8, 0#8] true }

theorem test_collect_end_removes_response :
    sees (.collectEnd 3 48) collecting (fun t => ((t.ports.get 3).stored, (t.ports.get 3).inFlight)) =
      some ([], []) := by decide +kernel

theorem test_collect_end_one_edge_short_keeps_response :
    sees (.collectEnd 3 47) collecting (fun t => ((t.ports.get 3).stored.length, (t.ports.get 3).inFlight)) =
      some (1, [1#8]) := by decide +kernel

/-! ## The engine and the table commands -/

theorem test_engine_takes_head :
    sees .engineTakeCommand (queued 2 ⟨1#8, 0x16#8, [], false⟩ base) (fun t => (t.engine.work, t.engine.rrPos)) =
      some (.command ⟨2, 1#8, .readParams, false, none⟩, 2) := by decide +kernel

theorem test_engine_refuses_unknown_code :
    sees .engineTakeCommand (queued 2 ⟨1#8, 0x0E#8, [], false⟩ base) (fun t => (t.ports.get 2).stored) =
      some [⟨1#8, .badCommand, [], true⟩] := by decide +kernel

theorem test_reserve_grants_lowest_run :
    sees .reserve (engaged 1 (.reserve (reserve4 .noWait)) live) (fun t =>
      ((t.pool.records.get 1).alloc.map Reservation.set, t.map.entries.get 3, t.map.entries.get 4, t.engine.rover)) =
        some (some [⟨0, 4⟩], .held 1 .current true false, .free, 4) := by decide +kernel

theorem test_reserve_queues_without_room :
    sees .reserve (engaged 1 (.reserve (reserve4 (.wait 6))) (barredOut base)) (fun t =>
      ((t.ports.get 1).stored, (t.ports.get 1).promised)) = some ([⟨7#8, .queued, [0#8, 0#8, 6#8], true⟩], 4) := by
  decide +kernel

theorem test_release_drains_and_frees :
    sees .release (engaged 1 (.release handle0) live) (fun t =>
      (t.map.entries.get 40, t.pool.records.get 0, t.pool.fifo.getLast?, (t.ports.get 1).ownedSlots)) =
        some (.draining 2 false, ⟨1#8, none⟩, some 0, 0) := by decide +kernel

theorem test_renew_takes_length :
    sees .renew (engaged 1 (.renew handle0 0) live) (fun t => (t.ports.get 1).stored) =
      some [⟨7#8, .ok, [0#8, 10#8, 0#8, 10#8], true⟩] := by decide +kernel

theorem test_query_reads_record :
    sees .queryReservation (engaged 4 (.query handle0) live) (fun t => ((t.ports.get 4).stored.map Response.body)) =
      some [[0#8, 0#8, 1#8, 1#8, 1#8, 0b111#8, 0#8, 5#8, 0#8, 10#8, 0#8, 2#8, 3#8, 0xFF#8, 0xFF#8, 0#8, 0#8, 0x14#8, 0x07#8]] := by
  decide +kernel

theorem test_list_owned_lists_record :
    sees .listOwned (engaged 1 (.listOwned 0) live) (fun t => ((t.ports.get 1).stored.map Response.body)) =
      some [[1#8, 0xFF#8, 1#8, 0#8, 0#8]] := by decide +kernel

theorem test_read_map_items :
    sees .readMap (engaged 1 (.readMap ⟨39, 2⟩) live) (fun t => ((t.ports.get 1).stored.map Response.body)) =
      some [[0#8, 39#8, 2#8, 0#8, 0xFF#8, 0x48#8, 0#8]] := by decide +kernel

theorem test_cancel_wait_removes_entry :
    sees .cancelWait (engaged 1 (.cancelWait 3#8) waiting) (fun t =>
      (t.waits.entries, (t.ports.get 1).promised, (t.ports.get 1).stored.map Response.body, t.engine.waitReq)) =
        some ([], 0, [[3#8, 4#8, 0#8, 1#8]], true) := by decide +kernel

theorem test_relocate_offers_to_owner :
    sees .relocate (engaged 2 (.relocate relocate4) live) (fun t =>
      ((t.moves.get 0).map MoveContext.stage, t.map.entries.get 60, (t.ports.get 1).events.map Event.body)) =
        some (some (.offered 800), .held 0 .target false false, [.moveOffer handle0 7#8 [⟨60, 4⟩] 800#16]) := by
  decide +kernel

theorem test_confirm_arms_target :
    sees .confirmMove (engaged 1 (.confirmMove handle0) (moving (.offered 3))) (fun t =>
      (t.moves.get 0).map MoveContext.stage) = some (some .armed) := by decide +kernel

theorem test_decline_abandons :
    sees .declineMove (engaged 1 (.declineMove handle0) (moving (.offered 3))) (fun t =>
      (t.moves.get 0, t.map.entries.get 60, (t.ports.get 1).events.map Event.body)) =
        some (none, .barred, [.barDone 4 [⟨60, 4⟩], .moveAbandoned handle0 9#8 [⟨60, 4⟩] .declined]) := by
  decide +kernel

theorem test_set_watch_takes_lowest_unit :
    sees .setWatch (engaged 1 (.setWatch ⟨none, .freeCount 40 47 5, .rise, .oneShot, 0x12#6⟩) live) (fun t =>
      t.units.get 0) = some (some ⟨1, true, .freeCount 40 47 5 4, .rise, 0x12#6, .oneShot, false⟩) := by
  decide +kernel

theorem test_clear_watch_frees_unit :
    sees .clearWatch (engaged 1 (.clearWatch 2) watching) (fun t => t.units.get 2) = some none := by decide +kernel

theorem test_rearm_watch_refuses_armed_unit :
    sees .rearmWatch (engaged 1 (.rearmWatch 2) watching) (fun t => (t.ports.get 1).stored.map Response.status) =
      some [.wrongState] := by decide +kernel

theorem test_bar_marks_slots :
    sees .bar (engaged 0 (.bar ⟨39, 2⟩) live) (fun t => (t.map.entries.get 39, t.map.entries.get 40)) =
      some (.barred, .live 0 .current true) := by decide +kernel

theorem test_unbar_frees_slots :
    sees .unbar (engaged 0 (.unbar ⟨39, 2⟩) (barredOut base)) (fun t => (t.map.freeCount, t.engine.waitReq)) =
      some (2, true) := by decide +kernel

theorem test_force_release_tells_owner :
    sees .forceRelease (engaged 0 (.forceRelease handle0) live) (fun t => (t.ports.get 1).events.map Event.body) =
      some [.releasedByAdmin handle0 [⟨40, 4⟩]] := by decide +kernel

theorem test_set_param_answers_old_and_new :
    sees .setParam (engaged 0 (.setParam .guard 15) base) (fun t => (t.params.guard, (t.ports.get 0).stored.map Response.body)) =
      some (15, [[1#8, 0#8, 2#8, 0#8, 15#8]]) := by decide +kernel

theorem test_set_port_raises_quota :
    sees .setPort (engaged 0 (.setPort 3 ⟨512, 48, .retain, false, false, true⟩) base) (fun t =>
      ((t.ports.get 3).attrs.slotQuota, t.engine.waitReq)) = some (512, true) := by decide +kernel

theorem test_reset_port_reclaims :
    sees .resetPort (engaged 0 (.resetPort 1) live) (fun t =>
      ((t.ports.get 0).stored.map Response.body, t.pool.records.get 0, t.map.entries.get 43)) =
        some ([[1#8, 0#8, 1#8, 0#8, 0#8, 0#8, 0#8]], ⟨1#8, none⟩, .draining 2 false) := by decide +kernel

theorem test_read_params_length :
    sees .readParams (engaged 0 .readParams base) (fun t => (t.ports.get 0).stored.map fun r => (r.status, r.body.length)) =
      some [(.ok, 47)] := by decide +kernel

/-! ## Port-local commands -/

/-- Port 1 with two events waiting and one lost. -/
def eventful : State :=
  base.modPort 1 fun c => { c with events := [⟨1#16, .syncLocked⟩, ⟨2#16, .syncLost⟩], lost := 1 }

theorem test_fetch_events_takes_oldest :
    sees (.fetchEvents 1) (queued 1 ⟨7#8, 0x20#8, [1#8], false⟩ eventful) (fun t =>
      ((t.ports.get 1).stored.map Response.body, (t.ports.get 1).events, (t.ports.get 1).lost)) =
        some ([[1#8, 1#8, 0xD0#8, 0#8, 1#8]], [⟨2#16, .syncLost⟩], 0) := by decide +kernel

theorem test_read_status_body :
    sees (.readStatus 1) (queued 1 ⟨7#8, 0x21#8, [], false⟩ live) (fun t => (t.ports.get 1).stored.map Response.body) =
      some [[0#8, 0#8, 0#8, 1#8, 0xFC#8, 0#8, 0#8, 0#8, 0#8, 191#8, 0#8, 0#8, 0#8, 0#8, 0#8, 4#8, 1#8, 0#8, 0#8, 0#8, 0#8,
        0#8, 0#8, 1#8, 0#8, 128#8, 48#8, 0#8, 7#8]] := by decide +kernel

theorem test_self_reset_answers_in_queue :
    sees (.selfReset 1) (queued 1 ⟨7#8, 0x22#8, [], false⟩ live) (fun t =>
      ((t.ports.get 1).stored.map Response.body, (t.ports.get 1).inFlight)) =
        some ([[0#8, 1#8, 0#8, 0#8, 0#8, 0#8]], [7#8]) := by decide +kernel

theorem test_echo_returns_body :
    sees (.echo 1) (queued 1 ⟨7#8, 0x23#8, [5#8, 6#8], false⟩ base) (fun t => (t.ports.get 1).stored) =
      some [⟨7#8, .ok, [5#8, 6#8], true⟩] := by decide +kernel

/-! ## Passes -/

/-- A pass about to complete with one successful trial for the entry of `waiting`. -/
def passing : State :=
  waiting.setWork (.pass ⟨[], none, [⟨3#8, [⟨0, 4⟩]⟩], 4⟩)

theorem test_pass_begins_with_listed_entries :
    sees .waitPassBegin waiting.requestPass (fun t => (t.engine.work, t.engine.waitReq)) =
      some (.pass ⟨[3#8], none, [], 0⟩, false) := by decide +kernel

theorem test_pass_completion_grants :
    sees .waitPassCompletion passing (fun t => (t.waits.entries, (t.ports.get 1).events.map Event.body)) =
      some ([], [.granted 3#8 handle0 [⟨0, 4⟩]]) := by decide +kernel

/-! ## Frame timing and the reactions -/

theorem test_frame_start_locks :
    sees .frameStart base (fun t => (t.timing.sync, t.timing.lastMark, t.marks.wait, (t.ports.get 0).events)) =
      some (.locked, 1#16, [1#16], [⟨1#16, .syncLocked⟩]) := by decide +kernel

theorem test_sync_watch_timeout_loses :
    sees .syncWatchTimeout (marked base) (fun t => (t.timing.sync, t.timing.timer)) = some (.lost, none) := by
  decide +kernel

theorem test_slot_edge_drives_owner :
    sees .slotEdge (settled { base with map := { base.map with image := base.map.image.set 0 (some 5) } }) (fun t =>
      (t.timing.slotIndex, t.timing.ownv, t.timing.own)) = some (.slot 0, true, 5#3) := by decide +kernel

/-- R90: slot 0 of frame 9 is driven from the image latched for mark 9. -/
theorem test_slot_edge_takes_latch_first :
    sees .slotEdge (marked (holding { sample with set := [⟨0, 4⟩] } (.live 0 .current false) base)) (fun t =>
      (t.timing.slotIndex, t.timing.ownv, t.timing.own, t.map.imageMark)) = some (.slot 0, true, 1#3, some 9#16) := by
  decide +kernel

theorem test_frame_start_settles_last_mark :
    sees .frameStart (marked live) (fun t =>
      (t.timing.frameCounter, t.marks.lease, (t.pool.records.get 0).alloc.bind Reservation.lease)) =
        some (9#16, [10#16], some ⟨10, 1, true⟩) := by decide +kernel

theorem test_slot_map_promotes_armed_slots :
    sees .slotMapFrameReaction (marked (holding { sample with state := .pending } (.held 0 .current true false) base)) (fun t =>
      (t.map.entries.get 40, t.map.image.get 40, t.reports.pool, t.timing.frameCounter)) =
        some (.live 0 .current false, some 1, [⟨9#16, [(0, .current)]⟩], 9#16) := by decide +kernel

/-- `base` with slot 8 in its last frame of DRAINING. -/
def draining : State :=
  { base with map := { base.map with entries := base.map.entries.set 8 (.draining 1 false), freeCount := 511, drainingCount := 1 } }

theorem test_drain_complete_frees_slot :
    sees (.drainComplete 8) (marked draining) (fun t => (t.map.entries.get 8, t.map.freeCount, t.engine.waitReq)) =
      some (.free, 512, true) := by decide +kernel

/-- A PENDING reservation whose promotion report of mark 9 stands at the Record Pool and at the Move Unit. -/
def reported (x : RecIx × Role) (s : State) : State :=
  { s with reports := ⟨[⟨9#16, [x]⟩], [⟨9#16, [x]⟩], []⟩ }

theorem test_promotion_makes_record_live :
    sees .promotionReportPool (reported (0, .current) (holding { sample with state := .pending } (.live 0 .current false) base))
      (fun t => ((t.pool.records.get 0).alloc.map Reservation.state, (t.ports.get 1).events)) =
        some (some .live, [⟨9#16, .live handle0 [⟨40, 4⟩]⟩]) := by decide +kernel

theorem test_promotion_starts_overlap :
    sees .promotionReportMove (reported (0, .target) (moving .armed)) (fun t => (t.moves.get 0).map MoveContext.stage) =
      some (some (.overlap 4 9#16)) := by decide +kernel

theorem test_lease_counts_down :
    sees .leaseCounterReaction (marked live) (fun t => (t.pool.records.get 0).alloc.bind Reservation.lease) =
      some (some ⟨10, 1, true⟩) := by decide +kernel

theorem test_lease_expiry_frees_record :
    sees (.leaseExpiry 0) (marked (holding { sample with lease := some ⟨10, 1, true⟩ } (.live 0 .current false) base)) (fun t =>
      (t.pool.records.get 0, (t.ports.get 1).events.map Event.body)) =
        some (⟨1#8, none⟩, [.expired handle0 [⟨40, 4⟩]]) := by decide +kernel

theorem test_move_unit_counts_overlap :
    sees .moveUnitFrameReaction (marked (moving (.overlap 2 8#16))) (fun t => (t.moves.get 0).map MoveContext.stage) =
      some (some (.overlap 1 8#16)) := by decide +kernel

theorem test_confirm_timeout_abandons :
    sees (.confirmTimeout 0) (marked (moving (.offered 1))) (fun t =>
      (t.moves.get 0, (t.ports.get 2).events.getLast?.map Event.body)) =
        some (none, some (.moveAbandoned handle0 9#8 [⟨60, 4⟩] .timeout)) := by decide +kernel

theorem test_cutover_exchanges_sets :
    sees (.cutover 0) (marked (moving (.overlap 1 8#16))) (fun t =>
      ((t.pool.records.get 0).alloc.map Reservation.set, t.map.entries.get 40, t.map.carry)) =
        some (some [⟨60, 4⟩], .draining 2 false, [⟨9#16, 1, [⟨40, 4⟩]⟩]) := by decide +kernel

theorem test_wait_limit_expires :
    sees .waitListFrameReaction (marked waiting) (fun t => (t.waits.entries, (t.ports.get 1).events)) =
      some ([], [⟨9#16, .waitExpired 3#8⟩]) := by decide +kernel

theorem test_wait_expiry_of_no_entry_does_nothing :
    sees (.waitExpiry 4#8) (marked waiting) (fun t => t.waits.entries) = some [entry3] := by decide +kernel

/-! ## Reports -/

/-- `watching` with a watch report of slot 44 entering FREE and a record report outstanding. -/
def notified : State :=
  { watching with reports := ⟨[], [], [.slots [⟨44, .draining, .free⟩], .record handle0 (some .live)]⟩ }

theorem test_watch_report_posts :
    sees .watchReport notified (fun t => ((t.units.get 2).map WatchUnit.armed, (t.ports.get 4).events.map Event.body)) =
      some (some false, [.watch 2 true]) := by decide +kernel

theorem test_record_report_waits_its_turn :
    sees .recordReport notified (fun t => t.reports.watch.length) = some 2 := by decide +kernel

/-! ## Hypotheses that a state meets, one theorem for each statement that has any -/

/-- A Bool form of `State.MovesAgree`. -/
def movesOk (s : State) : Bool :=
  ((List.finRange 4).all fun k => (s.moves.get k).all fun c =>
    decide ((s.pool.records.get c.index).gen = c.gen) && (s.pool.records.get c.index).alloc.any fun a =>
      decide (a.state = .moving) && decide (a.context = some k)) &&
  ((List.finRange 192).all fun i => (s.pool.records.get i).alloc.all fun a =>
    if a.state = .moving then a.context.any fun k => (s.moves.get k).any fun c => decide (c.index = i)
    else decide (a.context = none))

theorem movesAgree_of_movesOk {s : State} (h : movesOk s = true) : s.MovesAgree := by
  simp only [movesOk, Bool.and_eq_true, List.all_eq_true, List.mem_finRange, true_imp_iff, Option.all_eq_true,
    Option.any_eq_true, decide_eq_true_eq] at h
  refine ⟨fun k c hk => ?_, fun i a hi => ?_⟩
  · obtain ⟨hg, a, ha, hs, hc⟩ := h.1 k c hk
    exact ⟨a, by rw [← hg, ← ha], hs, hc⟩
  · have := h.2 i a hi
    split at this
    · rename_i hm
      rw [if_pos hm]
      obtain ⟨k, hk, c, hc, hi⟩ := by simpa only [Option.any_eq_true, decide_eq_true_eq] using this
      exact ⟨k, c, hk, hc, hi⟩
    · rename_i hm
      rw [if_neg hm]
      simpa using this

/-- `base` while RESET is low. -/
def low : State := { base with resetLow := true }

/-- `s` with the engine's RESERVE of port 1 about to read its first slot. -/
def scanning : State :=
  base.setWork (.command ⟨1, 7#8, .reserve (reserve4 .noWait), false, some ⟨(reserve4 .noWait).search, 0, []⟩⟩)

theorem witness_StepRunsFrontCommand :
    ({ live with pending := [.release] } : State).pending = [.release] ∧ scanning.pending = [] ∧
      (Scan.mk (reserve4 .noWait).search 0 []).order[0]? = some 0 := by decide +kernel

theorem witness_PowerOnReset : low.resetLow = true := by decide +kernel

theorem witness_NothingHappensInReset :
    low.resetLow = true ∧ Instr.slotEdge ≠ .powerOnReset ∧ (∀ straps, Instr.slotEdge ≠ .resetRelease straps) ∧
      ∃ t, exec .slotEdge low = .next t :=
  ⟨by decide +kernel, by decide, fun _ h => (by cases h), next_of_after (by decide +kernel)⟩

theorem witness_TransfersOpenAndFault :
    base.resetLow = false ∧ (base.ports.get 3).link = .none ∧ (0x59#8 : Byte) ≠ 0x5A#8 ∧ (0x59#8 : Byte) ≠ 0xA5#8 ∧
      ((base.modPort 3 fun c => { c with link := .opened 8#8 }).ports.get 3).link = .opened 8#8 := by decide +kernel

/-- The bytes after the type byte of a frame of 257 bytes with length 251, and of 255 bytes with length 248. -/
def frame257 : List Byte := [1#8, 0x23#8, 251#8] ++ List.replicate 253 0#8
def frame255 : List Byte := [1#8, 0x23#8, 248#8] ++ List.replicate 251 0#8

/-- Frames of five and six bytes with length 0, a last byte of seven bits, and the two above. -/
theorem witness_FaultedFrameRefused :
    base.resetLow = false ∧ (base.ports.get 0).link = .none ∧ (opened.ports.get 3).link = .opened 0x08#8 ∧
      ([1#8, 0x23#8, 0#8, 0#8].length + 1 < 6 + 0) ∧
      (¬ [1#8, 0x23#8, 0#8, 0#8, 0#8].length + 1 < 6 + 0) ∧
      ((List.replicate 7 true).length < 8 ∧ List.replicate 7 true ≠ [] ∧ ([] : List Bool).length < 8) ∧
      (¬ frame257.length + 1 < 6 + (frame257.getD 2 0#8).toNat ∧ 250 < (frame257.getD 2 0#8).toNat) ∧
      (¬ frame255.length + 1 < 6 + (frame255.getD 2 0#8).toNat ∧ 6 + (frame255.getD 2 0#8).toNat < frame255.length + 1) ∧
      ([0#8, 0#8] ≠ crcBytes [0x5A#8, 1#8, 0x23#8, 0#8]) := by decide +kernel

/-- Port 2 with `n` commands unanswered. -/
def crowded (n : Nat) : State :=
  base.modPort 2 fun c =>
    { c with
      queue := (List.range n).map fun k => ⟨byteOf k, 0x23#8, [], false⟩
      inFlight := (List.range n).map byteOf }

theorem witness_SoundFrameJudged :
    base.resetLow = false ∧ (base.ports.get 2).link = .none ∧ (List.replicate 250 0#8).length = (250#8 : Byte).toNat ∧
      ((crowded 4).resetLow = false ∧ ((crowded 4).ports.get 2).link = .none) ∧
      (3#8 : Byte) ∈ ((crowded 4).ports.get 2).inFlight ∧
      ((4#8 : Byte) ∉ ((crowded 4).ports.get 2).inFlight ∧ 4 ≤ ((crowded 4).ports.get 2).queue.length) ∧
      ((3#8 : Byte) ∉ ((crowded 3).ports.get 2).inFlight ∧ ((crowded 3).ports.get 2).queue.length < 4 ∧
        ((crowded 3).ports.get 2).stored.length + ((crowded 3).ports.get 2).queue.length < 8) := by decide +kernel

/-- Port 3 with one stored response and its link idle, and with the empty frame on its link. -/
def responding : State := collecting.modPort 3 fun c => { c with link := .none }
def collectingEmpty : State :=
  base.modPort 3 fun c => { c with link := .collecting 0x08#8 [0xFF#8, 0x02#8, 0x00#8, 0#8, 0#8] false }

theorem witness_CollectTakesOldest :
    ((base.ports.get 3).link = .none ∧ (base.ports.get 3).statusByte = 0x08#8 ∧ (base.ports.get 3).stored = []) ∧
      ((responding.ports.get 3).link = .none ∧ (responding.ports.get 3).statusByte = 0x28#8 ∧
        (responding.ports.get 3).stored = [⟨1#8, .ok, [], true⟩]) ∧
      (collectingEmpty.ports.get 3).link = .collecting 0x08#8 [0xFF#8, 0x02#8, 0x00#8, 0#8, 0#8] false ∧
      (collecting.ports.get 3).link = .collecting 0x28#8 [1#8, 0#8, 0#8, 0#8, 0#8] true ∧
      8 ≤ 8 ∧ 47 < 8 * (1 + 5) ∧ 8 * (1 + 5) ≤ 48 ∧ responding.resetLow = false := by decide +kernel

/-- `base` with a transfer on port 3 that RESET has cut, and `collecting` with ports 0 and 3 about to reset port 3. -/
def ignored : State := base.modPort 3 fun c => { c with link := .ignored }

theorem witness_LinksUnderReset :
    low.resetLow = true ∧ (ignored.ports.get 3).link = .ignored ∧ ignored.resetLow = false ∧
      (opened.ports.get 3).link = .opened 0x08#8 ∧ opened.resetLow = false ∧ 7 < 8 ∧ (List.replicate 7 true).length < 8 ∧
      (engaged 0 (.resetPort 3) collecting).Engaged 0 7#8 (.resetPort 3) none ∧
      ((engaged 0 (.resetPort 3) collecting).ports.get 3).link = .collecting 0x28#8 [1#8, 0#8, 0#8, 0#8, 0#8] true ∧
      ((queued 3 ⟨7#8, 0x22#8, [], false⟩ collecting).ports.get 3).queue = [⟨7#8, 0x22#8, [], false⟩] := by
  unfold State.Engaged
  decide +kernel

theorem witness_PinsFollowPort :
    (base.ports.get 3).link = .none ∧ (opened.ports.get 3).link = .opened 0x08#8 ∧
      (collecting.ports.get 3).link = .collecting 0x28#8 [1#8, 0#8, 0#8, 0#8, 0#8] true ∧
      [1#8, 0#8, 0#8, 0#8, (0#8 : Byte)][4]? = some 0#8 := by decide +kernel

/-- Ports 2 and 4 each with a RESERVE body (or another) at the head of the queue; the round robin stands at 5. -/
def heads (code : Byte) (body : List Byte) (s : State) : State :=
  queued 4 ⟨1#8, code, body, false⟩ (queued 2 ⟨1#8, code, body, false⟩ s)

def reserveBody : List Byte := [4#8, 0#8, 0#8, 0#8, 1#8, 0#8, 0#8, 0#8, 15#8, 1#8, 0#8, 10#8, 0#8, 0#8, 0#8, 0#8]
def relocateBody : List Byte := [0#8, 0#8, 0#8, 0#8, 0#8, 2#8, 0#8, 0#8, 1#8, 0xFF#8, 1#8, 0#8, 60#8, 4#8]

theorem reserveBody_spells : Request.Spells reserveBody (.reserve (reserve4 .noWait)) := by
  refine ⟨1#8, [0#8, 0#8, 0#8], [0#8], 0, by decide, by decide, ⟨0#8, 0#8, rfl⟩, ⟨by decide, by decide, by decide, ?_⟩,
    ⟨by decide, by decide, by decide, rfl, fun _ _ h => by cases h⟩, (fun _ h => by cases h), by decide⟩
  show 4 ≤ 64
  decide

theorem relocateBody_spells : Request.Spells relocateBody (.relocate relocate4) := by
  refine ⟨2#8, [0#8, 0#8, 0#8], [1#8, 0#8, 60#8, 4#8], ⟨0#8, 0#8, rfl⟩, ⟨by decide, by decide, rfl, by decide, by decide,
    by decide, ?_, ?_⟩, by decide⟩
  · intro r h
    cases List.mem_singleton.1 h
    decide
  · exact List.pairwise_singleton _ _

/-- A body of each kind spelled at the ends of its ranges; a code that names no command; a body that spells no RELEASE. -/
theorem witness_BodiesAreRead :
    (Request.code (.reserve (reserve4 .noWait)) = 0x01#8 ∧ Request.Spells reserveBody (.reserve (reserve4 .noWait))) ∧
      Request.Spells relocateBody (.relocate relocate4) ∧
      Request.Spells [1#8, 192#8, 64#8] (.readMap ⟨448, 64⟩) ∧ Request.Spells [191#8] (.listOwned 191) ∧
      Request.Spells [0#8, 0#8, 255#8, 255#8] (.renew handle0 65535) ∧
      Request.Spells [8#8, 0x07#8, 0xD0#8] (.setParam .syncWindow 2000) ∧
      Request.Spells [5#8, 2#8, 0#8, 192#8, 1#8, 7#8] (.setPort 5 ⟨512, 192, .retain, true, true, true⟩) ∧
      Request.Spells [0xFF#8, 0#8, 2#8, 1#8, 63#8, 0#8, 0#8, 1#8, 255#8, 2#8, 0#8]
        (.setWatch ⟨none, .freeCount 0 511 512, .both, .continuous, 63#6⟩) ∧
      (∀ r : Request, r.code ≠ 0x0E#8) ∧ Request.code (.release handle0) = 0x02#8 ∧
      ∀ r : Request, r.code = 0x02#8 → ¬ r.Spells [0#8] := by
  refine ⟨⟨rfl, reserveBody_spells⟩, relocateBody_spells, ?_, ?_, ?_, ⟨8#8, ⟨rfl, by decide⟩, rfl⟩, ?_,
    ⟨[0#8, 0#8, 1#8, 255#8, 2#8, 0#8], ⟨rfl, by decide⟩, by decide, rfl⟩, ?_, rfl, ?_⟩
  · dsimp only [Request.Spells]
    decide
  · dsimp only [Request.Spells]
    decide
  · dsimp only [Request.Spells]
    decide
  · dsimp only [Request.Spells]
    decide
  · intro r
    cases r <;> dsimp only [Request.code] <;> decide
  · intro r h
    cases r <;> dsimp only [Request.code] at h <;> first
    | exact absurd h (by decide)
    | exact fun e => absurd (congrArg List.length e) (show (1 : Nat) ≠ 2 by decide)

/-- Slots that fill a run of 64, one more beside it, and the last slot. -/
theorem witness_LayoutsHold :
    (List.range 65 ++ [511]).Pairwise (· < ·) ∧
      barDoneSet (List.range 65 ++ [511]) = [⟨0, 64⟩, ⟨64, 1⟩, ⟨511, 1⟩] := by decide +kernel

/-- The conditions on the choice of port 2. -/
def choosesPort2 (s : State) : Bool :=
  decide (s.resetLow = false) && decide (s.engine.work = .idle) && !s.engine.waitReq &&
    decide (1 ≤ (s.ports.get 2).queue.length) && (s.ports.get 2).eligible && (s.ports.get 4).eligible &&
    (List.finRange 6).all fun o => !(s.ports.get o).eligible ||
      decide ((2 + 5 - s.engine.rrPos.val) % 6 ≤ (o.val + 5 - s.engine.rrPos.val) % 6)

theorem witness_EngineTakesNextPort :
    choosesPort2 (heads 0x01#8 reserveBody base) = true ∧
      readRequest 0x01#8 reserveBody = .ok (.reserve (reserve4 .noWait)) ∧
      (heads 0x01#8 reserveBody base).permits 2 (.reserve (reserve4 .noWait)) = true ∧
      choosesPort2 (heads 0x08#8 relocateBody live) = true ∧ readRequest 0x08#8 relocateBody = .ok (.relocate relocate4) ∧
      (heads 0x08#8 relocateBody live).permits 2 (.relocate relocate4) = true ∧
      (heads 0x08#8 relocateBody live).Names handle0 0 sample ∧ sample.state = .live ∧
      (SearchArgs.mk (setTotal sample.set) .contiguous relocate4.place 0 511).fits = true := by
  unfold State.Names
  decide +kernel

theorem witness_EngineRefusesAtTaking :
    readRequest 0x0E#8 [] = .error .badCommand ∧ readRequest 0x02#8 [] = .error .badArgument ∧
      (choosesPort2 (heads 0x16#8 [] (base.modPort 2 fun c => { c with admin := false })) = true ∧
        (heads 0x16#8 [] (base.modPort 2 fun c => { c with admin := false })).permits 2 .readParams = false) ∧
      ((heads 0x08#8 relocateBody base).Stale handle0 ∧
        (heads 0x08#8 relocateBody (moving .armed)).Names handle0 0 { sample with state := .moving, context := some 0 }) ∧
      (SearchArgs.mk 5 .contiguous relocate4.place 0 511).fits = false := by
  unfold State.Names State.Stale
  decide +kernel

/-- READ_PARAMS of port 1 in the engine, withdrawn or by a port without the right; RESERVE, unleased or urgent, by a port that may
issue neither. -/
def withdrawn : State := base.setWork (.command ⟨1, 7#8, .readParams, true, none⟩)
def unprivileged (req : Request) : State :=
  engaged 1 req (base.modPort 1 fun c => { c with admin := false, attrs := { c.attrs with urgent := false, unleased := false } })

theorem witness_WithdrawnOrNotPermitted :
    (withdrawn.resetLow = false ∧ withdrawn.engine.work = .command ⟨1, 7#8, .readParams, true, none⟩) ∧
      ((unprivileged .readParams).engine.work = .command ⟨1, 7#8, .readParams, false, none⟩ ∧
        Request.Forbidden ((unprivileged .readParams).ports.get 1) .readParams ∧
        ((unprivileged .readParams).ports.get 1).queue ≠ []) ∧
      Request.Forbidden ((unprivileged .readParams).ports.get 1) (.reserve { reserve4 .noWait with lease := 0 }) ∧
      Request.Forbidden ((unprivileged .readParams).ports.get 1) (.reserve { reserve4 .noWait with cls := .urgent }) := by
  unfold Request.Forbidden
  decide +kernel

/-- A RESERVE of port 1 in the engine that finds slots 0 to 3. -/
def reserving : State := engaged 1 (.reserve (reserve4 .noWait)) live

theorem witness_ReserveGranted :
    reserving.Engaged 1 7#8 (.reserve (reserve4 .noWait)) none ∧ 4 + 0 + 4 ≤ (reserving.ports.get 1).attrs.slotQuota ∧
      (reserving.ports.get 1).ownedSlots = 4 ∧ (reserving.ports.get 1).promised = 0 ∧
      (reserving.ports.get 1).ownedRecords + 1 ≤ (reserving.ports.get 1).attrs.recordQuota ∧
      reserving.params.poolFloor < reserving.pool.fifo.length ∧ reserving.pool.fifo = 1 :: reserving.pool.fifo.tail ∧
      reserving.pool.fifo.tail.length < 192 ∧
      (Scan.mk (reserve4 .noWait).search reserving.engine.rover []).finish reserving.map.isFree = some [⟨0, 4⟩] := by
  unfold State.Engaged
  decide +kernel

/-- Port 1 one slot short of quota; a pool at the floor; a frame with no FREE slot; eight entries of port 1 on the list. -/
def shortOfQuota : State :=
  engaged 1 (.reserve (reserve4 .noWait)) (base.modPort 1 fun c => { c with attrs := { c.attrs with slotQuota := 3 } })
def atFloor : State :=
  engaged 1 (.reserve (reserve4 .noWait)) { base with pool := { base.pool with fifo := [188, 189, 190, 191] } }
def roomless (w : WaitOption) : State := engaged 1 (.reserve (reserve4 w)) (barredOut base)
def listFull : State :=
  { roomless (.wait 6) with waits := ⟨(List.range 8).map fun k => { entry3 with ticket := byteOf k }, 7#8⟩ }

theorem witness_ReserveRefusedOrQueued :
    (shortOfQuota.Engaged 1 7#8 (.reserve (reserve4 .noWait)) none ∧
        ¬ (shortOfQuota.ports.get 1).ownedSlots + (shortOfQuota.ports.get 1).promised + 4 ≤
          (shortOfQuota.ports.get 1).attrs.slotQuota) ∧
      (atFloor.Engaged 1 7#8 (.reserve (reserve4 .noWait)) none ∧ ¬ atFloor.params.poolFloor < atFloor.pool.fifo.length) ∧
      ((roomless .noWait).Engaged 1 7#8 (.reserve (reserve4 .noWait)) none ∧
        (Scan.mk (reserve4 .noWait).search 0 []).finish (roomless .noWait).map.isFree = none) ∧
      (listFull.Engaged 1 7#8 (.reserve (reserve4 (.wait 6))) none ∧
        8 ≤ listFull.waits.entries.countP (fun e => e.port = 1)) ∧
      ((roomless (.wait 6)).Engaged 1 7#8 (.reserve (reserve4 (.wait 6))) none ∧
        ((roomless (.wait 6)).ports.get 1).ownedSlots + ((roomless (.wait 6)).ports.get 1).promised + 4 ≤
          ((roomless (.wait 6)).ports.get 1).attrs.slotQuota ∧
        ((roomless (.wait 6)).ports.get 1).ownedRecords + 1 ≤ ((roomless (.wait 6)).ports.get 1).attrs.recordQuota ∧
        (roomless (.wait 6)).params.poolFloor < (roomless (.wait 6)).pool.fifo.length ∧
        (Scan.mk (reserve4 (.wait 6)).search 0 []).finish (roomless (.wait 6)).map.isFree = none ∧
        (roomless (.wait 6)).waits.entries.length < 24) := by
  unfold State.Engaged
  decide +kernel

/-- Index 192, a free record, and another generation. -/
theorem witness_StaleHandleRefused :
    live.Stale ⟨192#8, 0#8⟩ ∧ live.Stale ⟨191#8, 0#8⟩ ∧ live.Stale ⟨0#8, 1#8⟩ ∧
      (engaged 1 (.release ⟨0#8, 1#8⟩) live).Engaged 1 7#8 (.release ⟨0#8, 1#8⟩) none ∧
      (engaged 1 (.renew ⟨0#8, 1#8⟩ 4) live).Engaged 1 7#8 (.renew ⟨0#8, 1#8⟩ 4) none ∧
      (engaged 1 (.query ⟨0#8, 1#8⟩) live).Engaged 1 7#8 (.query ⟨0#8, 1#8⟩) none ∧
      (engaged 1 (.relocate { relocate4 with handle := ⟨0#8, 1#8⟩ }) live).Engaged 1 7#8
        (.relocate { relocate4 with handle := ⟨0#8, 1#8⟩ }) none ∧
      (engaged 1 (.confirmMove ⟨0#8, 1#8⟩) live).Engaged 1 7#8 (.confirmMove ⟨0#8, 1#8⟩) none ∧
      (engaged 1 (.declineMove ⟨0#8, 1#8⟩) live).Engaged 1 7#8 (.declineMove ⟨0#8, 1#8⟩) none ∧
      (engaged 1 (.forceRelease ⟨0#8, 1#8⟩) live).Engaged 1 7#8 (.forceRelease ⟨0#8, 1#8⟩) none := by
  unfold State.Engaged State.Stale
  decide +kernel

/-- `live` with port 2 no administrator. -/
def stranger : State := live.modPort 2 fun c => { c with admin := false }

theorem witness_NotOwnerRefused :
    stranger.Names handle0 0 sample ∧ sample.owner ≠ 2 ∧ (stranger.ports.get 2).admin = false ∧
      (engaged 2 (.release handle0) stranger).Engaged 2 7#8 (.release handle0) none ∧
      (engaged 2 (.renew handle0 4) stranger).Engaged 2 7#8 (.renew handle0 4) none ∧
      (engaged 2 (.confirmMove handle0) stranger).Engaged 2 7#8 (.confirmMove handle0) none ∧
      (engaged 2 (.declineMove handle0) stranger).Engaged 2 7#8 (.declineMove handle0) none ∧
      (engaged 2 (.relocate relocate4) stranger).Engaged 2 7#8 (.relocate relocate4) none := by
  unfold State.Engaged State.Names
  decide +kernel

theorem witness_ReleaseFreesRecord :
    live.Names handle0 0 sample ∧ sample.owner = 1 ∧
      (engaged 1 (.release handle0) live).Engaged 1 7#8 (.release handle0) none ∧
      (engaged 0 (.forceRelease handle0) live).Engaged 0 7#8 (.forceRelease handle0) none := by
  unfold State.Engaged State.Names
  decide +kernel

theorem witness_RenewSetsLease :
    (engaged 1 (.renew handle0 0) live).Engaged 1 7#8 (.renew handle0 0) none ∧
      (engaged 1 (.renew handle0 65535) live).Engaged 1 7#8 (.renew handle0 65535) none ∧
      live.Names handle0 0 sample ∧ sample.lease = some ⟨10, 2, true⟩ ∧ base.Stale handle0 ∧
      (holding { sample with lease := none } .free base).Names handle0 0 { sample with lease := none } := by
  unfold State.Engaged State.Names State.Stale
  decide +kernel

theorem witness_ReadingCommandsAnswer :
    live.Names handle0 0 sample ∧ (engaged 4 (.query handle0) live).Engaged 4 7#8 (.query handle0) none ∧
      (engaged 1 (.listOwned 191) live).Engaged 1 7#8 (.listOwned 191) none ∧
      448 + 64 ≤ 512 ∧ (engaged 1 (.readMap ⟨448, 64⟩) live).Engaged 1 7#8 (.readMap ⟨448, 64⟩) none := by
  unfold State.Engaged State.Names
  decide +kernel

/-- The run ends at the first slot of the target of an OFFERED move. -/
theorem witness_BarMarksRun :
    (engaged 0 (.bar ⟨57, 4⟩) (moving (.offered 3))).Engaged 0 7#8 (.bar ⟨57, 4⟩) none ∧
      (moving (.offered 3)).moves.get 0 = some ⟨0, 0#8, some (2, 9#8), .offered 3, [⟨60, 4⟩]⟩ ∧
      (60 < 57 + 4 ∧ 57 < 60 + 4) ∧ ¬ 60 < 56 + 4 := by
  unfold State.Engaged
  decide +kernel

theorem witness_UnbarFreesRun :
    (engaged 0 (.unbar ⟨511, 1⟩) (barredOut base)).Engaged 0 7#8 (.unbar ⟨511, 1⟩) none := by
  unfold State.Engaged
  decide +kernel

theorem witness_CancelWaitRemovesEntry :
    (engaged 1 (.cancelWait 3#8) waiting).Engaged 1 7#8 (.cancelWait 3#8) none ∧
      (engaged 2 (.cancelWait 3#8) waiting).Engaged 2 7#8 (.cancelWait 3#8) none ∧
      (engaged 1 (.cancelWait 4#8) waiting).Engaged 1 7#8 (.cancelWait 4#8) none ∧
      (waiting.waits.entries.map WaitEntry.ticket).Nodup ∧ entry3 ∈ waiting.waits.entries ∧ entry3.port = 1 := by
  unfold State.Engaged
  decide +kernel

theorem witness_PassBegins :
    (base.requestPass.resetLow = false ∧ base.requestPass.engine.work = .idle ∧ base.requestPass.engine.waitReq = true ∧
        base.requestPass.waits.entries = []) ∧
      (waiting.requestPass.engine.work = .idle ∧ waiting.requestPass.waits.entries ≠ [] ∧
        waiting.requestPass.params.waitPolicy = .fit) ∧
      ({ waiting with params := { waiting.params with waitPolicy := .strict } } : State).params.waitPolicy = .strict := by
  decide +kernel

theorem witness_PassGrantsTrial :
    passing.resetLow = false ∧ passing.engine.work = .pass ⟨[], none, [⟨3#8, [⟨0, 4⟩]⟩], 4⟩ ∧
      passing.waits.entries.find? (fun x => x.ticket = 3#8) = some entry3 ∧
      (passing.ports.get 1).ownedSlots + (passing.ports.get 1).promised ≤ (passing.ports.get 1).attrs.slotQuota ∧
      (passing.ports.get 1).ownedRecords + 1 ≤ (passing.ports.get 1).attrs.recordQuota ∧
      passing.params.poolFloor < passing.pool.fifo.length ∧ passing.pool.fifo = 0 :: passing.pool.fifo.tail ∧
      passing.pool.fifo.tail.length < 192 := by decide +kernel

/-- The entry fits the quota and the pool, and does not where the quota is short; the scan order of its search has sixteen slots. -/
theorem witness_PassMakesTrials :
    waiting.resetLow = false ∧ waiting.pending = [] ∧
      waiting.waits.entries.find? (fun x => x.ticket = 4#8) = none ∧
      waiting.waits.entries.find? (fun x => x.ticket = 3#8) = some entry3 ∧
      ((waiting.ports.get 1).ownedSlots + (waiting.ports.get 1).promised ≤ (waiting.ports.get 1).attrs.slotQuota ∧
        (waiting.ports.get 1).ownedRecords + 1 ≤ (waiting.ports.get 1).attrs.recordQuota ∧
        waiting.pool.fifo.length - 0 ≠ 0 ∧ waiting.params.poolFloor < waiting.pool.fifo.length - 0) ∧
      ¬ (4 ≤ ((waiting.modPort 1 fun c => { c with attrs := { c.attrs with slotQuota := 3 } }).ports.get 1).attrs.slotQuota) ∧
      [Trial.mk 3#8 [⟨0, 4⟩]].head? = some ⟨3#8, [⟨0, 4⟩]⟩ ∧
      passing.engine.work = .pass ⟨[], none, [⟨3#8, [⟨0, 4⟩]⟩], 4⟩ ∧
      (Scan.mk entry3.search 0 (List.replicate 15 true)).order[15]? = some 15 ∧
      (Scan.mk entry3.search 0 (List.replicate 16 true)).order.length ≤ 16 := by decide +kernel

theorem waiting_agrees : (marked waiting).WaitsAgree := by
  unfold State.WaitsAgree
  decide +kernel

theorem witness_WaitListReaction :
    (marked waiting).resetLow = false ∧ (marked waiting).timing.sync = .locked ∧ (marked waiting).marks.wait = [9#16] ∧
      (marked waiting).WaitsAgree ∧ entry3.remaining = some 1 :=
  ⟨by decide +kernel, by decide +kernel, by decide +kernel, waiting_agrees, by decide⟩

theorem witness_RelocateGranted :
    (engaged 2 (.relocate relocate4) live).Engaged 2 7#8 (.relocate relocate4) none ∧
      (engaged 1 (.relocate relocate4) stranger).Engaged 1 7#8 (.relocate relocate4) none ∧
      live.Names handle0 0 sample ∧ (live.ports.get 2).admin = true ∧ sample.owner = 1 ∧ sample.state = .live ∧
      live.moves.get 0 = none ∧
      (Scan.mk ⟨4, .contiguous, .atRuns [⟨60, 4⟩], 0, 511⟩ 0 []).finish live.map.isFree = some [⟨60, 4⟩] := by
  unfold State.Engaged State.Names
  decide +kernel

/-- `live` with all four contexts in use. -/
def contextsFull : State :=
  { live with moves := live.moves.map fun _ _ => some ⟨1, 0#8, none, .armed, []⟩ }

theorem witness_RelocateRefused :
    (engaged 1 (.relocate relocate4) (moving .armed)).Engaged 1 7#8 (.relocate relocate4) none ∧
      (moving .armed).Names handle0 0 { sample with state := .moving, context := some 0 } ∧
      contextsFull.Names handle0 0 sample ∧ (∀ k, contextsFull.moves.get k ≠ none) ∧
      live.moves.get 0 = none ∧ (barredOut live).Names handle0 0 sample ∧
      (Scan.mk ⟨4, .contiguous, .atRuns [⟨60, 4⟩], 0, 511⟩ 0 []).finish (barredOut live).map.isFree = none := by
  unfold State.Engaged State.Names
  decide +kernel

theorem witness_OwnerAnswersOffer :
    ((moving (.offered 3)).Names handle0 0 { sample with state := .moving, context := some 0 } ∧
        (moving (.offered 3)).moves.get 0 = some ⟨0, 0#8, some (2, 9#8), .offered 3, [⟨60, 4⟩]⟩ ∧
        (engaged 1 (.confirmMove handle0) (moving (.offered 3))).Engaged 1 7#8 (.confirmMove handle0) none ∧
        (engaged 1 (.declineMove handle0) (moving (.offered 3))).Engaged 1 7#8 (.declineMove handle0) none) ∧
      (live.Names handle0 0 sample ∧ sample.state ≠ .moving ∧
        (engaged 1 (.confirmMove handle0) live).Engaged 1 7#8 (.confirmMove handle0) none ∧
        (engaged 1 (.declineMove handle0) live).Engaged 1 7#8 (.declineMove handle0) none) := by
  unfold State.Engaged State.Names
  decide +kernel

theorem witness_PromotionReportsTaken :
    ((reported (0, .current) live).resetLow = false ∧
        (reported (0, .current) live).reports.pool = [⟨9#16, [(0, .current)]⟩] ∧ [((0 : RecIx), Role.current)].Nodup) ∧
      (reported (0, .target) (moving .armed)).MovesAgree ∧
      (reported (0, .target) (moving .armed)).reports.move = [⟨9#16, [(0, .target)]⟩] ∧
      [((0 : RecIx), Role.target)].Nodup ∧ (reported (0, .target) (moving .armed)).resetLow = false :=
  ⟨by decide +kernel, movesAgree_of_movesOk (by decide +kernel), by decide +kernel, by decide, by decide +kernel⟩

/-- Each clause at the last frame and one before it. -/
theorem witness_MoveUnitReaction :
    (marked (moving (.offered 1))).resetLow = false ∧ (marked (moving (.offered 1))).timing.sync = .locked ∧
      (marked (moving (.offered 1))).marks.move = [9#16] ∧
      ((moving (.offered 1)).moves.get 0).map MoveContext.stage = some (.offered 1) ∧
      ((moving (.offered 2)).moves.get 0).map MoveContext.stage = some (.offered 2) ∧
      ((moving (.overlap 1 8#16)).moves.get 0).map MoveContext.stage = some (.overlap 1 8#16) ∧
      ((moving (.overlap 1 9#16)).moves.get 0).map MoveContext.stage = some (.overlap 1 9#16) := by decide +kernel

theorem witness_OfferTimesOut :
    (marked (moving (.offered 1))).marks.move = [9#16] ∧
      (moving (.offered 1)).moves.get 0 = some ⟨0, 0#8, some (2, 9#8), .offered 1, [⟨60, 4⟩]⟩ ∧
      (∀ j, j ≠ 0 → (moving (.offered 1)).moves.get j = none) ∧
      (moving (.offered 1)).pool.records.get 0 = ⟨0#8, some { sample with state := .moving, context := some 0 }⟩ := by
  decide +kernel

theorem witness_CutoverExchangesSets :
    (marked (moving (.overlap 1 8#16))).marks.move = [9#16] ∧ (8#16 : Word) ≠ 9#16 ∧
      (moving (.overlap 1 8#16)).moves.get 0 = some ⟨0, 0#8, some (2, 9#8), .overlap 1 8#16, [⟨60, 4⟩]⟩ ∧
      (∀ j, j ≠ 0 → (moving (.overlap 1 8#16)).moves.get j = none) ∧
      (moving (.overlap 1 8#16)).pool.records.get 0 =
        ⟨0#8, some { sample with state := .moving, context := some 0 }⟩ := by decide +kernel

/-- A condition over slots 40 to 47, and one over a handle. -/
def watchSlots (u : Option UnitIx) : SetWatchArgs := ⟨u, .freeCount 40 47 5, .rise, .oneShot, 0x12#6⟩
def watchHandle (u : Option UnitIx) : SetWatchArgs := ⟨u, .resState .live .any [handle0], .both, .continuous, 1#6⟩

/-- `base` with every unit in use by port 1. -/
def unitsFull : State := { base with units := base.units.map fun _ _ => some unit1 }

theorem witness_SetWatchDefinesUnit :
    (engaged 1 (.setWatch (watchSlots none)) live).Engaged 1 7#8 (.setWatch (watchSlots none)) none ∧
      (engaged 1 (.setWatch (watchHandle (some 7))) live).Engaged 1 7#8 (.setWatch (watchHandle (some 7))) none ∧
      live.units.get 0 = none ∧ live.units.get 7 = none ∧ live.Names handle0 0 sample ∧
      (∀ k, unitsFull.units.get k ≠ none) ∧ (watchSlots none).unit = none ∧
      unitsFull.units.get 7 = some unit1 ∧ unit1.owner ≠ 2 ∧
      (engaged 2 (.setWatch (watchSlots (some 7))) unitsFull).Engaged 2 7#8 (.setWatch (watchSlots (some 7))) none := by
  unfold State.Engaged State.Names
  decide +kernel

theorem witness_ClearAndRearmWatch :
    (engaged 1 (.clearWatch 2) watching).Engaged 1 7#8 (.clearWatch 2) none ∧
      (engaged 1 (.rearmWatch 2) watching).Engaged 1 7#8 (.rearmWatch 2) none ∧
      watching.units.get 2 = some unit1 ∧ watching.units.get 3 = none ∧ unit1.owner = 1 ∧ unit1.armed = true ∧
      ((base.setUnit 2 (some { unit1 with armed := false })).units.get 2).map WatchUnit.armed = some false := by
  unfold State.Engaged
  decide +kernel

theorem witness_ReportsJudgeUnits :
    notified.resetLow = false ∧
      notified.reports.watch = [.slots [⟨44, .draining, .free⟩], .record handle0 (some .live)] ∧
      ({ notified with reports := { notified.reports with watch := notified.reports.watch.tail } } : State).reports.watch =
        [.record handle0 (some .live)] := by decide +kernel

theorem witness_ConfigurationCommands :
    (ParamName.guard.Ranges 1#8 1 ∧ ParamName.guard.Ranges 1#8 15 ∧ ParamName.overlap.Ranges 2#8 255 ∧
        ParamName.confirmWindow.Ranges 3#8 65535 ∧ ParamName.leaseWarn.Ranges 4#8 0 ∧ ParamName.poolLow.Ranges 5#8 191 ∧
        ParamName.poolFloor.Ranges 6#8 32 ∧ ParamName.waitPolicy.Ranges 7#8 1 ∧ ParamName.syncWindow.Ranges 8#8 2000) ∧
      (engaged 0 (.setParam .guard 15) base).Engaged 0 7#8 (.setParam .guard 15) none ∧
      (engaged 0 .readParams base).Engaged 0 7#8 .readParams none ∧
      (engaged 0 (.setPort 3 ⟨512, 192, .retain, true, true, true⟩) base).Engaged 0 7#8
        (.setPort 3 ⟨512, 192, .retain, true, true, true⟩) none := by
  unfold State.Engaged ParamName.Ranges
  decide +kernel

theorem witness_PortResetMade :
    ((engaged 0 (.resetPort 1) (moving (.offered 3))).Engaged 0 7#8 (.resetPort 1) none ∧
        (engaged 0 (.resetPort 1) (moving (.offered 3))).MovesAgree) ∧
      ((engaged 1 (.resetPort 1) (moving (.offered 3))).Engaged 1 7#8 (.resetPort 1) none ∧
        (engaged 1 (.resetPort 1) (moving (.offered 3))).MovesAgree) ∧
      ((queued 1 ⟨7#8, 0x22#8, [], false⟩ live).ports.get 1).queue = [⟨7#8, 0x22#8, [], false⟩] ∧
      (queued 1 ⟨7#8, 0x22#8, [], false⟩ live).MovesAgree :=
  ⟨⟨by unfold State.Engaged; decide +kernel, movesAgree_of_movesOk (by decide +kernel)⟩,
    ⟨by unfold State.Engaged; decide +kernel, movesAgree_of_movesOk (by decide +kernel)⟩, by decide +kernel,
    movesAgree_of_movesOk (by decide +kernel)⟩

/-- Port 1 under RETAIN with an offered move, and under RECLAIM with the pool one record below its recovery level and the flag
clear. -/
def retaining : State :=
  engaged 0 (.resetPort 1) ((moving (.offered 3)).modPort 1 fun c => { c with attrs := { c.attrs with policy := .retain } })
def recovering : State :=
  engaged 0 (.resetPort 1) { moving .armed with pool := { (moving .armed).pool with
    fifo := (moving .armed).pool.fifo.take 19, warnArmed := false } }

theorem witness_PortResetTellsOthers :
    (retaining.Engaged 0 7#8 (.resetPort 1) none ∧ retaining.MovesAgree ∧ (retaining.ports.get 1).attrs.policy = .retain) ∧
      (recovering.Engaged 0 7#8 (.resetPort 1) none ∧ recovering.MovesAgree ∧
        (recovering.ports.get 1).attrs.policy = .reclaim ∧ recovering.pool.fifo.length + 1 = recovering.params.poolLow + 4) ∧
      ((queued 1 ⟨7#8, 0x22#8, [], false⟩ (moving (.offered 3))).ports.get 1).queue = [⟨7#8, 0x22#8, [], false⟩] ∧
      (queued 1 ⟨7#8, 0x22#8, [], false⟩ (moving (.offered 3))).MovesAgree :=
  ⟨⟨by unfold State.Engaged; decide +kernel, movesAgree_of_movesOk (by decide +kernel), by decide +kernel⟩,
    ⟨by unfold State.Engaged; decide +kernel, movesAgree_of_movesOk (by decide +kernel), by decide +kernel,
      by decide +kernel⟩, by decide +kernel, movesAgree_of_movesOk (by decide +kernel)⟩

theorem witness_PostingJoinsOrIsLost :
    [(1 : Port), 4].Nodup ∧ ((base.modPort 1 fun c => { c with events := List.replicate 15 ⟨0#16, .syncLost⟩ }).ports.get 1).events.length < 16 ∧
      16 ≤ ((base.modPort 1 fun c => { c with events := List.replicate 16 ⟨0#16, .syncLost⟩ }).ports.get 1).events.length := by
  decide +kernel

theorem witness_PortLocalCommandsAnswer :
    ((queued 1 ⟨7#8, 0x20#8, [16#8], false⟩ eventful).ports.get 1).queue = [⟨7#8, 0x20#8, [16#8], false⟩] ∧
      (1 ≤ (1#8 : Byte).toNat ∧ (16#8 : Byte).toNat ≤ 16) ∧ ((0#8 : Byte).toNat = 0 ∧ 16 < (17#8 : Byte).toNat) ∧
      eventful.resetLow = false ∧
      ((queued 1 ⟨7#8, 0x23#8, [5#8], false⟩ base).ports.get 1).queue = [⟨7#8, 0x23#8, [5#8], false⟩] ∧
      ((queued 1 ⟨7#8, 0x21#8, [5#8], false⟩ base).ports.get 1).queue = [⟨7#8, 0x21#8, [5#8], false⟩] ∧
      ((queued 1 ⟨7#8, 0x21#8, [], false⟩ base).ports.get 1).queue = [⟨7#8, 0x21#8, [], false⟩] := by decide +kernel

/-! The invariants of the map, the pool and the marks, shown of a state by evaluation. -/

/-- A Bool form of `State.MarksAgree` where no promotion report is left. -/
def marksOk (s : State) : Bool :=
  let last := s.timing.lastMark
  ([s.marks.slotMap, s.marks.lease, s.marks.move, s.marks.wait].all fun l =>
      decide (l = []) || decide (l = [last]) && decide (s.timing.sync = .locked)) &&
    (decide (s.marks.slotMap = []) || decide (s.timing.frameCounter = last - 1#16) && decide (s.timing.slotIndex = .none) &&
      decide (s.map.imageMark ≠ some last)) &&
    (decide (s.marks.slotMap ≠ []) || decide (s.timing.frameCounter = last) && decide (s.timing.sync ≠ .searching) &&
      decide (s.map.imageMark = some last) && decide (s.map.carry = [])) &&
    decide (s.reports.pool = []) && decide (s.reports.move = []) &&
    (decide (s.map.carry = []) || decide (s.marks.move = [])) &&
    (s.map.carry.all fun e => decide (e.mark = last)) && decide (s.map.carry.length ≤ 4)

theorem marksAgree_of_marksOk {s : State} (h : marksOk s = true) : s.MarksAgree := by
  simp only [marksOk, Bool.and_eq_true, Bool.or_eq_true, List.all_eq_true, decide_eq_true_eq] at h
  obtain ⟨⟨⟨⟨⟨⟨⟨h1, h2⟩, h3⟩, h4⟩, h5⟩, h6⟩, h7⟩, h8⟩ := h
  refine ⟨h1, fun hm => ?_, fun hm => ?_, ?_, fun hc => h6.resolve_left hc, h7, h8⟩
  · obtain ⟨⟨hf, hi⟩, hn⟩ := h2.resolve_left hm
    exact ⟨hf, hi, hn, h4, h5⟩
  · obtain ⟨⟨⟨hf, hs⟩, hi⟩, hc⟩ := h3.resolve_left (fun hn => hn hm)
    exact ⟨hf, by rw [if_neg hs, hi], hc⟩
  · intro l hl
    simp only [List.mem_cons, List.not_mem_nil, or_false] at hl
    rcases hl with rfl | rfl
    · exact .inl h4
    · exact .inl h5

/-- Every slot of a set is as a test says. -/
def allSlots (set : List Run) (test : Slot → Bool) (s : State) : Bool :=
  (List.finRange 512).all fun j => !inSet set j.val || test (s.map.entries.get j)

def isLive : Slot → Bool
  | .live _ _ _ => true
  | _ => false

def isHeld (armed : Bool) : Slot → Bool
  | .held _ _ a _ => a == armed
  | _ => false

theorem allLive_of_allSlots {set : List Run} {s : State} (h : allSlots set isLive s = true) : s.AllLive set := by
  intro j hj
  have := List.all_eq_true.1 h j (List.mem_finRange j)
  rw [hj] at this
  cases he : s.map.entries.get j <;> simp_all [isLive]

theorem allHeld_of_allSlots {armed : Bool} {set : List Run} {s : State} (h : allSlots set (isHeld armed) s = true) :
    s.AllHeld armed set := by
  intro j hj
  have := List.all_eq_true.1 h j (List.mem_finRange j)
  rw [hj] at this
  cases he : s.map.entries.get j <;> simp_all [isHeld]

/-- Bool forms of the clauses of `State.SlotsAgree`, where no promotion report is left. -/
def namesOk (s : State) : Bool :=
  ((List.finRange 512).all fun j => (s.map.entries.get j).names.all fun x =>
      (s.reservation x.1).any fun a => inSet (s.setOf x.2 a) j.val) &&
    (List.finRange 192).all fun i => (s.reservation i).all fun a => [Role.current, .target].all fun role =>
      (List.finRange 512).all fun j =>
        !inSet (s.setOf role a) j.val || decide ((s.map.entries.get j).names = some (i, role))

def stagesOk (s : State) : Bool :=
  decide (s.reports.pool = []) && decide (s.reports.move = []) &&
    (List.finRange 192).all fun i => (s.reservation i).all fun a =>
      (match a.state with
        | .pending => allSlots a.set (isHeld true) s
        | _ => allSlots a.set isLive s) &&
      (s.contextOf a).all fun x => match x.2.stage with
        | .offered _ => allSlots x.2.target (isHeld false) s
        | .armed => allSlots x.2.target (isHeld true) s
        | .overlap _ _ => allSlots x.2.target isLive s

theorem names_of_namesOk {s : State} (h : namesOk s = true) (j : SlotIx) (i : RecIx) (role : Role) :
    (s.map.entries.get j).names = some (i, role) ↔
      ∃ a, s.reservation i = some a ∧ inSet (s.setOf role a) j.val = true := by
  simp only [namesOk, Bool.and_eq_true, List.all_eq_true, List.mem_finRange, true_imp_iff, Option.all_eq_true,
    Bool.or_eq_true, Bool.not_eq_true', decide_eq_true_eq] at h
  refine ⟨fun hn => ?_, fun ⟨a, ha, hin⟩ => ?_⟩
  · have := h.1 j (i, role) hn
    simpa only [Option.any_eq_true] using this
  · exact (h.2 i a ha role (by cases role <;> simp) j).resolve_left (by simp [hin])

theorem stages_of_stagesOk {s : State} (h : stagesOk s = true) : s.StagesAgree := by
  simp only [stagesOk, Bool.and_eq_true, List.all_eq_true, List.mem_finRange, true_imp_iff, Option.all_eq_true,
    decide_eq_true_eq] at h
  obtain ⟨⟨hp, hm⟩, h⟩ := h
  intro i a ha
  obtain ⟨h1, h2⟩ := h i a ha
  refine ⟨?_, fun k c hc => ?_, by simp [hp], by simp [hm]⟩
  · cases hs : a.state <;> rw [hs] at h1
    · exact .inl (allHeld_of_allSlots h1)
    · exact allLive_of_allSlots h1
    · exact allLive_of_allSlots h1
  · have h3 := h2 (k, c) hc
    cases hs : c.stage <;> rw [hs] at h3
    · exact allHeld_of_allSlots h3
    · exact .inl (allHeld_of_allSlots h3)
    · exact allLive_of_allSlots h3

/-- A Bool form of `State.TotalsAgree` where the engine holds no RELOCATE. -/
def totalsOk (s : State) : Bool :=
  ((List.finRange 6).all fun p => decide ((s.ports.get p).ownedSlots =
      (((List.finRange 192).filterMap s.reservation).map fun a => if a.owner = p then setTotal a.set else 0).sum)) &&
    (List.finRange 4).all fun k => (s.moves.get k).all fun c => (s.reservation c.index).all fun a =>
      decide (setTotal c.target = setTotal a.set)

theorem totalsAgree_of_totalsOk {s : State} (h : totalsOk s = true) (hr : s.RelocatesTotal) : s.TotalsAgree := by
  simp only [totalsOk, Bool.and_eq_true, List.all_eq_true, List.mem_finRange, true_imp_iff, Option.all_eq_true,
    decide_eq_true_eq] at h
  exact ⟨h.1, fun k c a hk ha => h.2 k c hk a ha, hr⟩

/-- Nothing due, and everything due; the edge counts where the clauses meet. -/
theorem witness_FrameTimingRuns :
    ((settled live).resetLow = false ∧ (settled live).marks = ⟨[], [], [], []⟩ ∧ (settled live).reports.pool = [] ∧
        (settled live).reports.move = [] ∧ (settled live).timing.sync = .locked ∧ (settled live).timing.timer ≠ none) ∧
      ((marked live).MarksAgree ∧ (marked live).timing.sync = .locked ∧ (marked live).timing.timer ≠ none) ∧
      base.timing.sync = .searching ∧ (settled live).timing.edgeCount = (0 : SlotIx).val ∧
      ({ (settled live).timing with edgeCount := 511 } : FrameTiming).edgeCount = (511 : SlotIx).val ∧
      512 ≤ ({ (settled live).timing with edgeCount := 512 } : FrameTiming).edgeCount :=
  ⟨by decide +kernel, ⟨marksAgree_of_marksOk (by decide +kernel), by decide +kernel, by decide +kernel⟩,
    by decide +kernel, by decide +kernel, by decide +kernel, by decide +kernel⟩

theorem witness_NoReactionUnlessLocked :
    base.timing.sync ≠ .locked ∧ ({ (marked base).timing with sync := .lost } : FrameTiming).sync ≠ .locked := by
  decide +kernel

/-- `base` at mark 9 with an armed set in record 0, slot 8 ending its drain, slot 9 ending it with a bar pending, and slot 10 carried. -/
def busyFrame : State :=
  let s := marked (holding { sample with state := .pending } (.held 0 .current true false) base)
  { s with map := { s.map with
      entries := ((s.map.entries.set 8 (.draining 1 false)).set 9 (.draining 1 true)).set 10 (.draining 1 false)
      drainingCount := 3
      carry := [⟨9#16, 3, [⟨10, 1⟩]⟩] } }

theorem witness_SlotMapReaction :
    busyFrame.resetLow = false ∧ busyFrame.timing.sync = .locked ∧ busyFrame.marks.slotMap = [9#16] ∧
      busyFrame.map.entries.get 8 = .draining 1 false ∧ busyFrame.map.entries.get 9 = .draining 1 true ∧
      busyFrame.map.entries.get 40 = .held 0 .current true false ∧ busyFrame.map.carry = [⟨9#16, 3, [⟨10, 1⟩]⟩] ∧
      sees .slotMapFrameReaction busyFrame (fun t => ((List.range 3).map fun k => t.map.isFree (8 + k), t.map.barredCount,
        t.map.entries.get 10, t.map.image.get 10)) =
          some ([true, false, false], 1, .draining 1 false, some 3) := by
  decide +kernel

theorem witness_LeaseCounterReaction :
    ((marked live).resetLow = false ∧ (marked live).timing.sync = .locked ∧ (marked live).marks.lease = [9#16] ∧
        (live.pool.records.get 0).alloc = some sample) ∧
      sample.lease = some ⟨10, 2, true⟩ ∧
      (∀ j : RecIx, j ≠ 0 → (live.pool.records.get j).alloc.bind Reservation.lease = none) ∧ 1 < 2 ∧
      ((holding { sample with lease := some ⟨10, 1, true⟩ } .free base).pool.records.get 0).alloc.bind Reservation.lease =
        some ⟨10, 1, true⟩ := by decide +kernel

theorem witness_SearchFindsSet :
    1 ≤ (reserve4 .noWait).search.n ∧ 511 ≤ 511 ∧
      placementValid .contiguous .lowFit 0 15 = true ∧ (reserve4 .noWait).search.fits = true ∧
      (Scan.mk (reserve4 .noWait).search 511 []).finish base.map.isFree = some [⟨0, 4⟩] ∧
      (Scan.mk ⟨4, .split 2 2, .nextFit, 40, 47⟩ 44 []).finish live.map.isFree = some [⟨44, 4⟩] ∧
      (Scan.mk ⟨4, .contiguous, .atRuns [⟨508, 4⟩], 0, 511⟩ 0 []).finish base.map.isFree = some [⟨508, 4⟩] ∧
      (Scan.mk ⟨4, .contiguous, .atRuns [⟨40, 4⟩], 0, 511⟩ 0 []).finish live.map.isFree = none := by
  decide +kernel

theorem witness_GenerationAdvancesAtFreeing :
    ∃ t, exec .release (engaged 1 (.release handle0) live) = .next t ∧
      (t.pool.records.get 0).gen = ((engaged 1 (.release handle0) live).pool.records.get 0).gen + 1#8 := by
  have h : sees .release (engaged 1 (.release handle0) live) (fun t => (t.pool.records.get 0).gen) = some 1#8 := by
    decide +kernel
  obtain ⟨t, ht⟩ := next_of_after (c := .release) (s := engaged 1 (.release handle0) live) (by decide +kernel)
  refine ⟨t, ht, ?_⟩
  simp only [sees, after, ht, Option.map_some, Option.some.injEq] at h
  rw [h]
  decide +kernel

/-! A state with a MOVING reservation, an offered move and a command in the engine, from which the invariants are kept. -/

/-- That state, between mark 9 and the next, its command at the front of the queue. -/
def busy : State :=
  { engaged 1 (.release handle0) (settled (moving (.offered 3))) with pending := [.release] }

theorem busy_steps : ∃ t, step busy = .next t := by
  obtain ⟨t, ht⟩ := next_of_after (c := .release) (s := { busy with pending := [] }) (by decide +kernel)
  exact ⟨t, by rw [← ht]; rfl⟩

theorem witness_CountsStayExact : busy.CountsAgree ∧ ∃ t, step busy = .next t :=
  ⟨by unfold State.CountsAgree SlotMap.countOf; decide +kernel, busy_steps⟩

theorem busy_pool : busy.PoolAgrees := by
  unfold State.PoolAgrees
  decide +kernel

theorem busy_moves : busy.MovesAgree := movesAgree_of_movesOk (by decide +kernel)

theorem busy_marks : busy.MarksAgree := marksAgree_of_marksOk (by decide +kernel)

theorem busy_work : busy.engine.work = .command ⟨1, 7#8, .release handle0, false, none⟩ := rfl

theorem witness_PoolStaysWhole :
    busy.PoolAgrees ∧ busy.MovesAgree ∧ busy.TotalsAgree ∧ ∃ t, step busy = .next t := by
  refine ⟨busy_pool, busy_moves, totalsAgree_of_totalsOk (by decide +kernel) ?_, busy_steps⟩
  intro c q i a hc hr
  rw [busy_work] at hc
  cases hc
  cases hr

/-- A RELOCATE of `live`'s record in the engine, its search begun. -/
def relocating : State :=
  live.setWork (.command ⟨1, 7#8, .relocate relocate4, false, some ⟨⟨4, .contiguous, .atRuns [⟨60, 4⟩], 0, 511⟩, 0, []⟩⟩)

theorem relocating_agrees : relocating.TotalsAgree := by
  refine totalsAgree_of_totalsOk (by decide +kernel) fun c q i a hc hr ha => ?_
  cases hc
  cases hr
  have hi : i = 0 := Fin.ext ha.1
  subst hi
  have hs : (relocating.pool.records.get 0).alloc = some sample := by decide +kernel
  rw [ha.2.1] at hs
  cases hs
  exact ⟨_, rfl, by decide, rfl, fun runs h => by cases h; decide⟩

theorem witness_MarksStayCurrent :
    busy.MarksAgree ∧ (marked (moving (.overlap 1 8#16))).MarksAgree ∧ ∃ t, step busy = .next t :=
  ⟨busy_marks, marksAgree_of_marksOk (by decide +kernel), busy_steps⟩

theorem witness_SlotsStayWithRecords :
    busy.PoolAgrees ∧ busy.MovesAgree ∧ busy.MarksAgree ∧ busy.SlotsAgree ∧ ∃ t, step busy = .next t := by
  refine ⟨busy_pool, busy_moves, busy_marks, ⟨names_of_namesOk (by decide +kernel),
    stages_of_stagesOk (by decide +kernel), ?_⟩, busy_steps⟩
  rw [State.SearchesAgree, busy_work]
  intro sc hs
  cases hs

theorem witness_PortsStayBounded : busy.PortsBounded ∧ ∃ t, step busy = .next t :=
  ⟨by unfold State.PortsBounded ClientPort.Bounded; decide +kernel, busy_steps⟩

theorem witness_CommandsStayAccounted : busy.CommandsAccounted ∧ ∃ t, step busy = .next t := by
  refine ⟨⟨fun c hc _ => ?_, ?_⟩, busy_steps⟩
  · have hw : busy.engine.work = .command ⟨1, 7#8, .release handle0, false, none⟩ := rfl
    rw [hw] at hc
    cases hc
    exact ⟨⟨7#8, 0x01#8, [], true⟩, [], by decide +kernel, rfl, rfl, by decide⟩
  · unfold State.TagsAgree
    decide +kernel

theorem witness_WaitListStaysExact : busy.WaitsAgree ∧ ∃ t, step busy = .next t :=
  ⟨by unfold State.WaitsAgree; decide +kernel, busy_steps⟩

theorem witness_MovesStayPaired : busy.PoolAgrees ∧ busy.MovesAgree ∧ ∃ t, step busy = .next t :=
  ⟨busy_pool, busy_moves, busy_steps⟩

/-- Slot 0 on the bus, the image naming port 5 for it. -/
def onBus : State :=
  let s := settled base
  { s with
    pending := [.slotEdge]
    map := { s.map with image := s.map.image.set 0 (some 5) }
    timing := ⟨.locked, 9#16, 9#16, some 375, .slot 0, 1, 0, true, 5#3⟩ }

theorem witness_OwnerLinesFollowImage : onBus.MarksAgree ∧ onBus.LinesAgree ∧ ∃ t, step onBus = .next t := by
  refine ⟨marksAgree_of_marksOk (by decide +kernel), ⟨by decide +kernel, ?_⟩, ?_⟩
  · show onBus.timing.ownv = (onBus.map.image.get 0).isSome ∧
      onBus.timing.own.toNat = (onBus.map.image.get 0).elim 0 fun p => p.val
    decide +kernel
  · obtain ⟨t, ht⟩ := next_of_after (c := .slotEdge) (s := { onBus with pending := [] }) (by decide +kernel)
    exact ⟨t, by rw [← ht]; rfl⟩

end Sys2Proof.Tests
end

section
/-! PROOFS. Reservation records and the record pool: a handle that names no record is refused (chapter 2, R26). -/

namespace Sys2Proof.Machine

/-! ## A completion that only answers -/

/-- The engine's command, where its effect is no more than an answer: the port's head command is answered, the engine is
free, and nothing else has changed (R50, R134). -/
theorem State.complete_eq_answered {p : Port} {tag : Byte} {req : Request} {scan : Option Scan} {s : State}
    {pick : Request → Option (Command → State → State)} {run : Command → State → State} {status : Status}
    {body : List Byte} (e : s.Engaged p tag req scan) (hp : pick req = some run)
    (hr : run ⟨p, tag, req, false, scan⟩ (s.setWork .idle) = (s.setWork .idle).answer p tag status body) :
    s.complete pick = s.answered p tag status body := by
  have ⟨_, _, _, hq⟩ := e
  rw [State.complete_of_engaged e pick run hp, hr, State.answer_setWork_idle p tag status body s hq]

/-! ## Stale handles -/

theorem State.stale_setWork (h : Handle) (w : Work) (s : State) : (s.setWork w).Stale h ↔ s.Stale h := Iff.rfl

section Completions

variable {h : Handle} {s : State} (c : Command)

theorem State.releaseCompletion_of_stale (n : s.Stale h) :
    s.releaseCompletion h c = s.answer c.port c.tag .badHandle [] := by
  rw [State.releaseCompletion, State.lookup_of_stale n]

theorem State.renewCompletion_of_stale (length : Nat) (n : s.Stale h) :
    s.renewCompletion h length c = s.answer c.port c.tag .badHandle [] := by
  rw [State.renewCompletion, State.lookup_of_stale n]

theorem State.queryCompletion_of_stale (n : s.Stale h) :
    s.queryCompletion h c = s.answer c.port c.tag .badHandle [] := by
  rw [State.queryCompletion, State.lookup_of_stale n]

theorem State.relocateCompletion_of_stale {q : RelocateArgs} (n : s.Stale q.handle) :
    s.relocateCompletion q c = s.answer c.port c.tag .badHandle [] := by
  rw [State.relocateCompletion, State.lookup_of_stale n]

/-- The check that CONFIRM_MOVE and DECLINE_MOVE share (R110, R111) finds no record first of all. -/
theorem State.ownOffer_of_stale (p : Port) (n : s.Stale h) : s.ownOffer h p = .error .badHandle := by
  rw [State.ownOffer, State.lookup_of_stale n]

theorem State.confirmCompletion_of_stale (n : s.Stale h) :
    s.confirmCompletion h c = s.answer c.port c.tag .badHandle [] := by
  rw [State.confirmCompletion, State.ownOffer_of_stale c.port n]

theorem State.declineCompletion_of_stale (n : s.Stale h) :
    s.declineCompletion h c = s.answer c.port c.tag .badHandle [] := by
  rw [State.declineCompletion, State.ownOffer_of_stale c.port n]

theorem State.forceCompletion_of_stale (n : s.Stale h) :
    s.forceCompletion h c = s.answer c.port c.tag .badHandle [] := by
  rw [State.forceCompletion, State.lookup_of_stale n]

end Completions

/-- Settles O19: each of the seven completions looks the handle up first, and the lookup of a stale handle finds nothing. -/
theorem staleHandleRefused : Obligations.StaleHandleRefused := by
  unfold Obligations.StaleHandleRefused
  intro p tag h scan s stale outcome
  have idleStale : (s.setWork .idle).Stale h := (State.stale_setWork h .idle s).mpr stale
  refine ⟨?release, ?renew, ?query, ?relocate, ?confirm, ?decline, ?force⟩
  case release =>
    exact fun e => congrArg _ (State.complete_eq_answered e rfl (State.releaseCompletion_of_stale _ idleStale))
  case renew =>
    exact fun n e => congrArg _ (State.complete_eq_answered e rfl (State.renewCompletion_of_stale _ n idleStale))
  case query =>
    exact fun e => congrArg _ (State.complete_eq_answered e rfl (State.queryCompletion_of_stale _ idleStale))
  case relocate =>
    rintro a rfl e
    exact congrArg _ (State.complete_eq_answered e rfl (State.relocateCompletion_of_stale _ idleStale))
  case confirm =>
    exact fun e => congrArg _ (State.complete_eq_answered e rfl (State.confirmCompletion_of_stale _ idleStale))
  case decline =>
    exact fun e => congrArg _ (State.complete_eq_answered e rfl (State.declineCompletion_of_stale _ idleStale))
  case force =>
    exact fun e => congrArg _ (State.complete_eq_answered e rfl (State.forceCompletion_of_stale _ idleStale))

end Sys2Proof.Machine
end

section
/-! PROOFS. Event queues: what a posting does at each queue, and that it touches nothing else (chapter 8, R151). -/

namespace Sys2Proof.Machine

/-! ## One queue -/

theorem ClientPort.post_of_room (e : Event) {c : ClientPort} (room : c.events.length < 16) :
    c.post e = { c with events := c.events ++ [e] } := if_pos room

theorem ClientPort.post_of_full (e : Event) {c : ClientPort} (full : 16 ≤ c.events.length) :
    c.post e = { c with lost := min 255 (c.lost + 1) } := if_neg (Nat.not_lt.mpr full)

/-! ## The part outside its ports -/

/-- Where no port is being reset, a posting is a posting at its one queue (R151, R188). -/
theorem State.post_none_eq_modPort (stamp : Word) (body : EventBody) (p : Port) (s : State) :
    s.post none stamp body p = s.modPort p (ClientPort.post ⟨stamp, body⟩) :=
  if_neg (Option.some_ne_none p).symm

theorem State.post_frame (mute : Option Port) (stamp : Word) (body : EventBody) (p : Port) (s : State) :
    s.post mute stamp body p = { s with ports := (s.post mute stamp body p).ports } := by
  unfold State.post; split <;> rfl

theorem State.postEach_cons (mute : Option Port) (stamp : Word) (body : EventBody) (p : Port) (ps : List Port)
    (s : State) : s.postEach mute stamp body (p :: ps) = (s.post mute stamp body p).postEach mute stamp body ps := rfl

theorem State.postEach_frame (mute : Option Port) (stamp : Word) (body : EventBody) (ps : List Port) (s : State) :
    s.postEach mute stamp body ps = { s with ports := (s.postEach mute stamp body ps).ports } := by
  induction ps generalizing s with
  | nil => rfl
  | cons p ps ih => rw [State.postEach_cons, ih, State.post_frame]

theorem State.postNotices_frame (mute : Option Port) (stamp : Word) (body : EventBody) (s : State) :
    s.postNotices mute stamp body = { s with ports := (s.postNotices mute stamp body).ports } := rfl

/-- Settles O43: the stated rule is what a posting does at one queue; the list of ports and the notice ports then follow
port by port. -/
theorem postingJoinsOrIsLost : Obligations.PostingJoinsOrIsLost := by
  unfold Obligations.PostingJoinsOrIsLost
  intro stamp body s joined
  have joined_eq : joined = ClientPort.post ⟨stamp, body⟩ := by
    funext c
    rcases Nat.lt_or_ge c.events.length 16 with room | full
    · exact (if_pos room).trans (ClientPort.post_of_room _ room).symm
    · exact (if_neg (Nat.not_lt.mpr full)).trans (ClientPort.post_of_full _ full).symm
  rw [joined_eq]
  refine ⟨?onePort, ?listedPorts, ?noticePorts⟩
  case onePort => exact fun p => State.post_none_eq_modPort stamp body p s
  case listedPorts =>
    intro ps nodup
    refine ⟨_, State.postEach_frame none stamp body ps s, fun q => ?_⟩
    simpa using State.postEach_ports none stamp body ps q s nodup
  case noticePorts =>
    refine ⟨_, State.postNotices_frame none stamp body s, fun q => ?_⟩
    simpa using State.postNotices_ports none stamp body q s

end Sys2Proof.Machine
end

section
/-! PROOFS. What a command can do, said once: the whole changes it makes to the map, the records, the contexts, the Wait List and the
engine's work, and all else that it leaves to the ports, the Watch Units, the frame timing and the parameters. The statements about
every step are derived from this. -/

namespace Sys2Proof.Machine

open Relation (ReflTransGen)

/-! ## Changes that no invariant of the map, the records, the contexts and the Wait List sees -/

/-- The work in hand is kept, up to its withdrawal, or dropped. -/
def Work.KeptAs (w w' : Work) : Prop :=
  w' = w ∨ w' = .idle ∨ ∃ c b, w = .command c ∧ w' = .command { c with withdrawn := b }

theorem Work.KeptAs.trans {u v w : Work} (h : u.KeptAs v) (g : v.KeptAs w) : u.KeptAs w := by
  rcases g with rfl | rfl | ⟨c, b, rfl, rfl⟩
  · exact h
  · exact .inr (.inl rfl)
  · rcases h with rfl | h | ⟨d, b', rfl, e⟩
    · exact .inr (.inr ⟨c, b, rfl, rfl⟩)
    · cases h
    · cases e
      exact .inr (.inr ⟨d, b, rfl, rfl⟩)

theorem Work.withdraw_keptAs (p : Port) (w : Work) : w.KeptAs (w.withdraw p) := by
  cases w with
  | idle => exact .inl rfl
  | pass q => exact .inl rfl
  | command c =>
    by_cases h : c.port = p
    · exact .inr (.inr ⟨c, true, rfl, by simp [Work.withdraw, h]⟩)
    · exact .inl (by simp [Work.withdraw, h])

/-- From `s` to `t` the map, the records, the contexts, the Wait List, the holdings and the promotion reports stay, and the work in
hand is kept or dropped. -/
structure State.Quiet (s t : State) : Prop where
  map : t.map = s.map
  records : t.pool.records = s.pool.records
  fifo : t.pool.fifo = s.pool.fifo
  waits : t.waits = s.waits
  moves : t.moves = s.moves
  poolReports : t.reports.pool = s.reports.pool
  moveReports : t.reports.move = s.reports.move
  slots : ∀ p, (t.ports.get p).ownedSlots = (s.ports.get p).ownedSlots
  owned : ∀ p, (t.ports.get p).ownedRecords = (s.ports.get p).ownedRecords
  promised : ∀ p, (t.ports.get p).promised = (s.ports.get p).promised
  work : s.engine.work.KeptAs t.engine.work

theorem State.Quiet.refl (s : State) : s.Quiet s :=
  ⟨rfl, rfl, rfl, rfl, rfl, rfl, rfl, fun _ => rfl, fun _ => rfl, fun _ => rfl, .inl rfl⟩

theorem State.Quiet.trans {s t u : State} (h : s.Quiet t) (g : t.Quiet u) : s.Quiet u where
  map := g.map.trans h.map
  records := g.records.trans h.records
  fifo := g.fifo.trans h.fifo
  waits := g.waits.trans h.waits
  moves := g.moves.trans h.moves
  poolReports := g.poolReports.trans h.poolReports
  moveReports := g.moveReports.trans h.moveReports
  slots p := (g.slots p).trans (h.slots p)
  owned p := (g.owned p).trans (h.owned p)
  promised p := (g.promised p).trans (h.promised p)
  work := h.work.trans g.work

/-- `State.Quiet.trans`, the second change named first. -/
theorem State.Quiet.after {s t u : State} (g : t.Quiet u) (h : s.Quiet t) : s.Quiet u := h.trans g

/-- The holdings and the promised count of a port, the part of it that the invariants of the other blocks read. -/
def ClientPort.SameHoldings (c d : ClientPort) : Prop :=
  d.ownedSlots = c.ownedSlots ∧ d.ownedRecords = c.ownedRecords ∧ d.promised = c.promised

theorem State.quiet_of_ports {s : State} (ports : Table ClientPort 6)
    (h : ∀ p, (s.ports.get p).SameHoldings (ports.get p)) : s.Quiet { s with ports := ports } where
  __ := State.Quiet.refl s
  slots p := (h p).1
  owned p := (h p).2.1
  promised p := (h p).2.2

theorem State.modPort_quiet (p : Port) (f : ClientPort → ClientPort) (s : State)
    (h : ∀ c : ClientPort, c.SameHoldings (f c)) : s.Quiet (s.modPort p f) :=
  State.quiet_of_ports _ fun q => by
    rw [Table.get_modify]
    split
    · exact h _
    · exact ⟨rfl, rfl, rfl⟩

theorem State.quiet_of_others {s t : State} (core : t = { s with ports := t.ports })
    (h : ∀ q, t.ports.get q = { s.ports.get q with
      events := (t.ports.get q).events, lost := (t.ports.get q).lost }) : s.Quiet t := by
  rw [core]
  exact State.quiet_of_ports _ fun q => by rw [h q]; exact ⟨rfl, rfl, rfl⟩

theorem State.setWork_idle_quiet (s : State) : s.Quiet (s.setWork .idle) where
  __ := State.Quiet.refl s
  work := .inr (.inl rfl)

theorem State.requestPass_quiet (s : State) : s.Quiet s.requestPass := { State.Quiet.refl s with }

theorem State.handReport_quiet (r : Report) (s : State) : s.Quiet (s.handReport r) := { State.Quiet.refl s with }

theorem State.moveRover_quiet (place : Placement) (set : List Run) (s : State) : s.Quiet (s.moveRover place set) :=
  { State.Quiet.refl s with }

theorem State.setUnit_quiet (k : UnitIx) (u : Option WatchUnit) (s : State) : s.Quiet (s.setUnit k u) :=
  { State.Quiet.refl s with }

theorem State.answer_quiet (p : Port) (tag : Byte) (status : Status) (body : List Byte) (s : State) :
    s.Quiet (s.answer p tag status body) :=
  State.modPort_quiet p _ s fun c => by rw [ClientPort.answer_eq]; exact ⟨rfl, rfl, rfl⟩

theorem State.post_quiet (mute : Option Port) (stamp : Word) (body : EventBody) (p : Port) (s : State) :
    s.Quiet (s.post mute stamp body p) :=
  State.quiet_of_others (State.post_frame mute stamp body p s) fun q => State.post_others mute stamp body p q s

theorem State.postNotices_quiet (mute : Option Port) (stamp : Word) (body : EventBody) (s : State) :
    s.Quiet (s.postNotices mute stamp body) :=
  State.quiet_of_ports _ fun q => by
    have h := State.postNotices_ports mute stamp body q s
    simp only [State.postNotices] at h
    rw [h]
    split <;> simp [ClientPort.SameHoldings]

theorem State.postEach_quiet (mute : Option Port) (stamp : Word) (body : EventBody) (ps : List Port) (s : State) :
    s.Quiet (s.postEach mute stamp body ps) :=
  State.quiet_of_others (State.postEach_frame mute stamp body ps s) fun q => State.postEach_others mute stamp body ps q s

theorem State.judgeWarning_quiet (s : State) : s.Quiet s.judgeWarning := by
  unfold State.judgeWarning
  split
  · exact ({ State.Quiet.refl s with } : s.Quiet { s with pool := { s.pool with warnArmed := false } }).trans
      (State.postNotices_quiet _ _ _ _)
  · exact .refl s

theorem State.judgeRecovery_quiet (mute : Option Port) (s : State) : s.Quiet (s.judgeRecovery mute) := by
  unfold State.judgeRecovery
  split
  · exact ({ State.Quiet.refl s with } : s.Quiet { s with pool := { s.pool with warnArmed := true } }).trans
      (State.postNotices_quiet _ _ _ _)
  · exact .refl s

theorem State.grantReports_quiet (i : RecIx) (s : State) : s.Quiet (s.grantReports i) :=
  (s.judgeWarning_quiet.trans (State.judgeRecovery_quiet none _)).trans (State.handReport_quiet _ _)

theorem State.takeAllReports_quiet (s : State) : s.Quiet s.takeAllReports where
  map := by simp
  records := by simp
  fifo := by simp
  waits := by simp
  moves := by simp
  poolReports := by simp
  moveReports := by simp
  slots p := by rw [State.takeAllReports_others]
  owned p := by rw [State.takeAllReports_others]
  promised p := by rw [State.takeAllReports_others]
  work := .inl (by simp)

theorem State.takeReport_quiet (r : Report) (s : State) : s.Quiet (s.takeReport r) where
  map := by simp
  records := by simp
  fifo := by simp
  waits := by simp
  moves := by simp
  poolReports := by simp
  moveReports := by simp
  slots p := by rw [State.takeReport_others]
  owned p := by rw [State.takeReport_others]
  promised p := by rw [State.takeReport_others]
  work := .inl (by simp)

/-! ## The whole changes -/

/-- The fields of a new move context and of its record, and the slots of its target, whole (R6, R35, R108); what follows them in
RELOCATE only tells of the move. -/
def State.beginMove (k : CtxIx) (c : MoveContext) (owned : Bool) (s : State) : State :=
  ((s.setMove k (some c)).claim none (targetSlot c.index c.target owned)).modReservation c.index fun r =>
    { r with state := .moving, context := some k }

/-- The stage of a move after one frame of waiting, with the same start (R112). -/
def Stage.CountsTo (a b : Stage) : Prop :=
  (∃ n m, a = .offered n ∧ b = .offered m) ∨ ∃ n m o, a = .overlap n o ∧ b = .overlap m o

/-- One whole change that a command makes, a grant, the Slot Map's reaction and a power-on apart. -/
inductive State.Act : State → State → Prop
  | quiet {s t} : s.Quiet t → State.Act s t
  /-- The engine takes a command that passes its checks (R47, R51). -/
  | begins {s} (c : Command) : s.answerAtTaking c.port c.req = none → c.scan = s.beginScan c.req →
      State.Act s (s.setWork (.command c))
  /-- The search in hand reads a slot (R52). -/
  | reads {s} (c : Command) (sc : Scan) : s.engine.work = .command c → c.scan = some sc →
      State.Act s (s.setWork (.command { c with scan := some (sc.readNext s.map.isFree) }))
  /-- A pass begins (R68). -/
  | beginsPass {s} (todo : List Byte) (rover : Nat) : State.Act s (s.setWork (.pass ⟨todo, none, [], rover⟩))
  /-- A pass goes on by one reading (R68). -/
  | advances {s} (p : Pass) : s.engine.work = .pass p → State.Act s (s.setWork (.pass (s.advancePass p)))
  /-- RELOCATE is granted (R108). -/
  | relocates {s} (c : Command) (q : RelocateArgs) (k : CtxIx) (i : RecIx) (a : Reservation) (set : List Run) :
      s.engine.work = .command c → c.req = .relocate q → s.Names q.handle i a → a.state = .live →
      s.moves.get k = none → (s.setWork .idle).searchResult c (q.search (setTotal a.set)) = some set →
      State.Act s ((s.setWork .idle).beginMove k
        ⟨i, q.handle.gen, some (c.port, c.tag), (s.setWork .idle).firstStage (decide (a.owner = c.port)), set⟩
        (decide (a.owner = c.port)))
  /-- A record is released, whatever the cause (R36). -/
  | releases {s} (i : RecIx) (a : Reservation) (cause : Cause) (releasing : Option Port) :
      s.reservation i = some a → State.Act s (s.releaseRecord i cause releasing)
  /-- An offered move is abandoned (R117). -/
  | abandons {s} (k : CtxIx) (c : MoveContext) (reason : Reason) (stamp : Word) (mute : Option Port) :
      s.moves.get k = some c → c.isOffered = true → State.Act s (s.abandonMove k reason stamp mute)
  /-- An offered move is confirmed (R110). -/
  | arms {s} (k : CtxIx) (c : MoveContext) : s.moves.get k = some c → c.isOffered = true →
      State.Act s ((s.setMove k (some { c with stage := .armed })).claim none (armSlot c.target))
  /-- A move waits one frame more (R112). -/
  | counts {s} (k : CtxIx) (c : MoveContext) (stage : Stage) : s.moves.get k = some c → c.stage.CountsTo stage →
      State.Act s (s.setMove k (some { c with stage := stage }))
  /-- A move is cut over (R116). -/
  | cutsOver {s} (k : CtxIx) (c : MoveContext) (n : Nat) (o m : Word) : s.moves.get k = some c →
      c.stage = .overlap n o → State.Act s (s.cutoverMove k c m)
  /-- The requester of moves is dropped (R121). -/
  | drops {s} (p : Port) : State.Act s (s.dropRequester p)
  /-- The bar claim, by a free engine (R11). -/
  | bars {s} (r : Run) : s.engine.work = .idle → State.Act s (s.claim none (barSlot r))
  /-- The unbar claim (R13). -/
  | unbars {s} (r : Run) : State.Act s (s.claim none (unbarSlot r))
  /-- A lease is renewed or counted (R40, R95). -/
  | leases {s} (i : RecIx) (l : Option Lease) : State.Act s (s.modReservation i fun r => { r with lease := l })
  /-- A wait entry is made (R71, R72). -/
  | enters {s} (a : ReserveArgs) (p : Port) (limit : Nat) : s.waits.hasRoom p = true →
      State.Act s (s.makeEntry (waitEntryOf a p s.waits.nextTicket limit))
  /-- A wait entry leaves (R82). -/
  | leaves {s} (e : WaitEntry) : e ∈ s.waits.entries → State.Act s (s.removeEntry e)
  /-- The entries of a port leave (R83). -/
  | leavesAll {s} (p : Port) : State.Act s (s.removePortEntries p)
  /-- The Wait List counts its limits (R79). -/
  | countsWaits {s} (m : Word) : State.Act s (s.waitReaction m)
  /-- The Record Pool takes a promotion report (R34). -/
  | promotes {s} : State.Act s s.poolTakeReport
  /-- The Move Unit takes a promotion report (R114). -/
  | overlaps {s} : State.Act s s.moveTakeReport

/-- Whole changes one after the other. -/
abbrev State.Acts : State → State → Prop := ReflTransGen State.Act

/-- A predicate that every whole change keeps is kept by a run of them. -/
theorem State.Acts.keeps {P : State → Prop} (h : ∀ s t, State.Act s t → P s → P t) {s t : State} (a : s.Acts t)
    (hs : P s) : P t := by
  induction a with
  | refl => exact hs
  | tail _ b ih => exact h _ _ b ih

theorem State.Quiet.acts {s t : State} (h : s.Quiet t) : s.Acts t := .single (.quiet h)

theorem State.Acts.after {s t u : State} (g : t.Acts u) (h : s.Quiet t) : s.Acts u := h.acts.trans g

theorem State.Act.acts {s t : State} (h : State.Act s t) : s.Acts t := .single h

/-- What a command can do: whole changes, also after the Slot Map's reaction, or grants, or a power-on where `power` allows it. -/
inductive State.DoesWhere (power : Prop) : State → State → Prop
  | acts {s t} : s.Acts t → State.DoesWhere power s t
  | afterMap {s t} : s.mapTakeMark.Acts t → State.DoesWhere power s t
  /-- RESERVE is granted (R59). -/
  | reserves {s t} (c : Command) (a : ReserveArgs) (i : RecIx) (rest : List RecIx) (set : List Run) :
      s.engine.work = .command c → c.req = .reserve a → s.pool.fifo = i :: rest →
      (s.setWork .idle).searchResult c a.search = some set →
      State.Quiet ((s.setWork .idle).grant i rest c.port a.cls set a.lease none a.search.place) t → State.DoesWhere power s t
  /-- A pass grants its trials (R77). -/
  | completes {s} (p : Pass) : s.engine.work = .pass p → State.DoesWhere power s (s.completePass p)
  | powers {s} (low : Bool) (right : Nat → Bool) : power → State.DoesWhere power s (s.powerOn low right)

/-- What a command can do, a power-on among it. -/
abbrev State.Does : State → State → Prop := State.DoesWhere True

theorem State.Quiet.does {power : Prop} {s t : State} (h : s.Quiet t) : State.DoesWhere power s t := .acts h.acts

/-- A fold of operations that are each made of whole changes is made of whole changes. -/
theorem State.foldl_acts {α : Type} (f : State → α → State) (h : ∀ (s : State) a, s.Acts (f s a)) (l : List α) (s : State) :
    s.Acts (l.foldl f s) := by
  induction l generalizing s with
  | nil => exact .refl
  | cons a l ih => exact (h s a).trans (ih _)

end Sys2Proof.Machine
end

section
/-! PROOFS. Every command taken apart into the whole changes it is made of (`State.Does`). -/

namespace Sys2Proof.Machine

open Relation (ReflTransGen)

/-! ## Parts of commands -/

theorem State.contextOf_eq_some {a : Reservation} {k : CtxIx} {c : MoveContext} {s : State} :
    s.contextOf a = some (k, c) ↔ a.state = .moving ∧ a.context = some k ∧ s.moves.get k = some c := by
  unfold State.contextOf
  cases a.state <;> cases a.context <;> simp
  constructor
  · rintro ⟨h, rfl⟩; exact ⟨rfl, h⟩
  · rintro ⟨rfl, h⟩; exact ⟨h, rfl⟩

theorem State.reservation_of_lookup {h : Handle} {i : RecIx} {a : Reservation} {s : State}
    (n : s.lookup h = some (i, a)) : s.reservation i = some a :=
  (State.names_of_lookup n).2.1

theorem State.releaseRecord_acts (i : RecIx) (cause : Cause) (releasing : Option Port) (s : State) :
    s.Acts (s.releaseRecord i cause releasing) := by
  cases h : s.reservation i with
  | none => rw [State.releaseRecord_none i cause releasing s h]
  | some a => exact (State.Act.releases i a cause releasing h).acts

theorem State.resetRecord_acts (p : Port) (policy : ResetPolicy) (s : State) (i : RecIx) :
    s.Acts (s.resetRecord p policy i) := by
  unfold State.resetRecord
  split
  · cases policy with
    | reclaim => exact State.releaseRecord_acts i .reset (some p) s
    | retain =>
      dsimp only
      split
      · next k c h =>
        cases hr : s.reservation i with
        | none => simp [hr] at h
        | some a =>
          obtain ⟨-, -, hk⟩ := State.contextOf_eq_some.mp (by simpa [hr] using h)
          cases hs : c.stage with
          | offered n => exact (State.Act.abandons k c .ownerReset s.now (some p) hk (by simp [MoveContext.isOffered, hs])).acts
          | armed => exact .refl
          | overlap n o => exact .refl
      · exact .refl
  · exact .refl

theorem State.resetDealings_acts (p : Port) (s : State) : s.Acts (s.resetDealings p) := by
  have cleared : s.Quiet ((s.modPort p ClientPort.clear).setWork (s.engine.work.withdraw p)) :=
    (State.modPort_quiet p ClientPort.clear s fun _ => by exact ⟨rfl, rfl, rfl⟩).trans
      { State.Quiet.refl (s.modPort p ClientPort.clear) with work := Work.withdraw_keptAs p _ }
  have unitsFreed (u : State) : u.Quiet (u.freePortUnits p) := { State.Quiet.refl u with }
  exact ((cleared.acts.tail (.leavesAll p)).tail (.quiet (unitsFreed _))).trans (State.Act.drops p).acts

theorem State.portReset_acts (p : Port) (s : State) : s.Acts (s.portReset p) :=
  (State.resetDealings_acts p s).trans (State.foldl_acts _ (State.resetRecord_acts p _) _ _)

/-- The contexts of a list that are in use all hold offered moves. -/
def State.OfferedOn (l : List CtxIx) (s : State) : Prop :=
  ∀ k ∈ l, ∀ c, s.moves.get k = some c → c.isOffered = true

theorem State.abandonMove_moves_get (k j : CtxIx) (reason : Reason) (stamp : Word) (mute : Option Port) (s : State) :
    (s.abandonMove k reason stamp mute).moves.get j = if k = j then none else s.moves.get j := by
  cases h : s.moves.get k with
  | none =>
    rw [State.abandonMove_none k reason stamp mute s h]
    split
    · next e => rw [← e, h]
    · rfl
  | some c => rw [State.abandonMove_moves reason stamp mute h, Table.get_set]

theorem State.abandonAll_acts (reason : Reason) (mute : Option Port) (l : List CtxIx) (s : State) (h : s.OfferedOn l) :
    s.Acts (l.foldl (fun t k => t.abandonMove k reason t.now mute) s) := by
  induction l generalizing s with
  | nil => exact .refl
  | cons k l ih =>
    have one : s.Acts (s.abandonMove k reason s.now mute) := by
      cases hk : s.moves.get k with
      | none => rw [State.abandonMove_none k reason s.now mute s hk]
      | some c => exact (State.Act.abandons k c reason s.now mute hk (h k (by simp) c hk)).acts
    refine one.trans (ih _ fun j hj c hc => ?_)
    rw [State.abandonMove_moves_get] at hc
    split at hc
    · cases hc
    · exact h j (List.mem_cons_of_mem _ hj) c hc

theorem State.offersMarked_offered (r : Run) (s : State) : s.OfferedOn (s.offersMarked r) := by
  intro k hk c hc
  simp only [State.offersMarked, List.mem_filter, hc, Bool.and_eq_true] at hk
  exact hk.2.1

theorem State.barRun_acts (r : Run) {s : State} (h : s.engine.work = .idle) : s.Acts (s.barRun r) :=
  (State.Act.bars r h).acts.trans (State.abandonAll_acts _ _ _ _ fun k hk c hc =>
    State.offersMarked_offered r s k hk c (by simpa using hc))

theorem State.countLease_acts (m : Word) (s : State) (i : RecIx) : s.Acts (s.countLease m i) := by
  unfold State.countLease
  split
  · exact .refl
  · split
    · exact .refl
    · next a _ l _ =>
      dsimp only
      generalize hs1 : s.modReservation i _ = s1
      have a1 : s.Acts s1 := hs1 ▸ (State.Act.leases i _).acts
      generalize hs2 : (if l.warns s.params.leaseWarn (l.remaining - 1) = true then _ else s1) = s2
      have a2 : s1.Quiet s2 := by
        rw [← hs2]
        split
        · exact State.post_quiet _ _ _ _ _
        · exact .refl s1
      have a12 := a1.trans a2.acts
      split
      · exact a12.trans (State.releaseRecord_acts i .expiry none s2)
      · exact a12

theorem State.countContext_acts (m : Word) (s : State) (k : CtxIx) : s.Acts (s.countContext m k) := by
  unfold State.countContext
  split
  · exact .refl
  · next c hk =>
    split
    · next n hs =>
      split
      · exact (State.Act.abandons k c .timeout m none hk (by simp [MoveContext.isOffered, hs])).acts
      · exact (State.Act.counts k c _ hk (.inl ⟨n, n - 1, hs, rfl⟩)).acts
    · exact .refl
    · next n o hs =>
      split
      · exact .refl
      · split
        · exact (State.Act.cutsOver k c n o m hk hs).acts
        · exact (State.Act.counts k c _ hk (.inr ⟨n, n - 1, o, hs, rfl⟩)).acts

/-! ## Marks and reports -/

theorem State.leaseTakeMark_acts (s : State) : s.Acts s.leaseTakeMark := by
  unfold State.leaseTakeMark
  split
  · split
    · exact .refl
    · next m rest _ =>
      exact State.Acts.after (State.foldl_acts _ (State.countLease_acts m) _ _) { State.Quiet.refl s with }
  · exact .refl

theorem State.moveTakeMark_acts (s : State) : s.Acts s.moveTakeMark := by
  unfold State.moveTakeMark
  split
  · split
    · exact .refl
    · next m rest _ =>
      exact State.Acts.after (State.foldl_acts _ (State.countContext_acts m) _ _) { State.Quiet.refl s with }
  · exact .refl

theorem State.waitTakeMark_acts (s : State) : s.Acts s.waitTakeMark := by
  unfold State.waitTakeMark
  split
  · split
    · exact .refl
    · next m rest _ => exact State.Acts.after (State.Act.countsWaits m).acts { State.Quiet.refl s with }
  · exact .refl

theorem State.settle_acts (s : State) : s.mapTakeMark.Acts s.settle :=
  ((((State.Act.promotes.acts.tail .overlaps).trans (State.leaseTakeMark_acts _)).trans
    (State.moveTakeMark_acts _)).trans (State.waitTakeMark_acts _))

theorem State.acceptFrame_quiet (s : State) : s.Quiet s.acceptFrame := by
  unfold State.acceptFrame
  dsimp only
  split
  · exact { State.Quiet.refl s with }
  · exact State.Quiet.after (State.postNotices_quiet _ _ _ _) { State.Quiet.refl s with }

theorem State.loseSync_quiet (s : State) : s.Quiet s.loseSync :=
  State.Quiet.after (State.postNotices_quiet _ _ _ _) { State.Quiet.refl s with }

theorem State.takeEdge_acts (s : State) : s.mapTakeMark.Acts s.takeEdge :=
  State.Quiet.acts { State.Quiet.refl _ with }

/-! ## Completions -/

/-- A completion whose effect is made of whole changes is made of whole changes. The effect begins with a free engine. -/
theorem State.complete_acts (pick : Request → Option (Command → State → State))
    (hr : ∀ r run, pick r = some run → ∀ c (s : State), s.engine.work = .idle → s.Acts (run c s)) (s : State) :
    s.Acts (s.complete pick) := by
  have freed := s.setWork_idle_quiet.acts
  rcases State.complete_cases pick s with h | ⟨c, run, -, -, hp, ⟨-, h⟩ | ⟨-, -, h⟩ | ⟨-, -, h⟩⟩ <;> rw [h]
  · exact freed
  · exact freed.trans (State.answer_quiet _ _ _ _ _).acts
  · exact freed.trans (hr _ run hp c _ rfl)

section
variable (c : Command) (s : State)

theorem State.releaseCompletion_acts (h : Handle) : s.Acts (s.releaseCompletion h c) := by
  unfold State.releaseCompletion
  split
  · exact (State.answer_quiet _ _ _ _ _).acts
  · split
    · exact (State.releaseRecord_acts _ _ _ s).trans (State.answer_quiet _ _ _ _ _).acts
    · exact (State.answer_quiet _ _ _ _ _).acts

theorem State.forceCompletion_acts (h : Handle) : s.Acts (s.forceCompletion h c) := by
  unfold State.forceCompletion
  split
  · exact (State.answer_quiet _ _ _ _ _).acts
  · exact (State.releaseRecord_acts _ _ _ s).trans (State.answer_quiet _ _ _ _ _).acts

theorem State.renewCompletion_acts (h : Handle) (length : Nat) : s.Acts (s.renewCompletion h length c) := by
  unfold State.renewCompletion
  split
  · exact (State.answer_quiet _ _ _ _ _).acts
  · split
    · split
      · exact (State.answer_quiet _ _ _ _ _).acts
      · exact (State.Act.leases _ _).acts.trans (State.answer_quiet _ _ _ _ _).acts
    · exact (State.answer_quiet _ _ _ _ _).acts

theorem State.queryCompletion_acts (h : Handle) : s.Acts (s.queryCompletion h c) := by
  unfold State.queryCompletion
  split <;> exact (State.answer_quiet _ _ _ _ _).acts

theorem State.cancelCompletion_acts (ticket : Byte) : s.Acts (s.cancelCompletion ticket c) := by
  unfold State.cancelCompletion
  split
  · exact (State.answer_quiet _ _ _ _ _).acts
  · next e he =>
    split
    · exact (State.Act.leaves e (List.mem_of_find?_eq_some he)).acts.trans (State.answer_quiet _ _ _ _ _).acts
    · exact (State.answer_quiet _ _ _ _ _).acts

/-- An offer that the owner may answer stands in the context it names. -/
theorem State.ownOffer_ok {h : Handle} {p : Port} {k : CtxIx} {m : MoveContext} {s : State}
    (o : s.ownOffer h p = .ok (k, m)) : s.moves.get k = some m ∧ m.isOffered = true := by
  unfold State.ownOffer at o
  split at o
  · cases o
  · split at o
    · split at o
      · cases o
      · next hc =>
        split at o
        · next hm =>
          cases o
          exact ⟨(State.contextOf_eq_some.mp hc).2.2, hm⟩
        · cases o
    · cases o

theorem State.confirmCompletion_acts (h : Handle) : s.Acts (s.confirmCompletion h c) := by
  unfold State.confirmCompletion
  split
  · exact (State.answer_quiet _ _ _ _ _).acts
  · next k m o =>
    obtain ⟨hk, hm⟩ := State.ownOffer_ok o
    exact (State.Act.arms k m hk hm).acts.trans (State.answer_quiet _ _ _ _ _).acts

theorem State.declineCompletion_acts (h : Handle) : s.Acts (s.declineCompletion h c) := by
  unfold State.declineCompletion
  split
  · exact (State.answer_quiet _ _ _ _ _).acts
  · next k m o =>
    obtain ⟨hk, hm⟩ := State.ownOffer_ok o
    exact (State.Act.abandons k m .declined s.now none hk hm).acts.trans (State.answer_quiet _ _ _ _ _).acts

theorem State.setWatchCompletion_acts (a : SetWatchArgs) : s.Acts (s.setWatchCompletion a c) := by
  unfold State.setWatchCompletion
  split
  · exact (State.answer_quiet _ _ _ _ _).acts
  · exact ((s.takeAllReports_quiet.trans (State.setUnit_quiet _ _ _)).trans (State.answer_quiet _ _ _ _ _)).acts

theorem State.clearWatchCompletion_acts (k : UnitIx) : s.Acts (s.clearWatchCompletion k c) := by
  unfold State.clearWatchCompletion
  split
  · exact (State.answer_quiet _ _ _ _ _).acts
  · split
    · exact ((State.setUnit_quiet _ _ _).trans (State.answer_quiet _ _ _ _ _)).acts
    · exact (State.answer_quiet _ _ _ _ _).acts

theorem State.rearmWatchCompletion_acts (k : UnitIx) : s.Acts (s.rearmWatchCompletion k c) := by
  unfold State.rearmWatchCompletion
  split
  · exact (State.answer_quiet _ _ _ _ _).acts
  · split
    · exact (State.answer_quiet _ _ _ _ _).acts
    · split
      · exact (State.answer_quiet _ _ _ _ _).acts
      · exact ((State.setUnit_quiet _ _ _).trans (State.answer_quiet _ _ _ _ _)).acts

theorem State.setParamCompletion_acts (name : ParamName) (v : Nat) : s.Acts (s.setParamCompletion name v c) :=
  State.Quiet.acts (State.Quiet.after (State.answer_quiet _ _ _ _ _) { State.Quiet.refl s with })

theorem State.setPortCompletion_acts (p : Port) (attrs : Attributes) : s.Acts (s.setPortCompletion p attrs c) := by
  have set := State.modPort_quiet p (fun q => { q with attrs := attrs }) s fun _ => by exact ⟨rfl, rfl, rfl⟩
  unfold State.setPortCompletion
  dsimp only
  split
  · exact ((set.trans (State.requestPass_quiet _)).trans (State.answer_quiet _ _ _ _ _)).acts
  · exact (set.trans (State.answer_quiet _ _ _ _ _)).acts

theorem State.resetPortCompletion_acts (p : Port) : s.Acts (s.resetPortCompletion p c) := by
  unfold State.resetPortCompletion
  dsimp only
  split
  · exact (State.portReset_acts p s).trans (State.modPort_quiet _ _ _ fun _ => by exact ⟨rfl, rfl, rfl⟩).acts
  · exact (State.portReset_acts p s).trans (State.answer_quiet _ _ _ _ _).acts

end

/-! ## RESERVE and RELOCATE -/

theorem State.reserveNoRoom_acts (a : ReserveArgs) (c : Command) (s : State) : s.Acts (s.reserveNoRoom a c) := by
  unfold State.reserveNoRoom
  split
  · exact (State.answer_quiet _ _ _ _ _).acts
  · split
    · next room => exact (State.Act.enters a c.port _ room).acts.trans (State.answer_quiet _ _ _ _ _).acts
    · exact (State.answer_quiet _ _ _ _ _).acts

theorem execReserve_does {power : Prop} {s t : State} (h : execReserve s = .next t) :
    State.DoesWhere power s t := by
  cases h
  have freed := s.setWork_idle_quiet
  rcases State.complete_cases _ s with h | ⟨c, run, -, hw, hp, ⟨-, h⟩ | ⟨-, -, h⟩ | ⟨-, -, h⟩⟩ <;> rw [h]
  · exact (State.Quiet.refl s).does
  · exact freed.does
  · exact (freed.trans (State.answer_quiet _ _ _ _ _)).does
  · split at hp
    · next a hc =>
      cases hp
      unfold State.reserveCompletion
      split
      · exact (freed.trans (State.answer_quiet _ _ _ _ _)).does
      · split
        · exact (freed.trans (State.answer_quiet _ _ _ _ _)).does
        · split
          · exact .acts (freed.acts.trans (State.reserveNoRoom_acts a c _))
          · exact (freed.trans (State.answer_quiet _ _ _ _ _)).does
          · next set i rest hset hfifo =>
            exact .reserves c a i rest set hw hc hfifo hset
              ((State.answer_quiet _ _ _ _ _).trans (State.grantReports_quiet _ _))
    · cases hp

theorem State.freeContext_free {k : CtxIx} {s : State} (h : s.freeContext = some k) : s.moves.get k = none := by
  simpa using List.find?_some h

theorem execRelocate_does {power : Prop} {s t : State} (h : execRelocate s = .next t) :
    State.DoesWhere power s t := by
  cases h
  have freed := s.setWork_idle_quiet
  rcases State.complete_cases _ s with h | ⟨c, run, -, hw, hp, ⟨-, h⟩ | ⟨-, -, h⟩ | ⟨-, -, h⟩⟩ <;> rw [h]
  · exact (State.Quiet.refl s).does
  · exact freed.does
  · exact (freed.trans (State.answer_quiet _ _ _ _ _)).does
  · split at hp
    · next q hc =>
      cases hp
      unfold State.relocateCompletion
      split
      · exact (freed.trans (State.answer_quiet _ _ _ _ _)).does
      · next i a hn =>
        split
        · exact (freed.trans (State.answer_quiet _ _ _ _ _)).does
        · split
          · exact (freed.trans (State.answer_quiet _ _ _ _ _)).does
          · next live =>
            split
            · exact (freed.trans (State.answer_quiet _ _ _ _ _)).does
            · next k hk =>
              split
              · exact (freed.trans (State.answer_quiet _ _ _ _ _)).does
              · next set hset =>
                refine .acts ((State.Act.relocates c q k i a set hw hc (State.names_of_lookup hn)
                  (Decidable.not_not.mp live) (State.freeContext_free hk) hset).acts.trans (State.Quiet.acts ?_))
                refine ((State.Quiet.trans ?_ (State.answer_quiet _ _ _ _ _))).trans (State.handReport_quiet _ _)
                split
                · exact State.moveRover_quiet _ _ _
                · exact (State.moveRover_quiet _ _ _).trans (State.post_quiet _ _ _ _ _)
    · cases hp

/-! ## The engine, the links and the ports -/

theorem ClientPort.markTaken_sameHoldings (c : ClientPort) : c.SameHoldings c.markTaken := by
  unfold ClientPort.markTaken
  split <;> exact ⟨rfl, rfl, rfl⟩

theorem State.takeCommand_acts (p : Port) (q : QueuedCommand) (s : State) : s.Acts (s.takeCommand p q) := by
  unfold State.takeCommand
  dsimp only
  have marked : s.Quiet (State.modPort p ClientPort.markTaken { s with engine := { s.engine with rrPos := p } }) :=
    State.Quiet.after (State.modPort_quiet _ _ _ ClientPort.markTaken_sameHoldings) { State.Quiet.refl s with }
  split
  · exact (marked.trans (State.answer_quiet _ _ _ _ _)).acts
  · split
    · exact (marked.trans (State.answer_quiet _ _ _ _ _)).acts
    · next h => exact marked.acts.tail (.begins _ h rfl)

theorem execEngineTakeCommand_does {power : Prop} {s t : State} (h : execEngineTakeCommand s = .next t) :
    State.DoesWhere power s t := by
  cases h
  split
  · exact (State.Quiet.refl s).does
  · unfold State.engineTake
    split
    · exact (State.Quiet.refl s).does
    · split
      · exact (State.Quiet.refl s).does
      · exact .acts (State.takeCommand_acts _ _ s)

theorem ClientPort.refuse_sameHoldings (tag : Byte) (status : Status) (body : List Byte) (c : ClientPort) :
    c.SameHoldings (c.refuse tag status body) := by
  unfold ClientPort.refuse
  split <;> exact ⟨rfl, rfl, rfl⟩

theorem ClientPort.judgeFrame_sameHoldings (bytes : List Byte) (extra : Nat) (c : ClientPort) :
    c.SameHoldings (c.judgeFrame bytes extra) := by
  unfold ClientPort.judgeFrame
  split
  · exact ClientPort.refuse_sameHoldings _ _ _ c.countFault
  · split
    · unfold ClientPort.accept
      split
      · exact ClientPort.refuse_sameHoldings _ _ _ { c with lastFaulted := false }
      · split
        · exact ClientPort.refuse_sameHoldings _ _ _ { c with lastFaulted := false }
        · exact ⟨rfl, rfl, rfl⟩
    all_goals exact ⟨rfl, rfl, rfl⟩

theorem State.startTransfer_quiet (p : Port) (s : State) : s.Quiet (s.startTransfer p) :=
  State.modPort_quiet p _ s fun c => by
    split
    · exact ⟨rfl, rfl, rfl⟩
    · split <;> exact ⟨rfl, rfl, rfl⟩

theorem State.endTransfer_quiet (p : Port) (judge : ClientPort → ClientPort)
    (h : ∀ c : ClientPort, c.SameHoldings (judge c)) (s : State) : s.Quiet (s.endTransfer p judge) :=
  State.modPort_quiet p _ s fun c => by
    split
    · exact ⟨rfl, rfl, rfl⟩
    · split
      · exact h c
      · exact h c
      · exact ⟨rfl, rfl, rfl⟩
      · exact ⟨rfl, rfl, rfl⟩

theorem State.chooseResponse_quiet (p : Port) (s : State) : s.Quiet (s.chooseResponse p) := by
  unfold State.chooseResponse
  split
  · exact .refl s
  · exact State.modPort_quiet p _ s fun c => by split <;> exact ⟨rfl, rfl, rfl⟩

theorem ClientPort.endCollect_sameHoldings (edges : Nat) (c : ClientPort) : c.SameHoldings (c.endCollect edges) := by
  unfold ClientPort.endCollect
  split
  · split
    · exact ⟨rfl, rfl, rfl⟩
    · split
      · unfold ClientPort.removeOldest
        split <;> exact ⟨rfl, rfl, rfl⟩
      · exact ⟨rfl, rfl, rfl⟩
  · split <;> exact ⟨rfl, rfl, rfl⟩
  · exact ⟨rfl, rfl, rfl⟩
  · exact ⟨rfl, rfl, rfl⟩

/-- A port-local answer made of whole changes is made of whole changes. -/
theorem State.answerLocal_acts (p : Port) (code : Byte) (run : QueuedCommand → State → State)
    (hr : ∀ q (s : State), s.Acts (run q s)) (s : State) : s.Acts (s.answerLocal p code run) := by
  rcases State.answerLocal_cases p code run s with h | ⟨q, rest, -, -, -, h⟩ <;> rw [h]
  exact hr q s

theorem State.fetchAnswer_acts (p : Port) (q : QueuedCommand) (s : State) : s.Acts (s.fetchAnswer p q) := by
  unfold State.fetchAnswer
  split
  · exact (State.answer_quiet _ _ _ _ _).acts
  · exact ((State.modPort_quiet p _ s fun _ => by exact ⟨rfl, rfl, rfl⟩).trans (State.answer_quiet _ _ _ _ _)).acts

theorem State.statusAnswer_acts (p : Port) (q : QueuedCommand) (s : State) : s.Acts (s.statusAnswer p q) := by
  unfold State.statusAnswer
  split <;> exact (State.answer_quiet _ _ _ _ _).acts

theorem State.selfResetAnswer_acts (p : Port) (q : QueuedCommand) (s : State) : s.Acts (s.selfResetAnswer p q) := by
  unfold State.selfResetAnswer
  split
  · exact (State.portReset_acts p s).trans (State.modPort_quiet _ _ _ fun _ => by exact ⟨rfl, rfl, rfl⟩).acts
  · exact (State.answer_quiet _ _ _ _ _).acts

theorem State.beginPass_acts (s : State) : s.Acts s.beginPass := by
  unfold State.beginPass
  dsimp only
  have cleared : s.Quiet { s with engine := { s.engine with waitReq := false } } := { State.Quiet.refl s with }
  split
  · exact cleared.acts
  · exact cleared.acts.tail (.beginsPass _ _)

theorem State.idleStep_acts (s : State) : s.Acts s.idleStep := by
  unfold State.idleStep
  split
  · exact .refl
  · next c hw =>
    split
    · next sc hs => exact (State.Act.reads c sc hw hs).acts
    · exact .refl
  · next p hw => exact (State.Act.advances p hw).acts

/-! ## Every command -/

/-- A completion with a reading of one request alone: what its effect is made of says what the completion is made of. -/
theorem State.complete_does {power : Prop} {pick : Request → Option (Command → State → State)} {s t : State}
    (h : Host.Outcome.next (φ := Fault) (ρ := Refusal) (s.complete pick) = .next t)
    (hr : ∀ r run, pick r = some run → ∀ c (s : State), s.engine.work = .idle → s.Acts (run c s)) :
    State.DoesWhere power s t := by
  cases h
  exact .acts (State.complete_acts pick hr s)

theorem State.takesReport_does {power : Prop} {s t : State} {b : Bool} {u : State} (h : Host.Outcome.next (φ := Fault)
    (ρ := Refusal) (if b then s else u) = .next t) (a : State.DoesWhere power s u) : State.DoesWhere power s t := by
  cases h
  split
  · exact (State.Quiet.refl s).does
  · exact a

theorem State.mapTakeMark_does {power : Prop} (s : State) : State.DoesWhere power s s.mapTakeMark := .afterMap .refl

/-- What a command does, a power-on only where it is one of the two that make it (R143, R189). -/
theorem exec_doesWhere {power : Prop} {c : Instr} {s t : State} (h : exec c s = .next t) (on : c = .powerOnReset → power)
    (released : ∀ straps, c = .resetRelease straps → power) : State.DoesWhere power s t := by
  cases c with
  | powerOnReset => cases h; exact .powers _ _ (on rfl)
  | resetRelease straps =>
    cases h
    split
    · exact .powers _ _ (released straps rfl)
    · exact (State.Quiet.refl s).does
  | transferStart p => cases h; exact (State.startTransfer_quiet p s).does
  | faultedTransfer p b =>
    cases h
    split
    · exact (State.Quiet.refl s).does
    · exact (State.endTransfer_quiet p _ (fun _ => by exact ⟨rfl, rfl, rfl⟩) s).does
  | commandTransfer p octets rest =>
    cases h
    split
    · exact (State.Quiet.refl s).does
    · exact (State.endTransfer_quiet p _ (ClientPort.judgeFrame_sameHoldings _ _) s).does
  | collectChoice p => cases h; exact (State.chooseResponse_quiet p s).does
  | collectEnd p edges =>
    cases h
    split
    · exact (State.modPort_quiet p _ s fun _ => by exact ⟨rfl, rfl, rfl⟩).does
    · exact (State.modPort_quiet p _ s (ClientPort.endCollect_sameHoldings edges)).does
  | engineTakeCommand => exact execEngineTakeCommand_does h
  | reserve => exact execReserve_does h
  | relocate => exact execRelocate_does h
  | release =>
    refine State.complete_does h fun r run hp c s _ => ?_
    split at hp <;> cases hp
    exact State.releaseCompletion_acts c s _
  | renew =>
    refine State.complete_does h fun r run hp c s _ => ?_
    split at hp <;> cases hp
    exact State.renewCompletion_acts c s _ _
  | queryReservation =>
    refine State.complete_does h fun r run hp c s _ => ?_
    split at hp <;> cases hp
    exact State.queryCompletion_acts c s _
  | listOwned =>
    refine State.complete_does h fun r run hp c s _ => ?_
    split at hp <;> cases hp
    exact (State.answer_quiet _ _ _ _ _).acts
  | readMap =>
    refine State.complete_does h fun r run hp c s _ => ?_
    split at hp <;> cases hp
    exact (State.answer_quiet _ _ _ _ _).acts
  | cancelWait =>
    refine State.complete_does h fun r run hp c s _ => ?_
    split at hp <;> cases hp
    exact State.cancelCompletion_acts c s _
  | confirmMove =>
    refine State.complete_does h fun r run hp c s _ => ?_
    split at hp <;> cases hp
    exact State.confirmCompletion_acts c s _
  | declineMove =>
    refine State.complete_does h fun r run hp c s _ => ?_
    split at hp <;> cases hp
    exact State.declineCompletion_acts c s _
  | setWatch =>
    refine State.complete_does h fun r run hp c s _ => ?_
    split at hp <;> cases hp
    exact State.setWatchCompletion_acts c s _
  | clearWatch =>
    refine State.complete_does h fun r run hp c s _ => ?_
    split at hp <;> cases hp
    exact State.clearWatchCompletion_acts c s _
  | rearmWatch =>
    refine State.complete_does h fun r run hp c s _ => ?_
    split at hp <;> cases hp
    exact State.rearmWatchCompletion_acts c s _
  | bar =>
    refine State.complete_does h fun r run hp c s idle => ?_
    split at hp <;> cases hp
    exact (State.barRun_acts _ idle).trans (State.answer_quiet _ _ _ _ _).acts
  | unbar =>
    refine State.complete_does h fun r run hp c s _ => ?_
    split at hp <;> cases hp
    exact (State.Act.unbars _).acts.trans
      ((State.requestPass_quiet _).trans (State.answer_quiet _ _ _ _ _)).acts
  | forceRelease =>
    refine State.complete_does h fun r run hp c s _ => ?_
    split at hp <;> cases hp
    exact State.forceCompletion_acts c s _
  | setParam =>
    refine State.complete_does h fun r run hp c s _ => ?_
    split at hp <;> cases hp
    exact State.setParamCompletion_acts c s _ _
  | setPort =>
    refine State.complete_does h fun r run hp c s _ => ?_
    split at hp <;> cases hp
    exact State.setPortCompletion_acts c s _ _
  | resetPort =>
    refine State.complete_does h fun r run hp c s _ => ?_
    split at hp <;> cases hp
    exact State.resetPortCompletion_acts c s _
  | readParams =>
    refine State.complete_does h fun r run hp c s _ => ?_
    split at hp <;> cases hp
    exact (State.answer_quiet _ _ _ _ _).acts
  | fetchEvents p => cases h; exact .acts (State.answerLocal_acts p _ _ (State.fetchAnswer_acts p) s)
  | readStatus p => cases h; exact .acts (State.answerLocal_acts p _ _ (State.statusAnswer_acts p) s)
  | selfReset p => cases h; exact .acts (State.answerLocal_acts p _ _ (State.selfResetAnswer_acts p) s)
  | echo p =>
    cases h
    exact .acts (State.answerLocal_acts p _ _ (fun q s => (State.answer_quiet _ _ _ _ _).acts) s)
  | waitPassBegin => exact State.takesReport_does h (.acts s.beginPass_acts)
  | waitPassCompletion =>
    refine State.takesReport_does h ?_
    split
    · next p hp => exact .completes p hp
    · exact (State.Quiet.refl s).does
    · exact (State.Quiet.refl s).does
  | frameStart => exact State.takesReport_does h (.afterMap (s.settle_acts.trans (State.acceptFrame_quiet _).acts))
  | syncWatchTimeout =>
    cases h
    split
    · exact .afterMap (s.settle_acts.trans (State.loseSync_quiet _).acts)
    · exact (State.Quiet.refl s).does
  | slotEdge => exact State.takesReport_does h (.afterMap s.takeEdge_acts)
  | slotMapFrameReaction => cases h; exact s.mapTakeMark_does
  | drainComplete j =>
    cases h
    split
    · exact s.mapTakeMark_does
    · exact (State.Quiet.refl s).does
  | promotionReportPool => exact State.takesReport_does h (.acts State.Act.promotes.acts)
  | promotionReportMove => exact State.takesReport_does h (.acts State.Act.overlaps.acts)
  | leaseCounterReaction => cases h; exact .acts s.leaseTakeMark_acts
  | leaseExpiry i =>
    cases h
    split
    · exact .acts s.leaseTakeMark_acts
    · exact (State.Quiet.refl s).does
  | moveUnitFrameReaction => cases h; exact .acts s.moveTakeMark_acts
  | confirmTimeout k =>
    cases h
    split
    · exact .acts s.moveTakeMark_acts
    · exact (State.Quiet.refl s).does
  | cutover k =>
    cases h
    split
    · exact .acts s.moveTakeMark_acts
    · exact (State.Quiet.refl s).does
  | waitListFrameReaction => cases h; exact .acts s.waitTakeMark_acts
  | waitExpiry ticket =>
    cases h
    split
    · exact .acts s.waitTakeMark_acts
    · exact (State.Quiet.refl s).does
  | watchReport =>
    refine State.takesReport_does h ?_
    split
    · exact State.Quiet.does (State.Quiet.after (State.takeReport_quiet _ _) { State.Quiet.refl s with })
    · exact (State.Quiet.refl s).does
    · exact (State.Quiet.refl s).does
  | recordReport =>
    refine State.takesReport_does h ?_
    split
    · exact State.Quiet.does (State.Quiet.after (State.takeReport_quiet _ _) { State.Quiet.refl s with })
    · exact (State.Quiet.refl s).does
    · exact (State.Quiet.refl s).does

theorem exec_does {c : Instr} {s t : State} (h : exec c s = .next t) : s.Does t :=
  exec_doesWhere h (fun _ => trivial) fun _ _ => trivial

/-- A step does no more than a command, or a reading, does to the state with the command taken off the queue. -/
theorem step_does {s t : State} (h : step s = .next t) :
    s.Does t ∨ ∃ rest, State.Does { s with pending := rest } t := by
  unfold step at h
  split at h
  · cases h
    exact .inl (.acts s.idleStep_acts)
  · next c rest _ => exact .inr ⟨rest, exec_does h⟩

/-- An invariant that a command's changes keep is kept by every step, where it does not read the queue of commands. -/
theorem step_keeps {P : State → Prop} (queue : ∀ s rest, P s → P { s with pending := rest })
    (h : ∀ s t : State, s.Does t → P s → P t) {s t : State} (hs : P s) (e : step s = .next t) : P t := by
  rcases step_does e with d | ⟨rest, d⟩
  · exact h s t d hs
  · exact h _ t d (queue s rest hs)

end Sys2Proof.Machine
end

section
/-! PROOFS. What the whole changes do to the map, the records, the contexts, the Wait List and the holdings, field by field. -/

namespace Sys2Proof.Machine

/-! ## A new move and a cutover -/

section
variable (k : CtxIx) (c : MoveContext) (owned : Bool) (s : State)

@[simp] theorem State.beginMove_map : (s.beginMove k c owned).map = s.map.rewrite (targetSlot c.index c.target owned) := by
  simp [State.beginMove]

@[simp] theorem State.beginMove_pool : (s.beginMove k c owned).pool = { s.pool with
    records := s.pool.records.modify c.index fun r =>
      { r with alloc := r.alloc.map fun a => { a with state := .moving, context := some k } } } := by
  simp [State.beginMove]

@[simp] theorem State.beginMove_moves : (s.beginMove k c owned).moves = s.moves.set k (some c) := by
  simp [State.beginMove]

@[simp] theorem State.beginMove_waits : (s.beginMove k c owned).waits = s.waits := by simp [State.beginMove]

@[simp] theorem State.beginMove_ports : (s.beginMove k c owned).ports = s.ports := by
  have h : completedBars ((s.setMove k (some c)).map.changes (targetSlot c.index c.target owned)) = [] :=
    targetSlot_no_bar _ _ _ _
  simp [State.beginMove, State.claim_ports_of_no_bar none _ _ h]

@[simp] theorem State.beginMove_engine : (s.beginMove k c owned).engine = s.engine := by
  simp [State.beginMove, targetSlot_no_free]

@[simp] theorem State.beginMove_reports_pool : (s.beginMove k c owned).reports.pool = s.reports.pool := by
  simp [State.beginMove]

@[simp] theorem State.beginMove_reports_move : (s.beginMove k c owned).reports.move = s.reports.move := by
  simp [State.beginMove]

end

/-- A cutover of a context whose record is free only frees the context. -/
theorem State.cutoverMove_of_none {k : CtxIx} {c : MoveContext} {m : Word} {s : State}
    (h : s.reservation c.index = none) : s.cutoverMove k c m = s.setMove k none := by
  simp only [State.cutoverMove, h]

section
variable {k : CtxIx} {c : MoveContext} {m : Word} {a : Reservation} {s : State} (h : s.reservation c.index = some a)
include h

theorem State.cutoverMove_map : (s.cutoverMove k c m).map =
    (s.map.addCarry ⟨m, a.owner, a.set⟩).rewrite (cutoverSlot s.params.guard a.set c.target) := by
  simp [State.cutoverMove, h]

theorem State.cutoverMove_pool : (s.cutoverMove k c m).pool = { s.pool with
    records := s.pool.records.modify c.index fun r => { r with alloc := r.alloc.map fun b =>
      { b with state := .live, context := none, set := c.target } } } := by
  simp [State.cutoverMove, h]

theorem State.cutoverMove_moves : (s.cutoverMove k c m).moves = s.moves.set k none := by
  simp [State.cutoverMove, h]

end

@[simp] theorem SlotMap.addCarry_entries (e : CarryEntry) (map : SlotMap) : (map.addCarry e).entries = map.entries := by
  unfold SlotMap.addCarry; split <;> rfl

@[simp] theorem SlotMap.addCarry_freeCount (e : CarryEntry) (map : SlotMap) :
    (map.addCarry e).freeCount = map.freeCount := by
  unfold SlotMap.addCarry; split <;> rfl

@[simp] theorem SlotMap.addCarry_barredCount (e : CarryEntry) (map : SlotMap) :
    (map.addCarry e).barredCount = map.barredCount := by
  unfold SlotMap.addCarry; split <;> rfl

@[simp] theorem SlotMap.addCarry_drainingCount (e : CarryEntry) (map : SlotMap) :
    (map.addCarry e).drainingCount = map.drainingCount := by
  unfold SlotMap.addCarry; split <;> rfl

@[simp] theorem SlotMap.addCarry_image (e : CarryEntry) (map : SlotMap) : (map.addCarry e).image = map.image := by
  unfold SlotMap.addCarry; split <;> rfl

@[simp] theorem SlotMap.addCarry_imageMark (e : CarryEntry) (map : SlotMap) :
    (map.addCarry e).imageMark = map.imageMark := by
  unfold SlotMap.addCarry; split <;> rfl

theorem SlotMap.addCarry_countOf (e : CarryEntry) (st : SlotState) (map : SlotMap) :
    (map.addCarry e).countOf st = map.countOf st := by
  simp [SlotMap.countOf]

/-- A cutover changes no port but by postings. -/
theorem State.cutoverMove_others (k : CtxIx) (c : MoveContext) (m : Word) (q : Port) (s : State) :
    (s.cutoverMove k c m).ports.get q = { s.ports.get q with
      events := ((s.cutoverMove k c m).ports.get q).events
      lost := ((s.cutoverMove k c m).ports.get q).lost } := by
  cases h : s.reservation c.index with
  | none => rw [State.cutoverMove_of_none h]; rfl
  | some a =>
    simp only [State.cutoverMove, h, State.handReport_ports]
    rw [State.postEach_others]
    simp only [State.setMove_ports, State.modReservation_ports]
    rw [State.claim_ports_of_no_bar _ _ _ (cutoverSlot_no_bar _ _ _ _)]

@[simp] theorem State.cutoverMove_engine (k : CtxIx) (c : MoveContext) (m : Word) (s : State) :
    (s.cutoverMove k c m).engine = s.engine := by
  cases h : s.reservation c.index with
  | none => rw [State.cutoverMove_of_none h]; rfl
  | some a => simp [State.cutoverMove, h, cutoverSlot_no_free]

theorem State.cutoverMove_reports (k : CtxIx) (c : MoveContext) (m : Word) (s : State) :
    (s.cutoverMove k c m).reports = { s.reports with watch := (s.cutoverMove k c m).reports.watch } := by
  cases h : s.reservation c.index with
  | none => rw [State.cutoverMove_of_none h]; rfl
  | some a => simp [State.cutoverMove, h]

/-! ## Claims that leave the work and the reports of promotions -/

@[simp] theorem State.claim_work (mute : Option Port) (f : Nat → Slot → Slot) (s : State) :
    (s.claim mute f).engine.work = s.engine.work := by simp

@[simp] theorem State.claim_reports_pool (mute : Option Port) (f : Nat → Slot → Slot) (s : State) :
    (s.claim mute f).reports.pool = s.reports.pool := by simp

@[simp] theorem State.claim_reports_move (mute : Option Port) (f : Nat → Slot → Slot) (s : State) :
    (s.claim mute f).reports.move = s.reports.move := by simp

theorem State.claim_sameHoldings (mute : Option Port) (f : Nat → Slot → Slot) (s : State) (p : Port) :
    (s.ports.get p).SameHoldings ((s.claim mute f).ports.get p) := by
  rw [State.claim_others]
  exact ⟨rfl, rfl, rfl⟩

/-! ## Wait entries -/

section
variable (e : WaitEntry) (s : State)

@[simp] theorem State.makeEntry_map : (s.makeEntry e).map = s.map := rfl
@[simp] theorem State.makeEntry_pool : (s.makeEntry e).pool = s.pool := rfl
@[simp] theorem State.makeEntry_engine : (s.makeEntry e).engine = s.engine := rfl
@[simp] theorem State.makeEntry_moves : (s.makeEntry e).moves = s.moves := rfl
@[simp] theorem State.makeEntry_reports : (s.makeEntry e).reports = s.reports := rfl
@[simp] theorem State.makeEntry_timing : (s.makeEntry e).timing = s.timing := rfl
@[simp] theorem State.makeEntry_marks : (s.makeEntry e).marks = s.marks := rfl
@[simp] theorem State.makeEntry_waits : (s.makeEntry e).waits = ⟨s.waits.entries ++ [e], e.ticket⟩ := rfl
@[simp] theorem State.makeEntry_ports : (s.makeEntry e).ports =
    s.ports.modify e.port fun c => { c with promised := c.promised + e.search.n } := rfl

end

/-- An expiry changes no port but by a posting and the promised count. -/
theorem State.expireEntry_others (m : Word) (s : State) (e : WaitEntry) (q : Port) :
    (s.expireEntry m e).ports.get q = { s.ports.get q with
      events := ((s.expireEntry m e).ports.get q).events
      lost := ((s.expireEntry m e).ports.get q).lost
      promised := if e.port = q then (s.ports.get q).promised - e.search.n else (s.ports.get q).promised } := by
  simp only [State.expireEntry]
  rw [State.post_others, State.removeEntry_ports, Table.get_modify]
  split <;> rfl

@[simp] theorem State.expireEntry_waits (m : Word) (s : State) (e : WaitEntry) :
    (s.expireEntry m e).waits =
      { s.waits with entries := s.waits.entries.filter fun x => x.ticket ≠ e.ticket } := by
  simp [State.expireEntry]

@[simp] theorem State.expireEntry_work (m : Word) (s : State) (e : WaitEntry) :
    (s.expireEntry m e).engine.work = s.engine.work := by
  simp [State.expireEntry]

@[simp] theorem State.waitReaction_work (m : Word) (s : State) : (s.waitReaction m).engine.work = s.engine.work := by
  unfold State.waitReaction
  exact State.foldl_keeps (State.expireEntry m) (fun u => u.engine.work) (State.expireEntry_work m) _ _

/-- The Wait List's reaction leaves the owned slots and records of every port. -/
theorem State.waitReaction_owned (m : Word) (s : State) (p : Port) :
    ((s.waitReaction m).ports.get p).ownedSlots = (s.ports.get p).ownedSlots ∧
      ((s.waitReaction m).ports.get p).ownedRecords = (s.ports.get p).ownedRecords := by
  have h := State.foldl_keeps (State.expireEntry m)
    (fun u => ((u.ports.get p).ownedSlots, (u.ports.get p).ownedRecords))
    (fun u e => by rw [State.expireEntry_others]) (serviceOrder ((s.waits.entries.map WaitEntry.counted).filter
      fun e => e.remaining = some 0)) { s with waits := { s.waits with entries := s.waits.entries.map WaitEntry.counted } }
  exact ⟨congrArg Prod.fst h, congrArg Prod.snd h⟩

/-! ## Promotion reports at the Record Pool and at the Move Unit -/

theorem State.promoteRecord_others (m : Word) (s : State) (e : RecIx × Role) (q : Port) :
    (s.promoteRecord m e).ports.get q = { s.ports.get q with
      events := ((s.promoteRecord m e).ports.get q).events
      lost := ((s.promoteRecord m e).ports.get q).lost } := by
  unfold State.promoteRecord
  split
  · rfl
  · split
    · rfl
    · dsimp only
      split
      · simp only [State.handReport_ports]
        rw [State.post_others]
        rfl
      · rfl

theorem State.poolTakeReport_others (s : State) (q : Port) :
    s.poolTakeReport.ports.get q = { s.ports.get q with
      events := (s.poolTakeReport.ports.get q).events, lost := (s.poolTakeReport.ports.get q).lost } := by
  cases h : s.reports.pool with
  | nil => rw [State.poolTakeReport_of_none h]
  | cons r rest =>
    rw [State.poolTakeReport_of_cons h]
    exact State.foldl_others _ q (fun u e => State.promoteRecord_others r.mark u e q) _ _

theorem State.startOverlap_others (m : Word) (s : State) (e : RecIx × Role) (q : Port) :
    (s.startOverlap m e).ports.get q = { s.ports.get q with
      events := ((s.startOverlap m e).ports.get q).events
      lost := ((s.startOverlap m e).ports.get q).lost } := by
  unfold State.startOverlap
  split
  · rfl
  · split
    · rfl
    · rw [State.postEach_others]
      rfl

theorem State.moveTakeReport_others (s : State) (q : Port) :
    s.moveTakeReport.ports.get q = { s.ports.get q with
      events := (s.moveTakeReport.ports.get q).events, lost := (s.moveTakeReport.ports.get q).lost } := by
  cases h : s.reports.move with
  | nil => rw [State.moveTakeReport_of_none h]
  | cons r rest =>
    rw [State.moveTakeReport_of_cons h]
    exact State.foldl_others _ q (fun u e => State.startOverlap_others r.mark u e q) _ _

/-- What the Record Pool makes of a promotion: the listed PENDING record goes LIVE, but where its grant is of the report's frame
(R34). -/
theorem State.promoteRecord_records (m : Word) (s : State) (e : RecIx × Role) (i : RecIx) :
    (s.promoteRecord m e).pool.records.get i = { s.pool.records.get i with
      alloc := (s.pool.records.get i).alloc.map fun a =>
        if e = (i, .current) ∧ a.state = .pending ∧ a.grantFrame ≠ m then { a with state := .live } else a } := by
  obtain ⟨j, role⟩ := e
  cases role with
  | target =>
    have same : (fun a : Reservation => if (j, Role.target) = (i, Role.current) ∧ a.state = .pending ∧ a.grantFrame ≠ m
        then { a with state := .live } else a) = id := by
      funext a; simp
    simp [State.promoteRecord]
  | current =>
    by_cases hij : j = i
    · subst hij
      cases hr : s.reservation j with
      | none =>
        have hr' : (s.pool.records.get j).alloc = none := hr
        have e : s.promoteRecord m (j, .current) = s := by simp [State.promoteRecord, hr]
        rw [e]
        cases hj : s.pool.records.get j
        simp_all
      | some a =>
        have hr' : (s.pool.records.get j).alloc = some a := hr
        by_cases hp : a.state = .pending ∧ a.grantFrame ≠ m
        · simp [State.promoteRecord, hr, hp, hr']
        · have e : s.promoteRecord m (j, .current) = s := by simp only [State.promoteRecord, hr, if_neg hp]
          rw [e, hr']
          simp only [true_and, Option.map_some, if_neg hp]
          rw [← hr']
    · have same : (s.promoteRecord m (j, .current)).pool.records.get i = s.pool.records.get i := by
        unfold State.promoteRecord
        dsimp only
        split
        · rfl
        · split
          · simp [Table.get_modify_ne _ _ hij]
          · rfl
      simp [same, hij]

/-- A promotion changes of the pool no more than records. -/
theorem State.promoteRecord_pool (m : Word) (s : State) (e : RecIx × Role) :
    (s.promoteRecord m e).pool = { s.pool with records := (s.promoteRecord m e).pool.records } := by
  unfold State.promoteRecord
  split
  · rfl
  · split
    · rfl
    · dsimp only
      split
      · simp
      · rfl

theorem State.poolTakeReport_fifo (s : State) : s.poolTakeReport.pool.fifo = s.pool.fifo := by
  cases hp : s.reports.pool with
  | nil => rw [State.poolTakeReport_of_none hp]
  | cons r rest =>
    rw [State.poolTakeReport_of_cons hp]
    exact State.foldl_keeps _ (fun u => u.pool.fifo) (fun u e => by rw [State.promoteRecord_pool]) _ _

theorem State.poolTakeReport_moveReports (s : State) : s.poolTakeReport.reports.move = s.reports.move := by
  cases hp : s.reports.pool with
  | nil => rw [State.poolTakeReport_of_none hp]
  | cons r rest =>
    rw [State.poolTakeReport_of_cons hp]
    exact State.foldl_keeps _ (fun u => u.reports.move) (fun u e => by
      unfold State.promoteRecord
      split
      · rfl
      · split
        · rfl
        · dsimp only
          split <;> simp) _ _

/-- A context but for its stage. -/
def MoveContext.bare (c : MoveContext) : MoveContext := { c with stage := .armed }

theorem State.armedContext_some {i : RecIx} {k : CtxIx} {c : MoveContext} {s : State}
    (h : s.armedContext i = some (k, c)) : s.moves.get k = some c ∧ c.index = i ∧ c.stage = .armed := by
  obtain ⟨j, -, hj⟩ := List.exists_of_findSome?_eq_some h
  obtain ⟨d, hd, e⟩ := Option.bind_eq_some_iff.mp hj
  split at e
  · next hi =>
    cases e
    exact ⟨hd, hi⟩
  · cases e

theorem State.startOverlap_bare (m : Word) (s : State) (e : RecIx × Role) (k : CtxIx) :
    ((s.startOverlap m e).moves.get k).map MoveContext.bare = (s.moves.get k).map MoveContext.bare := by
  unfold State.startOverlap
  split
  · rfl
  · split
    · rfl
    · next j c h =>
      obtain ⟨hj, -, -⟩ := State.armedContext_some h
      simp only [State.postEach_moves, State.setMove_moves, Table.get_set]
      split
      · next e => subst e; simp [hj, MoveContext.bare]
      · rfl

/-- A promotion report at the Move Unit changes of a context no more than its stage (R114). -/
theorem State.moveTakeReport_bare (s : State) (k : CtxIx) :
    (s.moveTakeReport.moves.get k).map MoveContext.bare = (s.moves.get k).map MoveContext.bare := by
  cases h : s.reports.move with
  | nil => rw [State.moveTakeReport_of_none h]
  | cons r rest =>
    rw [State.moveTakeReport_of_cons h]
    exact State.foldl_keeps _ (fun u => (u.moves.get k).map MoveContext.bare)
      (fun u e => State.startOverlap_bare r.mark u e k) _ _

/-! ## The invariant of the counts -/

theorem State.CountsAgree.of_map {s t : State} (h : s.CountsAgree) (e : t.map = s.map) : t.CountsAgree := by
  unfold State.CountsAgree
  rw [e]
  exact h

theorem State.CountsAgree.of_rewrite {s t : State} (h : s.CountsAgree) {f : Nat → Slot → Slot}
    (e : t.map = s.map.rewrite f) : t.CountsAgree := by
  unfold State.CountsAgree
  rw [e]
  exact SlotMap.rewrite_counts f h

theorem State.cutoverMove_countsAgree {s : State} (h : s.CountsAgree) (k : CtxIx) (c : MoveContext) (m : Word) :
    (s.cutoverMove k c m).CountsAgree := by
  cases hr : s.reservation c.index with
  | none => exact h.of_map (by rw [State.cutoverMove_of_none hr]; rfl)
  | some a =>
    have carried : State.CountsAgree { s with map := s.map.addCarry ⟨m, a.owner, a.set⟩ } := by
      simpa [State.CountsAgree, SlotMap.addCarry_countOf] using h
    exact carried.of_rewrite (State.cutoverMove_map hr)

theorem State.grantTrial_countsAgree (s : State) (x : Trial) (h : s.CountsAgree) : (s.grantTrial x).CountsAgree := by
  unfold State.grantTrial
  split
  · exact h
  · split
    · split
      · exact h
      · next i rest _ => exact h.of_rewrite (f := grantSlot i x.set) (by simp [State.grantEntry])
    · exact h

theorem State.latchMap_countsAgree {s : State} (h : s.CountsAgree) (m : Word) :
    State.CountsAgree { s with map := s.latchMap m } :=
  SlotMap.rewrite_counts (markSlot (s.map.carried m)) h

theorem State.mapTakeMark_countsAgree {s : State} (h : s.CountsAgree) : s.mapTakeMark.CountsAgree := by
  unfold State.mapTakeMark
  split
  · split
    · exact h
    · next m rest _ =>
      have g : State.CountsAgree { s with marks := { s.marks with slotMap := rest } } := h
      exact (State.latchMap_countsAgree g m).of_map (by simp)
  · exact h

theorem State.Act.keeps_counts {s t : State} (a : State.Act s t) (h : s.CountsAgree) : t.CountsAgree := by
  cases a with
  | quiet q => exact h.of_map q.map
  | begins | reads | beginsPass | advances | counts | drops | leases | enters | leaves => exact h
  | leavesAll => exact h.of_map (by simp)
  | countsWaits => exact h.of_map (by simp)
  | promotes => exact h.of_map (by simp)
  | overlaps => exact h.of_map (by simp)
  | relocates => exact h.of_rewrite (State.beginMove_map _ _ _ _)
  | releases i a cause releasing hi => exact h.of_rewrite (State.releaseRecord_map cause releasing hi)
  | abandons k c reason stamp mute hk _ => exact h.of_rewrite (State.abandonMove_map reason stamp mute hk)
  | arms => exact h.of_rewrite (State.claim_map _ _ _)
  | cutsOver k c n o m _ _ => exact State.cutoverMove_countsAgree h k c m
  | bars => exact h.of_rewrite (State.claim_map _ _ _)
  | unbars => exact h.of_rewrite (State.claim_map _ _ _)

theorem State.foldl_invariant {α : Type} {P : State → Prop} (f : State → α → State) (h : ∀ s a, P s → P (f s a))
    (l : List α) {s : State} (hs : P s) : P (l.foldl f s) := by
  induction l generalizing s with
  | nil => exact hs
  | cons a l ih => exact ih (h s a hs)

theorem SlotMap.countOf_eq (st : SlotState) (map : SlotMap) :
    map.countOf st = (List.finRange 512).countP fun i => decide ((map.entries.get i).state = st) :=
  Table.countP_toList map.entries _

theorem SlotMap.reset_entries (i : SlotIx) : SlotMap.reset.entries.get i = .free := Table.get_replicate _ i

theorem State.powerOn_countsAgree (low : Bool) (right : Nat → Bool) (s : State) : (s.powerOn low right).CountsAgree := by
  have h (st : SlotState) : SlotMap.reset.countOf st = if st = .free then 512 else 0 := by
    rw [SlotMap.countOf_eq]
    simp only [SlotMap.reset_entries]
    cases st <;> simp [Slot.state]
  refine ⟨?_, ?_, ?_⟩
  · exact (h .free).symm
  · exact (h .barred).symm
  · exact (h .draining).symm

theorem State.Does.keeps_counts {s t : State} (d : s.Does t) (h : s.CountsAgree) : t.CountsAgree := by
  cases d with
  | acts a => exact a.keeps (fun _ _ a => a.keeps_counts) h
  | afterMap a => exact a.keeps (fun _ _ a => a.keeps_counts) (State.mapTakeMark_countsAgree h)
  | reserves c a i rest set _ _ _ _ q => exact h.of_rewrite (f := grantSlot i set) (q.map.trans (by simp))
  | completes p _ => exact State.foldl_invariant _ State.grantTrial_countsAgree _ h
  | powers low right => exact State.powerOn_countsAgree low right s

/-- Settles O52: every change of the map is a claim or the Slot Map's reaction, and each moves the counts by the slots it moves. -/
theorem countsStayExact : Obligations.CountsStayExact := by
  unfold Obligations.CountsStayExact
  intro s t h e
  exact step_keeps (fun _ _ h => h) (fun _ _ d => d.keeps_counts) h e

end Sys2Proof.Machine
end

section
/-! PROOFS. The Wait List: its limits, its tickets and the promised counts, under every step, and its reaction to a mark
(chapter 4, R69, R71, R73, R79, R80, O59, O30). -/

namespace Sys2Proof.Machine

/-! ## Lists of entries -/

/-- The counts of a port's entries in a list, added up (R73). -/
def promisedIn (p : Port) (es : List WaitEntry) : Nat :=
  ((es.filter fun e => e.port = p).map fun e => e.search.n).sum

theorem WaitList.promisedTo_eq (p : Port) (w : WaitList) : w.promisedTo p = promisedIn p w.entries := rfl

theorem promisedIn_perm (p : Port) {es fs : List WaitEntry} (h : es.Perm fs) : promisedIn p es = promisedIn p fs :=
  ((h.filter _).map _).sum_eq

theorem promisedIn_append (p : Port) (es fs : List WaitEntry) :
    promisedIn p (es ++ fs) = promisedIn p es + promisedIn p fs := by
  simp [promisedIn]

theorem promisedIn_cons (p : Port) (e : WaitEntry) (es : List WaitEntry) :
    promisedIn p (e :: es) = (if e.port = p then e.search.n else 0) + promisedIn p es := by
  unfold promisedIn
  by_cases h : e.port = p <;> simp [h]

/-- Where tickets are distinct, taking an entry's ticket out takes out that entry alone. -/
theorem perm_cons_filter_ticket {es : List WaitEntry} {e : WaitEntry} (nodup : (es.map WaitEntry.ticket).Nodup)
    (he : e ∈ es) : es.Perm (e :: es.filter fun x => x.ticket ≠ e.ticket) := by
  induction es with
  | nil => cases he
  | cons x xs ih =>
    obtain ⟨hx, hxs⟩ := List.nodup_cons.mp nodup
    rcases List.mem_cons.mp he with rfl | he
    · have rest : xs.filter (fun x => x.ticket ≠ e.ticket) = xs :=
        List.filter_eq_self.mpr fun y hy => decide_eq_true fun t => hx (t ▸ List.mem_map_of_mem hy)
      rw [List.filter_cons_of_neg (by simp), rest]
    · have ne : x.ticket ≠ e.ticket := fun t => hx (t ▸ List.mem_map_of_mem he)
      rw [List.filter_cons_of_pos (by simpa using ne)]
      exact ((ih hxs he).cons x).trans (List.Perm.swap e x _)

theorem serviceOrder_perm (es : List WaitEntry) : (serviceOrder es).Perm es := by
  induction es with
  | nil => rfl
  | cons e es ih =>
    refine List.Perm.trans ?_ (ih.cons e)
    unfold serviceOrder
    cases h : e.cls with
    | urgent => simp [h]
    | normal =>
      simp only [List.filter_cons, h]
      simp
    | bulk =>
      simp only [List.filter_cons, h]
      simp only [reduceCtorEq, decide_false, Bool.false_eq_true, ↓reduceIte, decide_true]
      exact List.perm_middle

theorem eq_of_ticket_eq {es : List WaitEntry} {x y : WaitEntry} (nodup : (es.map WaitEntry.ticket).Nodup)
    (hx : x ∈ es) (hy : y ∈ es) (h : x.ticket = y.ticket) : x = y :=
  List.inj_on_of_nodup_map nodup hx hy h

/-! ## The reaction to a mark -/

/-- The entries that expire at a mark, in service order (R80). -/
def WaitList.expiring (w : WaitList) : List WaitEntry :=
  serviceOrder ((w.entries.map WaitEntry.counted).filter fun e => e.remaining = some 0)

theorem State.waitReaction_eq (m : Word) (s : State) : s.waitReaction m =
    s.waits.expiring.foldl (State.expireEntry m)
      { s with waits := { s.waits with entries := s.waits.entries.map WaitEntry.counted } } := rfl

theorem State.foldl_expireEntry_waits (m : Word) (gone : List WaitEntry) (s : State) :
    (gone.foldl (State.expireEntry m) s).waits =
      { s.waits with entries := s.waits.entries.filter fun x => gone.all fun e => x.ticket ≠ e.ticket } := by
  induction gone generalizing s with
  | nil => simp
  | cons e gone ih =>
    have both : (fun x : WaitEntry => (gone.all fun e => x.ticket ≠ e.ticket) && decide (x.ticket ≠ e.ticket)) =
        fun x => (e :: gone).all fun e => x.ticket ≠ e.ticket := by
      funext x
      rw [List.all_cons, Bool.and_comm]
    rw [List.foldl_cons, ih, State.expireEntry_waits, List.filter_filter, both]

theorem State.foldl_expireEntry_promised (m : Word) (gone : List WaitEntry) (s : State) (p : Port) :
    ((gone.foldl (State.expireEntry m) s).ports.get p).promised = (s.ports.get p).promised - promisedIn p gone := by
  induction gone generalizing s with
  | nil => simp [promisedIn]
  | cons e gone ih =>
    rw [List.foldl_cons, ih, State.expireEntry_others, promisedIn_cons]
    dsimp only
    split <;> omega

theorem map_ticket_counted (es : List WaitEntry) :
    (es.map WaitEntry.counted).map WaitEntry.ticket = es.map WaitEntry.ticket := by
  simp [WaitEntry.counted, Function.comp_def]

theorem promisedIn_counted (p : Port) (es : List WaitEntry) :
    promisedIn p (es.map WaitEntry.counted) = promisedIn p es := by
  induction es with
  | nil => rfl
  | cons e es ih =>
    rw [List.map_cons, promisedIn_cons, promisedIn_cons, ih]
    rfl

/-- The entries after the reaction: those counted that have frames left, or no limit (R79, R80). -/
theorem State.waitReaction_waits (m : Word) {s : State} (nodup : (s.waits.entries.map WaitEntry.ticket).Nodup) :
    (s.waitReaction m).waits = { s.waits with
      entries := (s.waits.entries.map WaitEntry.counted).filter fun e => e.remaining ≠ some 0 } := by
  rw [State.waitReaction_eq, State.foldl_expireEntry_waits]
  refine congrArg (fun es => WaitList.mk es s.waits.lastTicket) (List.filter_congr fun x hx => ?_)
  have nodup' : ((s.waits.entries.map WaitEntry.counted).map WaitEntry.ticket).Nodup := by rwa [map_ticket_counted]
  rw [Bool.eq_iff_iff]
  simp only [List.all_eq_true, decide_eq_true_eq, WaitList.expiring, (serviceOrder_perm _).mem_iff, List.mem_filter]
  constructor
  · exact fun h e => h x ⟨hx, e⟩ rfl
  · rintro h y ⟨hy, e⟩ t
    exact h (eq_of_ticket_eq nodup' hx hy t ▸ e)

theorem State.waitReaction_promised (m : Word) (s : State) (p : Port) :
    ((s.waitReaction m).ports.get p).promised = (s.ports.get p).promised - promisedIn p s.waits.expiring :=
  State.foldl_expireEntry_promised m _ _ p

/-! ## The invariant -/

theorem State.WaitsAgree.congr {s t : State} (h : s.WaitsAgree) (w : t.waits = s.waits)
    (e : ∀ p, (t.ports.get p).promised = (s.ports.get p).promised) : t.WaitsAgree := by
  simpa only [State.WaitsAgree, w, e] using h

/-- Entries taken out of the list keep the invariant where the promised counts fall with them. -/
theorem State.WaitsAgree.of_filter {s t : State} (h : s.WaitsAgree) (keep : WaitEntry → Bool)
    (w : t.waits.entries = s.waits.entries.filter keep)
    (e : ∀ p, (t.ports.get p).promised = promisedIn p (s.waits.entries.filter keep)) : t.WaitsAgree := by
  obtain ⟨len, perPort, nodup, limits, -⟩ := h
  have sub : (s.waits.entries.filter keep).Sublist s.waits.entries := List.filter_sublist
  refine ⟨?_, fun p => ?_, ?_, fun x hx => ?_, fun p => ?_⟩
  · rw [w]; exact sub.length_le.trans len
  · rw [w]; exact (sub.countP_le).trans (perPort p)
  · rw [w]; exact (sub.map _).nodup nodup
  · rw [w] at hx; exact limits x (sub.subset hx)
  · rw [e, WaitList.promisedTo_eq, w]

/-- An entry that leaves takes its count out of the promised count of its port. -/
theorem State.WaitsAgree.removed {s t : State} (h : s.WaitsAgree) {e : WaitEntry} (he : e ∈ s.waits.entries)
    (w : t.waits.entries = s.waits.entries.filter fun x => x.ticket ≠ e.ticket)
    (pr : ∀ p, (t.ports.get p).promised =
      (s.ports.get p).promised - if e.port = p then e.search.n else 0) : t.WaitsAgree := by
  obtain ⟨-, -, nodup, -, sums⟩ := id h
  refine h.of_filter _ w fun p => ?_
  have split := promisedIn_perm p (perm_cons_filter_ticket nodup he)
  rw [promisedIn_cons] at split
  rw [pr, sums, WaitList.promisedTo_eq, split]
  omega

theorem State.makeEntry_waitsAgree {s : State} (h : s.WaitsAgree) (a : ReserveArgs) (p : Port) (limit : Nat)
    (room : s.waits.hasRoom p = true) : (s.makeEntry (waitEntryOf a p s.waits.nextTicket limit)).WaitsAgree := by
  obtain ⟨len, perPort, nodup, limits, sums⟩ := h
  simp only [WaitList.hasRoom, Bool.and_eq_true, decide_eq_true_eq] at room
  obtain ⟨(roomAll : _ < 24), (roomPort : _ < 8)⟩ := room
  have fresh := WaitList.nextTicket_free s.waits (by omega)
  refine ⟨?_, fun q => ?_, ?_, fun e he => ?_, fun q => ?_⟩
  · simp [Config.waitEntries]; omega
  · have := perPort q
    simp only [State.makeEntry_waits, List.countP_append, List.countP_cons, List.countP_nil, waitEntryOf,
      Config.waitEntriesPerPort] at this ⊢
    by_cases hq : p = q
    · subst hq; simp; omega
    · simp [hq]; omega
  · simp only [State.makeEntry_waits, List.map_append, List.map_cons, List.map_nil, waitEntryOf]
    exact List.nodup_append.mpr ⟨nodup, by simp, fun x hx y hy => by
      rw [List.mem_singleton] at hy
      rintro rfl
      exact fresh (hy ▸ hx)⟩
  · simp only [State.makeEntry_waits, List.mem_append, List.mem_singleton] at he
    rcases he with he | rfl
    · exact limits e he
    · simp only [waitEntryOf]
      split
      · simp
      · next n => simpa using n
  · have sum := sums q
    rw [WaitList.promisedTo_eq] at sum ⊢
    rw [State.makeEntry_waits, State.makeEntry_ports, promisedIn_append, promisedIn_cons, Table.get_modify, ← sum]
    split <;> simp [promisedIn]

theorem State.removePortEntries_waitsAgree {s : State} (h : s.WaitsAgree) (p : Port) :
    (s.removePortEntries p).WaitsAgree := by
  obtain ⟨-, -, -, -, sums⟩ := id h
  refine h.of_filter (fun e => e.port ≠ p) (by simp) fun q => ?_
  rw [State.removePortEntries_ports, Table.get_modify]
  unfold promisedIn
  rw [List.filter_filter]
  split
  · next e =>
    subst e
    simp
  · next ne =>
    rw [sums, WaitList.promisedTo_eq, promisedIn]
    congr 3
    funext e
    rw [Bool.eq_iff_iff]
    simp only [Bool.and_eq_true, decide_eq_true_eq]
    exact ⟨fun h => ⟨h, fun e' => ne (e' ▸ h)⟩, And.left⟩

theorem State.waitReaction_waitsAgree {s : State} (h : s.WaitsAgree) (m : Word) : (s.waitReaction m).WaitsAgree := by
  obtain ⟨len, perPort, nodup, -, sums⟩ := h
  have nodup' : ((s.waits.entries.map WaitEntry.counted).map WaitEntry.ticket).Nodup := by rwa [map_ticket_counted]
  have w : (s.waitReaction m).waits.entries =
      (s.waits.entries.map WaitEntry.counted).filter fun e => e.remaining ≠ some 0 := by
    rw [State.waitReaction_waits m nodup]
  have sub : (s.waitReaction m).waits.entries.Sublist (s.waits.entries.map WaitEntry.counted) := w ▸ List.filter_sublist
  refine ⟨?_, fun p => ?_, (sub.map _).nodup nodup', fun x hx => ?_, fun p => ?_⟩
  · exact sub.length_le.trans (by simpa using len)
  · refine (sub.countP_le).trans ?_
    rw [List.countP_map]
    exact perPort p
  · rw [w] at hx
    simpa using (List.mem_filter.mp hx).2
  · have parts := promisedIn_perm p (List.filter_append_perm (fun e => e.remaining = some 0)
      (s.waits.entries.map WaitEntry.counted))
    have gone := promisedIn_perm p (serviceOrder_perm ((s.waits.entries.map WaitEntry.counted).filter
      fun e => e.remaining = some 0))
    rw [promisedIn_append, promisedIn_counted] at parts
    rw [State.waitReaction_promised, sums, WaitList.promisedTo_eq, WaitList.promisedTo_eq, w, WaitList.expiring, gone, ← parts]
    simp

theorem State.grantTrial_waitsAgree (s : State) (x : Trial) (h : s.WaitsAgree) : (s.grantTrial x).WaitsAgree := by
  unfold State.grantTrial
  split
  · exact h
  · next e he =>
    split
    · split
      · exact h
      · next i rest _ =>
        refine h.removed (List.mem_of_find?_eq_some he) (by simp [State.grantEntry]) fun p => ?_
        simp only [State.grantEntry]
        rw [State.grantReports_others, State.post_others, State.removeEntry_ports, State.grant_ports,
          Table.get_modify, Table.get_modify]
        by_cases hp : e.port = p <;> simp [hp]
    · exact h

theorem State.Act.keeps_waits {s t : State} (a : State.Act s t) (h : s.WaitsAgree) : t.WaitsAgree := by
  cases a with
  | quiet q => exact h.congr q.waits q.promised
  | begins | reads | beginsPass | advances | counts | drops | leases => exact h
  | relocates => exact h.congr (by simp) fun p => by simp
  | releases i a cause releasing hi =>
    exact h.congr (by simp) fun p => by rw [State.releaseRecord_others p cause releasing hi]
  | abandons k c reason stamp mute _ _ => exact h.congr (by simp) fun p => by rw [State.abandonMove_others]
  | arms => exact h.congr (by simp) fun p => by rw [State.claim_others]; rfl
  | cutsOver => exact h.congr (by simp) fun p => by rw [State.cutoverMove_others]
  | bars => exact h.congr (by simp) fun p => by rw [State.claim_others]
  | unbars => exact h.congr (by simp) fun p => by rw [State.claim_others]
  | enters a p limit room => exact State.makeEntry_waitsAgree h a p limit room
  | leaves e he =>
    refine h.removed he rfl fun p => ?_
    rw [State.removeEntry_ports, Table.get_modify]
    split <;> rfl
  | leavesAll p => exact State.removePortEntries_waitsAgree h p
  | countsWaits m => exact State.waitReaction_waitsAgree h m
  | promotes => exact h.congr (by simp) fun p => by rw [State.poolTakeReport_others]
  | overlaps => exact h.congr (by simp) fun p => by rw [State.moveTakeReport_others]

theorem State.mapTakeMark_others (s : State) (q : Port) :
    s.mapTakeMark.ports.get q = { s.ports.get q with
      events := (s.mapTakeMark.ports.get q).events, lost := (s.mapTakeMark.ports.get q).lost } := by
  unfold State.mapTakeMark
  split
  · split
    · rfl
    · rw [State.mapReaction_others]
  · rfl

theorem State.powerOn_ports (low : Bool) (right : Nat → Bool) (s : State) (p : Port) :
    (s.powerOn low right).ports.get p = ClientPort.reset (s.ports.get p).link.underReset (right p) := by
  simp [State.powerOn]

theorem State.powerOn_waitsAgree (low : Bool) (right : Nat → Bool) (s : State) : (s.powerOn low right).WaitsAgree := by
  refine ⟨by simp [State.powerOn, WaitList.reset], fun p => by simp [State.powerOn, WaitList.reset],
    by simp [State.powerOn, WaitList.reset], fun e he => by simp [State.powerOn, WaitList.reset] at he, fun p => ?_⟩
  rw [State.powerOn_ports]
  rfl

theorem State.Does.keeps_waits {s t : State} (d : s.Does t) (h : s.WaitsAgree) : t.WaitsAgree := by
  cases d with
  | acts a => exact a.keeps (fun _ _ a => a.keeps_waits) h
  | afterMap a =>
    refine a.keeps (fun _ _ a => a.keeps_waits) (h.congr (by simp) fun p => by rw [State.mapTakeMark_others])
  | reserves c a i rest set _ _ _ _ q =>
    refine State.WaitsAgree.congr h (q.waits.trans (by simp)) fun p => (q.promised p).trans ?_
    rw [State.grant_ports, Table.get_modify]
    split <;> rfl
  | completes p _ => exact State.foldl_invariant _ State.grantTrial_waitsAgree _ h
  | powers low right => exact State.powerOn_waitsAgree low right s

/-- Settles O59: entries are made, leave one by one or by port, or are counted, and each of these keeps the promised counts. -/
theorem waitListStaysExact : Obligations.WaitListStaysExact := by
  unfold Obligations.WaitListStaysExact
  intro s t h e
  exact step_keeps (fun _ _ h => h) (fun _ _ d => d.keeps_waits) h e

end Sys2Proof.Machine
end

section
/-! PROOFS. The Record Pool and the move contexts under every step: the FIFO and the owned records (R28, R33, O53 first part), records
in MOVING and contexts in use (R104, O60). -/

namespace Sys2Proof.Machine

/-! ## Sums over the records -/

/-- A sum changes with its one changed term. -/
theorem sum_add_of_eq_off {n : Nat} {f g : Fin n → Nat} {i : Fin n} (h : ∀ j, j ≠ i → g j = f j) :
    ∑ j, g j + f i = ∑ j, f j + g i := by
  rw [← Finset.add_sum_erase Finset.univ f (Finset.mem_univ i), ← Finset.add_sum_erase Finset.univ g (Finset.mem_univ i),
    Finset.sum_congr rfl fun j hj => h j (Finset.ne_of_mem_erase hj)]
  ring

theorem State.countOwned_eq (p : Port) (s : State) : s.countOwned p = ∑ i, if s.ownerOf i = some p then 1 else 0 := by
  rw [Fin.sum_univ_def, State.countOwned, Table.countP_toList]
  induction List.finRange 192 with
  | nil => rfl
  | cons i l ih =>
    rw [List.countP_cons, List.map_cons, List.sum_cons, ih, Nat.add_comm]
    simp [State.ownerOf, State.reservation]

/-! ## The records -/

/-- Nothing of the pool that the FIFO and the holdings speak of has changed. -/
theorem State.PoolAgrees.congr {s t : State} (h : s.PoolAgrees) (fifo : t.pool.fifo = s.pool.fifo)
    (owner : ∀ i, t.ownerOf i = s.ownerOf i)
    (owned : ∀ p, (t.ports.get p).ownedRecords = (s.ports.get p).ownedRecords) : t.PoolAgrees := by
  obtain ⟨nodup, free, sums⟩ := h
  refine ⟨fifo ▸ nodup, fun i => ?_, fun p => ?_⟩
  · have e := owner i
    simp only [State.ownerOf, State.reservation] at e
    rw [fifo, free, ← Option.map_eq_none_iff (f := Reservation.owner), ← e, Option.map_eq_none_iff]
  · rw [owned, sums, State.countOwned_eq, State.countOwned_eq]
    simp only [owner]

theorem State.ownerOf_modReservation (j : RecIx) (f : Reservation → Reservation) (hf : ∀ a, (f a).owner = a.owner)
    (s : State) (i : RecIx) : (s.modReservation j f).ownerOf i = s.ownerOf i := by
  simp only [State.ownerOf, State.reservation, State.modReservation_pool, Table.get_modify]
  split
  · rw [Option.map_map]
    congr 1
    funext a
    exact hf a
  · rfl

theorem State.ownerOf_congr {s t : State} (h : t.pool.records = s.pool.records) (i : RecIx) :
    t.ownerOf i = s.ownerOf i := by
  rw [State.ownerOf, State.ownerOf, State.reservation, State.reservation, h]

theorem State.poolTakeReport_ownerOf (s : State) (i : RecIx) : s.poolTakeReport.ownerOf i = s.ownerOf i := by
  cases hp : s.reports.pool with
  | nil => rw [State.poolTakeReport_of_none hp]
  | cons r rest =>
    rw [State.poolTakeReport_of_cons hp]
    refine State.foldl_keeps _ (fun u => u.ownerOf i) (fun u e => ?_) _ _
    simp only [State.ownerOf, State.reservation, State.promoteRecord_records, Option.map_map]
    congr 1
    funext a
    simp only [Function.comp_apply]
    split <;> rfl

/-- A record is allocated to a port (R29, R33). -/
theorem State.PoolAgrees.allocated {s t : State} (h : s.PoolAgrees) {i : RecIx} {rest : List RecIx} {p : Port}
    (fifo : s.pool.fifo = i :: rest) (fifo' : t.pool.fifo = rest) (here : t.ownerOf i = some p)
    (there : ∀ j, j ≠ i → t.ownerOf j = s.ownerOf j)
    (owned : ∀ q, (t.ports.get q).ownedRecords = (s.ports.get q).ownedRecords + if p = q then 1 else 0) :
    t.PoolAgrees := by
  obtain ⟨nodup, free, sums⟩ := h
  have was : s.ownerOf i = none := by
    have := (free i).mp (by rw [fifo]; exact List.mem_cons_self)
    simp [State.ownerOf, State.reservation, this]
  rw [fifo, List.nodup_cons] at nodup
  refine ⟨fifo' ▸ nodup.2, fun j => ?_, fun q => ?_⟩
  · rw [fifo']
    by_cases e : j = i
    · subst e
      have alloc : (t.pool.records.get j).alloc ≠ none := fun n => by
        simp [State.ownerOf, State.reservation, n] at here
      exact ⟨fun m => absurd m nodup.1, fun n => absurd n alloc⟩
    · have o := there j e
      simp only [State.ownerOf, State.reservation] at o
      rw [← Option.map_eq_none_iff (f := Reservation.owner), o, Option.map_eq_none_iff, ← free, fifo, List.mem_cons]
      exact ⟨.inr, fun m => m.resolve_left e⟩
  · rw [owned, sums, State.countOwned_eq, State.countOwned_eq]
    have step := sum_add_of_eq_off (i := i) (f := fun j => if s.ownerOf j = some q then 1 else 0)
      (g := fun j => if t.ownerOf j = some q then 1 else 0) fun j hj => by rw [there j hj]
    simp only [was, here, Option.some_inj] at step
    simpa using step.symm

/-- A record is freed (R28, R33, R36). -/
theorem State.PoolAgrees.freed {s t : State} (h : s.PoolAgrees) {i : RecIx} {p : Port}
    (here : s.ownerOf i = some p) (fifo : t.pool.fifo = s.pool.fifo ++ [i]) (gone : t.ownerOf i = none)
    (there : ∀ j, j ≠ i → t.ownerOf j = s.ownerOf j)
    (owned : ∀ q, (t.ports.get q).ownedRecords = (s.ports.get q).ownedRecords - if p = q then 1 else 0) :
    t.PoolAgrees := by
  obtain ⟨nodup, free, sums⟩ := h
  have out : i ∉ s.pool.fifo := fun m => by
    have := (free i).mp m
    simp [State.ownerOf, State.reservation, this] at here
  refine ⟨fifo ▸ List.nodup_append.mpr ⟨nodup, by simp, fun j hj k hk => ?_⟩, fun j => ?_, fun q => ?_⟩
  · rw [List.mem_singleton.mp hk]
    rintro rfl
    exact out hj
  · rw [fifo, List.mem_append, List.mem_singleton]
    by_cases e : j = i
    · subst e
      simp only [State.ownerOf, State.reservation, Option.map_eq_none_iff] at gone
      simp [gone]
    · have o := there j e
      simp only [State.ownerOf, State.reservation] at o
      rw [← Option.map_eq_none_iff (f := Reservation.owner), o, Option.map_eq_none_iff, ← free]
      exact ⟨fun m => m.resolve_right e, .inl⟩
  · rw [owned, sums, State.countOwned_eq, State.countOwned_eq]
    have step := sum_add_of_eq_off (i := i) (f := fun j => if s.ownerOf j = some q then 1 else 0)
      (g := fun j => if t.ownerOf j = some q then 1 else 0) fun j hj => by rw [there j hj]
    rw [gone, here, if_neg (Option.some_ne_none q).symm] at step
    rw [← Nat.sub_eq_of_eq_add step.symm]
    simp only [Option.some_inj, Nat.add_zero]

theorem State.releaseRecord_ownerOf {i : RecIx} {a : Reservation} (cause : Cause) (releasing : Option Port) {s : State}
    (hi : s.reservation i = some a) (j : RecIx) :
    (s.releaseRecord i cause releasing).ownerOf j = if i = j then none else s.ownerOf j := by
  simp only [State.ownerOf, State.reservation, State.releaseRecord_pool cause releasing hi, Table.get_set]
  split <;> rfl

theorem State.ownerOf_of_reservation {i : RecIx} {a : Reservation} {s : State} (hi : s.reservation i = some a) :
    s.ownerOf i = some a.owner := by
  simp [State.ownerOf, hi]

theorem State.releaseRecord_poolAgrees {i : RecIx} {a : Reservation} (cause : Cause) (releasing : Option Port) {s : State}
    (hi : s.reservation i = some a) (h : s.PoolAgrees) : (s.releaseRecord i cause releasing).PoolAgrees := by
  refine h.freed (State.ownerOf_of_reservation hi) (by rw [State.releaseRecord_pool cause releasing hi])
    (by rw [State.releaseRecord_ownerOf cause releasing hi, if_pos rfl])
    (fun j hj => by rw [State.releaseRecord_ownerOf cause releasing hi, if_neg (Ne.symm hj)]) fun q => ?_
  rw [State.releaseRecord_others q cause releasing hi]
  dsimp only
  split <;> rfl

theorem State.cutoverMove_ownerOf (k : CtxIx) (c : MoveContext) (m : Word) (s : State) (i : RecIx) :
    (s.cutoverMove k c m).ownerOf i = s.ownerOf i := by
  cases h : s.reservation c.index with
  | none => rw [State.cutoverMove_of_none h]; rfl
  | some a =>
    rw [State.ownerOf, State.reservation, State.cutoverMove_pool h]
    exact State.ownerOf_modReservation c.index (fun b => { b with state := .live, context := none, set := c.target })
      (fun _ => rfl) s i

theorem State.abandonMove_ownerOf (k : CtxIx) (reason : Reason) (stamp : Word) (mute : Option Port) (s : State)
    (i : RecIx) : (s.abandonMove k reason stamp mute).ownerOf i = s.ownerOf i := by
  cases h : s.moves.get k with
  | none => rw [State.abandonMove_none k reason stamp mute s h]
  | some c =>
    rw [State.ownerOf, State.reservation, State.abandonMove_pool reason stamp mute h]
    exact State.ownerOf_modReservation c.index (fun b => { b with state := .live, context := none }) (fun _ => rfl) s i

theorem State.abandonMove_fifo (k : CtxIx) (reason : Reason) (stamp : Word) (mute : Option Port) (s : State) :
    (s.abandonMove k reason stamp mute).pool.fifo = s.pool.fifo := by
  cases h : s.moves.get k with
  | none => rw [State.abandonMove_none k reason stamp mute s h]
  | some c => rw [State.abandonMove_pool reason stamp mute h]

theorem State.cutoverMove_fifo (k : CtxIx) (c : MoveContext) (m : Word) (s : State) :
    (s.cutoverMove k c m).pool.fifo = s.pool.fifo := by
  cases h : s.reservation c.index with
  | none => rw [State.cutoverMove_of_none h]; rfl
  | some a => rw [State.cutoverMove_pool h]

theorem State.beginMove_ownerOf (k : CtxIx) (c : MoveContext) (owned : Bool) (s : State) (i : RecIx) :
    (s.beginMove k c owned).ownerOf i = s.ownerOf i := by
  rw [State.ownerOf, State.reservation, State.beginMove_pool]
  exact State.ownerOf_modReservation c.index (fun b => { b with state := .moving, context := some k }) (fun _ => rfl) s i

/-- A grant of the head of the FIFO keeps the pool whole. -/
theorem State.grant_poolAgrees {s : State} (h : s.PoolAgrees) {i : RecIx} {rest : List RecIx}
    (fifo : s.pool.fifo = i :: rest) (owner : Port) (cls : ResClass) (set : List Run) (lease : Nat)
    (ticket : Option Byte) (place : Placement) : (s.grant i rest owner cls set lease ticket place).PoolAgrees := by
  refine h.allocated (p := owner) fifo (by simp) (by simp [State.ownerOf, State.reservation, State.granted])
    (fun j hj => by simp [State.ownerOf, State.reservation, Table.get_set_ne _ _ (Ne.symm hj)]) fun q => ?_
  rw [State.grant_ports, Table.get_modify]
  split <;> rfl

theorem State.Quiet.poolAgrees {s t : State} (q : s.Quiet t) (h : s.PoolAgrees) : t.PoolAgrees :=
  h.congr q.fifo (State.ownerOf_congr q.records) q.owned

theorem State.grantTrial_poolAgrees (s : State) (x : Trial) (h : s.PoolAgrees) : (s.grantTrial x).PoolAgrees := by
  unfold State.grantTrial
  split
  · exact h
  · next e _ =>
    split
    · split
      · exact h
      · next i rest fifo =>
        have granted := State.grant_poolAgrees h fifo e.port e.cls x.set e.lease (some e.ticket) e.search.place
        refine (State.grantReports_quiet _ _).poolAgrees ((State.post_quiet _ _ _ _ _).poolAgrees
          (granted.congr (by simp) (fun _ => rfl) fun p => ?_))
        rw [State.removeEntry_ports, Table.get_modify]
        split <;> rfl
    · exact h

theorem State.Act.keeps_pool {s t : State} (a : State.Act s t) (h : s.PoolAgrees) : t.PoolAgrees := by
  cases a with
  | quiet q => exact q.poolAgrees h
  | begins | reads | beginsPass | advances | counts | drops => exact h
  | relocates => exact h.congr (by simp) (State.beginMove_ownerOf _ _ _ _) fun p => by simp
  | releases i a cause releasing hi => exact State.releaseRecord_poolAgrees cause releasing hi h
  | abandons k c reason stamp mute _ _ =>
    exact h.congr (State.abandonMove_fifo k reason stamp mute s) (State.abandonMove_ownerOf k reason stamp mute s)
      fun p => by rw [State.abandonMove_others]
  | arms => exact h.congr (by simp) (State.ownerOf_congr (by simp)) fun p => by rw [State.claim_others]; rfl
  | cutsOver k c n o m _ _ =>
    exact h.congr (State.cutoverMove_fifo k c m s) (State.cutoverMove_ownerOf k c m s)
      fun p => by rw [State.cutoverMove_others]
  | bars => exact h.congr (by simp) (State.ownerOf_congr (by simp)) fun p => by rw [State.claim_others]
  | unbars => exact h.congr (by simp) (State.ownerOf_congr (by simp)) fun p => by rw [State.claim_others]
  | leases i l => exact h.congr rfl (State.ownerOf_modReservation i _ (fun _ => by exact rfl) s) fun p => rfl
  | enters =>
    refine h.congr rfl (fun _ => rfl) fun p => ?_
    rw [State.makeEntry_ports, Table.get_modify]
    split <;> rfl
  | leaves =>
    refine h.congr rfl (fun _ => rfl) fun p => ?_
    rw [State.removeEntry_ports, Table.get_modify]
    split <;> rfl
  | leavesAll =>
    refine h.congr (by simp) (State.ownerOf_congr (by simp)) fun p => ?_
    rw [State.removePortEntries_ports, Table.get_modify]
    split <;> rfl
  | countsWaits m => exact h.congr (by simp) (State.ownerOf_congr (by simp)) fun p => (State.waitReaction_owned m s p).2
  | promotes =>
    exact h.congr (State.poolTakeReport_fifo s) (State.poolTakeReport_ownerOf s)
      fun p => by rw [State.poolTakeReport_others]
  | overlaps => exact h.congr (by simp) (State.ownerOf_congr (by simp)) fun p => by rw [State.moveTakeReport_others]

theorem State.powerOn_poolAgrees (low : Bool) (right : Nat → Bool) (s : State) : (s.powerOn low right).PoolAgrees := by
  have records (i : RecIx) : (s.powerOn low right).pool.records.get i = ⟨0#8, none⟩ := Table.get_replicate _ i
  refine ⟨List.nodup_finRange 192, fun i => ?_, fun p => ?_⟩
  · rw [records]
    exact iff_of_true (List.mem_finRange i) rfl
  · rw [State.powerOn_ports, State.countOwned_eq]
    simp [State.ownerOf, State.reservation, records, ClientPort.reset]

theorem State.mapTakeMark_poolAgrees {s : State} (h : s.PoolAgrees) : s.mapTakeMark.PoolAgrees :=
  h.congr (by simp) (State.ownerOf_congr (by simp)) fun p => by rw [State.mapTakeMark_others]

theorem State.Does.keeps_pool {s t : State} (d : s.Does t) (h : s.PoolAgrees) : t.PoolAgrees := by
  cases d with
  | acts a => exact a.keeps (fun _ _ a => a.keeps_pool) h
  | afterMap a => exact a.keeps (fun _ _ a => a.keeps_pool) (State.mapTakeMark_poolAgrees h)
  | reserves c a i rest set _ _ fifo _ q =>
    exact q.poolAgrees (State.grant_poolAgrees (s := s.setWork .idle) h fifo _ _ _ _ _ _)
  | completes p _ => exact State.foldl_invariant _ State.grantTrial_poolAgrees _ h
  | powers low right => exact State.powerOn_poolAgrees low right s

/-! ## Moves -/

/-- What the pairing of records and contexts reads of a record: its generation, whether it is MOVING, and its context. -/
def Record.moveKey (r : Record) : Byte × Option (Bool × Option CtxIx) :=
  (r.gen, r.alloc.map fun a => (decide (a.state = .moving), a.context))

/-- What it reads of a context: the handle. -/
def MoveContext.key (c : MoveContext) : RecIx × Byte := (c.index, c.gen)

/-- The pairing of records and contexts, in terms of what it reads (R104). -/
theorem State.movesAgree_iff (s : State) : s.MovesAgree ↔
    (∀ k c, s.moves.get k = some c → (s.pool.records.get c.index).moveKey = (c.gen, some (true, some k))) ∧
      ∀ i moving ctx, (s.pool.records.get i).moveKey.2 = some (moving, ctx) →
        if moving = true then ∃ k c, ctx = some k ∧ s.moves.get k = some c ∧ c.index = i else ctx = none := by
  refine and_congr (forall_congr' fun k => forall_congr' fun c => imp_congr_right fun _ => ?_)
    (forall_congr' fun i => ?_)
  · cases h : s.pool.records.get c.index with | mk gen alloc =>
    cases alloc with
    | none => simp [Record.moveKey]
    | some a => simp [Record.moveKey]
  · cases h : (s.pool.records.get i).alloc with
    | none => simp [Record.moveKey, h]
    | some a => simp [Record.moveKey, h]

theorem State.MovesAgree.congr {s t : State} (h : s.MovesAgree)
    (records : ∀ i, (t.pool.records.get i).moveKey = (s.pool.records.get i).moveKey)
    (moves : ∀ k, (t.moves.get k).map MoveContext.key = (s.moves.get k).map MoveContext.key) : t.MovesAgree := by
  rw [State.movesAgree_iff] at h ⊢
  obtain ⟨fromContext, fromRecord⟩ := h
  have back (k : CtxIx) (c : MoveContext) (hc : t.moves.get k = some c) :
      ∃ d, s.moves.get k = some d ∧ d.key = c.key := by
    have e := moves k
    rw [hc, Option.map_some, eq_comm, Option.map_eq_some_iff] at e
    exact e
  refine ⟨fun k c hc => ?_, fun i moving ctx hi => ?_⟩
  · obtain ⟨d, hd, e⟩ := back k c hc
    obtain ⟨ei, eg⟩ := Prod.mk.injEq .. ▸ e
    rw [records, ← ei, ← eg]
    exact fromContext k d hd
  · rw [records] at hi
    have := fromRecord i moving ctx hi
    split
    · next m =>
      rw [if_pos m] at this
      obtain ⟨k, c, rfl, hc, rfl⟩ := this
      have e := moves k
      rw [hc, Option.map_some, Option.map_eq_some_iff] at e
      obtain ⟨d, hd, e⟩ := e
      exact ⟨k, d, rfl, hd, congrArg Prod.fst e⟩
    · next m => rwa [if_neg m] at this

/-- A context that a record does not name has another record. -/
theorem State.MovesAgree.index_inj {s : State} (h : s.MovesAgree) {j k : CtxIx} {c d : MoveContext}
    (hc : s.moves.get j = some c) (hd : s.moves.get k = some d) (e : c.index = d.index) : j = k := by
  obtain ⟨a, ha, -, hj⟩ := h.1 j c hc
  obtain ⟨b, hb, -, hk⟩ := h.1 k d hd
  rw [e, hb] at ha
  obtain rfl : b = a := Option.some_inj.mp (congrArg Record.alloc ha)
  exact Option.some_inj.mp (hj.symm.trans hk)

/-- A record that no context names takes other fields, not MOVING and with no context, or is freed. -/
theorem State.MovesAgree.set_record {s t : State} (h : s.MovesAgree) {i : RecIx} {r : Record}
    (apart : ∀ k c, s.moves.get k = some c → c.index ≠ i)
    (records : t.pool.records = s.pool.records.set i r) (moves : t.moves = s.moves)
    (still : ∀ a, r.alloc = some a → a.state ≠ .moving ∧ a.context = none) : t.MovesAgree := by
  refine ⟨fun k c hc => ?_, fun j a ha => ?_⟩
  · rw [moves] at hc
    rw [records, Table.get_set_ne _ _ (Ne.symm (apart k c hc))]
    exact h.1 k c hc
  · rw [records, Table.get_set] at ha
    split at ha
    · obtain ⟨ns, nc⟩ := still a ha
      rw [if_neg ns]
      exact nc
    · rw [moves]
      exact h.2 j a ha

/-- A move ends: its context is free and its record takes other fields, not MOVING and with no context, or is freed. -/
theorem State.MovesAgree.ended {s t : State} (h : s.MovesAgree) {k : CtxIx} {c : MoveContext} {r : Record}
    (hk : s.moves.get k = some c) (records : t.pool.records = s.pool.records.set c.index r)
    (moves : t.moves = s.moves.set k none)
    (still : ∀ a, r.alloc = some a → a.state ≠ .moving ∧ a.context = none) : t.MovesAgree := by
  have rest (j : CtxIx) (d : MoveContext) (hd : t.moves.get j = some d) : j ≠ k ∧ s.moves.get j = some d := by
    rw [moves, Table.get_set] at hd
    split at hd
    · cases hd
    · next ne => exact ⟨Ne.symm ne, hd⟩
  refine ⟨fun j d hd => ?_, fun j a ha => ?_⟩
  · obtain ⟨ne, hd⟩ := rest j d hd
    rw [records, Table.get_set_ne _ _ fun e => ne (h.index_inj hd hk e.symm)]
    exact h.1 j d hd
  · rw [records, Table.get_set] at ha
    split at ha
    · obtain ⟨ns, nc⟩ := still a ha
      rw [if_neg ns]
      exact nc
    · next ne =>
      have old := h.2 j a ha
      split
      · next m =>
        rw [if_pos m] at old
        obtain ⟨l, d, ctx, hd, e⟩ := old
        refine ⟨l, d, ctx, ?_, e⟩
        rw [moves, Table.get_set_ne _ _ ?_]
        · exact hd
        · rintro rfl
          rw [hk, Option.some_inj] at hd
          exact ne (hd ▸ e)
      · next m => rwa [if_neg m] at old

/-- Under the pairing, the context of a record's move is one in use that names the record. -/
theorem State.MovesAgree.contextOf_index {s : State} (h : s.MovesAgree) {i : RecIx} {a : Reservation} {k : CtxIx}
    {c : MoveContext} (hi : s.reservation i = some a) (hc : s.contextOf a = some (k, c)) : c.index = i := by
  obtain ⟨moving, ctx, hk⟩ := State.contextOf_eq_some.mp hc
  have := h.2 i a hi
  rw [if_pos moving] at this
  obtain ⟨j, d, e, hd, ei⟩ := this
  rw [ctx, Option.some_inj] at e
  subst e
  rw [hk, Option.some_inj] at hd
  exact hd ▸ ei

/-- A record without a move is named by no context. -/
theorem State.MovesAgree.not_named {s : State} (h : s.MovesAgree) {i : RecIx}
    (still : ∀ a, s.reservation i = some a → s.contextOf a = none) (k : CtxIx) (c : MoveContext)
    (hk : s.moves.get k = some c) : c.index ≠ i := by
  rintro rfl
  obtain ⟨a, ha, moving, ctx⟩ := h.1 k c hk
  have := still a (by rw [State.reservation, ha])
  rw [State.contextOf_eq_some.mpr ⟨moving, ctx, hk⟩] at this
  cases this

theorem State.releaseRecord_movesAgree {i : RecIx} {a : Reservation} (cause : Cause) (releasing : Option Port) {s : State}
    (hi : s.reservation i = some a) (h : s.MovesAgree) : (s.releaseRecord i cause releasing).MovesAgree := by
  have moves := State.releaseRecord_moves cause releasing hi
  have records : (s.releaseRecord i cause releasing).pool.records =
      s.pool.records.set i ⟨(s.pool.records.get i).gen + 1#8, none⟩ := by
    rw [State.releaseRecord_pool cause releasing hi]
  cases hc : s.contextOf a with
  | none =>
    rw [hc] at moves
    refine h.set_record (h.not_named fun b hb => ?_) records moves (by simp)
    rw [hi, Option.some_inj] at hb
    exact hb ▸ hc
  | some x =>
    obtain ⟨k, c⟩ := x
    rw [hc] at moves
    have index := h.contextOf_index hi hc
    subst index
    exact h.ended (State.contextOf_eq_some.mp hc).2.2 records moves (by simp)

theorem Table.modify_eq_set {α : Type} {n : Nat} (t : Table α n) (i : Fin n) (f : α → α) :
    t.modify i f = t.set i (f (t.get i)) := rfl

theorem State.abandonMove_movesAgree {k : CtxIx} {c : MoveContext} (reason : Reason) (stamp : Word) (mute : Option Port)
    {s : State} (hk : s.moves.get k = some c) (h : s.MovesAgree) : (s.abandonMove k reason stamp mute).MovesAgree := by
  refine h.ended hk (by rw [State.abandonMove_pool reason stamp mute hk, Table.modify_eq_set])
    (State.abandonMove_moves reason stamp mute hk) fun a ha => ?_
  obtain ⟨b, -, rfl⟩ := Option.map_eq_some_iff.mp ha
  exact ⟨by simp, rfl⟩

theorem State.cutoverMove_movesAgree {k : CtxIx} {c : MoveContext} (m : Word) {s : State}
    (hk : s.moves.get k = some c) (h : s.MovesAgree) : (s.cutoverMove k c m).MovesAgree := by
  obtain ⟨a, ha, -, -⟩ := h.1 k c hk
  have hr : s.reservation c.index = some a := by rw [State.reservation, ha]
  refine h.ended hk (by rw [State.cutoverMove_pool hr, Table.modify_eq_set]) (State.cutoverMove_moves hr) fun b hb => ?_
  obtain ⟨d, -, rfl⟩ := Option.map_eq_some_iff.mp hb
  exact ⟨by simp, rfl⟩

theorem State.beginMove_movesAgree {k : CtxIx} {i : RecIx} {a : Reservation} {h : Handle} {s : State}
    (requester : Option (Port × Byte)) (stage : Stage) (target : List Run) (owned : Bool)
    (hi : s.Names h i a) (live : a.state = .live) (hk : s.moves.get k = none) (agree : s.MovesAgree) :
    (s.beginMove k ⟨i, h.gen, requester, stage, target⟩ owned).MovesAgree := by
  obtain ⟨-, alloc, gen⟩ := hi
  have apart := agree.not_named (i := i) fun b hb => by
    have : b = a := Option.some_inj.mp (hb.symm.trans alloc)
    exact State.contextOf_of_not_moving s (by rw [this, live]; simp)
  refine ⟨fun j d hd => ?_, fun j b hb => ?_⟩
  · rw [State.beginMove_moves, Table.get_set] at hd
    rw [State.beginMove_pool]
    dsimp only
    split at hd
    · next e =>
      obtain rfl := Option.some_inj.mp hd
      refine ⟨{ a with state := .moving, context := some k }, ?_, rfl, by rw [e]⟩
      rw [Table.get_modify_self, alloc, gen]
      rfl
    · rw [Table.get_modify_ne _ _ (Ne.symm (apart j d hd))]
      exact agree.1 j d hd
  · rw [State.beginMove_pool] at hb
    dsimp only at hb
    rw [Table.get_modify] at hb
    split at hb
    · next e =>
      obtain ⟨d, -, rfl⟩ := Option.map_eq_some_iff.mp hb
      rw [if_pos rfl]
      exact ⟨k, _, rfl, by rw [State.beginMove_moves, Table.get_set_self], e⟩
    · have old := agree.2 j b hb
      split
      · next m =>
        rw [if_pos m] at old
        obtain ⟨l, d, ctx, hd, e⟩ := old
        refine ⟨l, d, ctx, ?_, e⟩
        rw [State.beginMove_moves, Table.get_set_ne _ _ ?_]
        · exact hd
        · rintro rfl
          rw [hk] at hd
          cases hd
      · next m => rwa [if_neg m] at old

theorem State.grant_movesAgree {s : State} (pool : s.PoolAgrees) (h : s.MovesAgree) {i : RecIx} {rest : List RecIx}
    (fifo : s.pool.fifo = i :: rest) (owner : Port) (cls : ResClass) (set : List Run) (lease : Nat)
    (ticket : Option Byte) (place : Placement) : (s.grant i rest owner cls set lease ticket place).MovesAgree := by
  have free : (s.pool.records.get i).alloc = none := (pool.2.1 i).mp (by rw [fifo]; exact List.mem_cons_self)
  refine h.set_record (i := i) (h.not_named fun a ha => ?_) (by rw [State.grant_pool]) (by simp) fun a ha => ?_
  · rw [State.reservation, free] at ha
    cases ha
  · obtain rfl := Option.some_inj.mp ha
    exact ⟨by simp [State.granted], rfl⟩

theorem Record.moveKey_of_alloc_map {r : Record} (f : Reservation → Reservation)
    (hs : ∀ a, ((f a).state = .moving ↔ a.state = .moving)) (hc : ∀ a, (f a).context = a.context) :
    Record.moveKey { r with alloc := r.alloc.map f } = r.moveKey := by
  unfold Record.moveKey
  dsimp only
  rw [Option.map_map]
  congr 2
  funext a
  simp [hs, hc]

theorem State.poolTakeReport_moveKey (s : State) (i : RecIx) :
    (s.poolTakeReport.pool.records.get i).moveKey = (s.pool.records.get i).moveKey := by
  cases hp : s.reports.pool with
  | nil => rw [State.poolTakeReport_of_none hp]
  | cons r rest =>
    rw [State.poolTakeReport_of_cons hp]
    refine State.foldl_keeps _ (fun u => (u.pool.records.get i).moveKey) (fun u e => ?_) _ _
    rw [State.promoteRecord_records]
    exact Record.moveKey_of_alloc_map _ (fun a => by split <;> simp_all) fun a => by split <;> rfl

theorem State.moveTakeReport_key (s : State) (k : CtxIx) :
    (s.moveTakeReport.moves.get k).map MoveContext.key = (s.moves.get k).map MoveContext.key := by
  have h := congrArg (Option.map MoveContext.key) (State.moveTakeReport_bare s k)
  rwa [Option.map_map, Option.map_map] at h

theorem State.MovesAgree.of_eq {s t : State} (h : s.MovesAgree) (records : t.pool.records = s.pool.records)
    (moves : t.moves = s.moves) : t.MovesAgree :=
  h.congr (fun i => by rw [records]) fun k => by rw [moves]

theorem State.setMove_stage_key (k : CtxIx) {c : MoveContext} (stage : Stage) {s : State} (hk : s.moves.get k = some c)
    (j : CtxIx) : ((s.setMove k (some { c with stage := stage })).moves.get j).map MoveContext.key =
      (s.moves.get j).map MoveContext.key := by
  rw [State.setMove_moves, Table.get_set]
  split
  · next e => subst e; rw [hk]; rfl
  · rfl

theorem State.dropRequester_key (p : Port) (s : State) (k : CtxIx) :
    ((s.dropRequester p).moves.get k).map MoveContext.key = (s.moves.get k).map MoveContext.key := by
  simp only [State.dropRequester, Table.get_map]
  split
  · split <;> simp_all [MoveContext.key]
  · simp_all

theorem State.Act.keeps_moves {s t : State} (a : State.Act s t) (h : s.MovesAgree) : t.MovesAgree := by
  cases a with
  | quiet q => exact h.of_eq q.records q.moves
  | begins | reads | beginsPass | advances | enters | leaves => exact h
  | relocates c q k i a set _ _ names live hk _ => exact State.beginMove_movesAgree _ _ _ _ names live hk h
  | releases i a cause releasing hi => exact State.releaseRecord_movesAgree cause releasing hi h
  | abandons k c reason stamp mute hk _ => exact State.abandonMove_movesAgree reason stamp mute hk h
  | arms k c hk _ =>
    exact h.congr (fun i => by simp) fun j => by
      rw [State.claim_moves]; exact State.setMove_stage_key k .armed hk j
  | counts k c stage hk _ => exact h.congr (fun i => rfl) (State.setMove_stage_key k stage hk)
  | cutsOver k c n o m hk _ => exact State.cutoverMove_movesAgree m hk h
  | drops p => exact h.congr (fun i => by simp) (State.dropRequester_key p s)
  | bars => exact h.of_eq (by simp) (by simp)
  | unbars => exact h.of_eq (by simp) (by simp)
  | leases i l =>
    refine h.congr (fun j => ?_) fun k => rfl
    rw [State.modReservation_pool]
    dsimp only
    rw [Table.get_modify]
    split
    · exact Record.moveKey_of_alloc_map _ (fun _ => Iff.rfl) fun _ => rfl
    · rfl
  | leavesAll => exact h.of_eq (by simp) (by simp)
  | countsWaits => exact h.of_eq (by simp) (by simp)
  | promotes => exact h.congr (State.poolTakeReport_moveKey s) fun k => by simp
  | overlaps => exact h.congr (fun i => by simp) (State.moveTakeReport_key s)

theorem State.grantTrial_wholeMoves (s : State) (x : Trial) (h : s.PoolAgrees ∧ s.MovesAgree) :
    (s.grantTrial x).PoolAgrees ∧ (s.grantTrial x).MovesAgree := by
  refine ⟨State.grantTrial_poolAgrees s x h.1, ?_⟩
  unfold State.grantTrial
  split
  · exact h.2
  · next e _ =>
    split
    · split
      · exact h.2
      · next i rest fifo =>
        have granted := State.grant_movesAgree h.1 h.2 fifo e.port e.cls x.set e.lease (some e.ticket) e.search.place
        exact granted.of_eq (((State.grantReports_quiet _ _).records.trans (State.post_quiet _ _ _ _ _).records).trans
          (by simp)) (by simp [State.grantEntry])
    · exact h.2

theorem State.powerOn_movesAgree (low : Bool) (right : Nat → Bool) (s : State) : (s.powerOn low right).MovesAgree := by
  have records (i : RecIx) : (s.powerOn low right).pool.records.get i = ⟨0#8, none⟩ := Table.get_replicate _ i
  have moves (k : CtxIx) : (s.powerOn low right).moves.get k = none := Table.get_replicate _ k
  refine ⟨fun k c hc => ?_, fun i a ha => ?_⟩
  · rw [moves] at hc
    cases hc
  · rw [records] at ha
    cases ha

theorem State.mapTakeMark_movesAgree {s : State} (h : s.MovesAgree) : s.mapTakeMark.MovesAgree :=
  h.of_eq (by simp) (by simp)

theorem State.Does.keeps_moves {s t : State} (d : s.Does t) (pool : s.PoolAgrees) (h : s.MovesAgree) : t.MovesAgree := by
  cases d with
  | acts a => exact a.keeps (fun _ _ a => a.keeps_moves) h
  | afterMap a => exact a.keeps (fun _ _ a => a.keeps_moves) (State.mapTakeMark_movesAgree h)
  | reserves c a i rest set _ _ fifo _ q =>
    exact (State.grant_movesAgree (s := s.setWork .idle) pool h fifo _ _ _ _ _ _).of_eq q.records q.moves
  | completes p _ => exact (State.foldl_invariant (P := fun u => u.PoolAgrees ∧ u.MovesAgree) _
      State.grantTrial_wholeMoves _ (s := s.setWork .idle) ⟨pool, h⟩).2
  | powers low right => exact State.powerOn_movesAgree low right s

/-- Settles O60: a move begins and ends with both its record and its context, and every other change keeps what pairs them. -/
theorem movesStayPaired : Obligations.MovesStayPaired := by
  unfold Obligations.MovesStayPaired
  intro s t pool h e
  exact step_keeps (P := fun u => u.MovesAgree ∧ u.PoolAgrees) (fun _ _ h => h)
    (fun _ _ d h => ⟨d.keeps_moves h.2 h.1, d.keeps_pool h.2⟩) ⟨h, pool⟩ e |>.1

end Sys2Proof.Machine
end

section
/-! PROOFS. The holdings in slots and the totals of moves under every step (R33, R66, R104, R106, O53). -/

namespace Sys2Proof.Machine

/-! ## What a search finds has the total it was given -/

/-- A search gives a set of its count, an AT search where its listed runs have that count (R62, R63, R64). -/
theorem Scan.setTotal_of_finish {sc : Scan} {free : Nat → Bool} {set : List Run} (h : sc.finish free = some set)
    (at_ : ∀ runs, sc.args.place = .atRuns runs → setTotal runs = sc.args.n) : setTotal set = sc.args.n := by
  have shaped (st : List Run) (h : (match sc.args.shape with
      | .contiguous => findContiguous sc.args.n st
      | .split minRun maxRuns => findSplit sc.args.n minRun maxRuns st) = some set) : setTotal set = sc.args.n := by
    split at h
    · obtain ⟨r, -, -, rfl⟩ := findContiguous_spec h
      simp [setTotal]
    · exact (findSplit_spec h).2
  unfold Scan.finish Scan.result at h
  dsimp only [Scan.readRest] at h
  split at h
  · next runs hp =>
    obtain ⟨-, e⟩ := Option.ite_none_right_eq_some.mp h
    exact Option.some_inj.mp e ▸ at_ runs hp
  · exact shaped _ h
  · exact shaped _ h

/-! ## Holdings -/

/-- What the totals read of a record: its generation, its owner and the total of its current set. -/
def Record.holding (r : Record) : Option (Byte × Port × Nat) :=
  r.alloc.map fun a => (r.gen, a.owner, setTotal a.set)

/-- The slots that a record's holding adds to those of port `p`. -/
def slotsHeldBy (p : Port) (x : Option (Byte × Port × Nat)) : Nat :=
  x.elim 0 fun y => if y.2.1 = p then y.2.2 else 0

theorem sum_filterMap_reservation (p : Port) (s : State) :
    (((List.finRange 192).filterMap s.reservation).map fun a => if a.owner = p then setTotal a.set else 0).sum =
      ∑ i, slotsHeldBy p (s.pool.records.get i).holding := by
  rw [Fin.sum_univ_def]
  induction List.finRange 192 with
  | nil => rfl
  | cons i l ih =>
    rw [List.map_cons, List.sum_cons, ← ih]
    cases h : s.reservation i with
    | none =>
      have : (s.pool.records.get i).alloc = none := h
      simp [h, Record.holding, slotsHeldBy, this]
    | some a =>
      have : (s.pool.records.get i).alloc = some a := h
      simp [h, Record.holding, slotsHeldBy, this]

theorem State.holding_of_reservation {i : RecIx} {a : Reservation} {s : State} (h : s.reservation i = some a) :
    (s.pool.records.get i).holding = some ((s.pool.records.get i).gen, a.owner, setTotal a.set) := by
  have : (s.pool.records.get i).alloc = some a := h
  rw [Record.holding, this]
  rfl

theorem State.reservation_of_holding {i : RecIx} {x : Byte × Port × Nat} {s : State}
    (h : (s.pool.records.get i).holding = some x) :
    ∃ a, s.reservation i = some a ∧ x = ((s.pool.records.get i).gen, a.owner, setTotal a.set) := by
  obtain ⟨a, ha, e⟩ := Option.map_eq_some_iff.mp h
  exact ⟨a, ha, e.symm⟩

/-- The records of `t` are those of `s` as the totals read them, but that some may be free. -/
def State.HoldingsWithin (s t : State) : Prop :=
  ∀ i x, (t.pool.records.get i).holding = some x → (s.pool.records.get i).holding = some x

theorem State.HoldingsWithin.of_eq {s t : State}
    (h : ∀ i, (t.pool.records.get i).holding = (s.pool.records.get i).holding) : s.HoldingsWithin t :=
  fun i _ hx => h i ▸ hx

theorem State.HoldingsWithin.reservation {s t : State} (h : s.HoldingsWithin t) {i : RecIx} {a : Reservation}
    (ha : t.reservation i = some a) : ∃ b, s.reservation i = some b ∧
      (s.pool.records.get i).gen = (t.pool.records.get i).gen ∧ setTotal b.set = setTotal a.set := by
  obtain ⟨b, hb, e⟩ := State.reservation_of_holding (h i _ (State.holding_of_reservation ha))
  rw [Prod.mk.injEq, Prod.mk.injEq] at e
  obtain ⟨gen, -, total⟩ := e
  exact ⟨b, hb, gen.symm, total.symm⟩

/-! ## The invariant -/

/-- A RELOCATE kept in the engine searches on for the total of the record it names. -/
theorem State.RelocatesTotal.kept {s t : State} (h : s.RelocatesTotal) (work : s.engine.work.KeptAs t.engine.work)
    (within : s.HoldingsWithin t) : t.RelocatesTotal := by
  intro c q i a hw hq names
  obtain ⟨hi, alloc, gen⟩ := names
  obtain ⟨b, hb, gen', total⟩ := within.reservation (i := i) (a := a) alloc
  rw [← total]
  rcases work with e | e | ⟨d, w, hd, e⟩
  · exact h c q i b (e ▸ hw) hq ⟨hi, hb, gen'.trans gen⟩
  · rw [e] at hw
    cases hw
  · rw [e] at hw
    cases hw
    exact h d q i b hd hq ⟨hi, hb, gen'.trans gen⟩

theorem State.relocatesTotal_of_work {s : State} (h : ∀ c, s.engine.work ≠ .command c) : s.RelocatesTotal :=
  fun c _ _ _ hw => absurd hw (h c)

/-- Every move's target has the total of the set it is to replace (R66, R104). -/
def State.TargetsTotal (s : State) : Prop :=
  ∀ k c a, s.moves.get k = some c → s.reservation c.index = some a → setTotal c.target = setTotal a.set

theorem State.TargetsTotal.kept {s t : State} (h : s.TargetsTotal) (within : s.HoldingsWithin t)
    (moves : ∀ k c, t.moves.get k = some c → ∃ d, s.moves.get k = some d ∧ d.index = c.index ∧ d.target = c.target) :
    t.TargetsTotal := by
  intro k c a hk ha
  obtain ⟨d, hd, index, target⟩ := moves k c hk
  obtain ⟨b, hb, -, total⟩ := within.reservation ha
  rw [← target, ← total]
  exact h k d b hd (index ▸ hb)

/-- Each port's owned slots are those of its records (R33). -/
def State.SlotsOwned (s : State) : Prop :=
  ∀ p, (s.ports.get p).ownedSlots = ∑ i, slotsHeldBy p (s.pool.records.get i).holding

theorem State.totalsAgree_iff (s : State) : s.TotalsAgree ↔ s.SlotsOwned ∧ s.TargetsTotal ∧ s.RelocatesTotal := by
  simp only [State.TotalsAgree, sum_filterMap_reservation, State.SlotsOwned, State.TargetsTotal]

theorem State.SlotsOwned.congr {s t : State} (h : s.SlotsOwned)
    (records : ∀ i, (t.pool.records.get i).holding = (s.pool.records.get i).holding)
    (ports : ∀ p, (t.ports.get p).ownedSlots = (s.ports.get p).ownedSlots) : t.SlotsOwned := by
  intro p
  rw [ports, h p]
  simp only [records]

theorem State.TotalsAgree.congr {s t : State} (h : s.TotalsAgree)
    (records : ∀ i, (t.pool.records.get i).holding = (s.pool.records.get i).holding)
    (ports : ∀ p, (t.ports.get p).ownedSlots = (s.ports.get p).ownedSlots)
    (moves : ∀ k c, t.moves.get k = some c → ∃ d, s.moves.get k = some d ∧ d.index = c.index ∧ d.target = c.target)
    (work : s.engine.work.KeptAs t.engine.work) : t.TotalsAgree := by
  rw [State.totalsAgree_iff] at h ⊢
  obtain ⟨owned, targets, relocates⟩ := h
  have within := State.HoldingsWithin.of_eq records
  exact ⟨owned.congr records ports, targets.kept within moves, relocates.kept work within⟩

theorem State.same_moves {s t : State} (h : t.moves = s.moves) (k : CtxIx) (c : MoveContext)
    (hk : t.moves.get k = some c) : ∃ d, s.moves.get k = some d ∧ d.index = c.index ∧ d.target = c.target :=
  ⟨c, h ▸ hk, rfl, rfl⟩

/-- Contexts that are the old ones but for stage and requester, or free. -/
theorem State.moves_of_bare {s t : State} {k : CtxIx}
    (h : (t.moves.get k).map MoveContext.bare = (s.moves.get k).map MoveContext.bare) {c : MoveContext}
    (hk : t.moves.get k = some c) : ∃ d, s.moves.get k = some d ∧ d.index = c.index ∧ d.target = c.target := by
  rw [hk, Option.map_some, eq_comm, Option.map_eq_some_iff] at h
  obtain ⟨d, hd, e⟩ := h
  exact ⟨d, hd, (congrArg MoveContext.index e : d.bare.index = c.bare.index),
    (congrArg MoveContext.target e : d.bare.target = c.bare.target)⟩

theorem State.moves_of_set_none {s t : State} {j : CtxIx} (h : t.moves = s.moves.set j none) (k : CtxIx)
    (c : MoveContext) (hk : t.moves.get k = some c) :
    ∃ d, s.moves.get k = some d ∧ d.index = c.index ∧ d.target = c.target := by
  rw [h, Table.get_set] at hk
  split at hk
  · cases hk
  · exact ⟨c, hk, rfl, rfl⟩

theorem State.moves_of_set_stage {s t : State} {j : CtxIx} {c : MoveContext} {stage : Stage}
    (hj : s.moves.get j = some c) (h : t.moves = s.moves.set j (some { c with stage := stage })) (k : CtxIx)
    (d : MoveContext) (hk : t.moves.get k = some d) :
    ∃ e, s.moves.get k = some e ∧ e.index = d.index ∧ e.target = d.target := by
  rw [h, Table.get_set] at hk
  split at hk
  · next e =>
    subst e
    cases hk
    exact ⟨c, hj, rfl, rfl⟩
  · exact ⟨d, hk, rfl, rfl⟩

theorem Record.holding_of_alloc_map {r : Record} (f : Reservation → Reservation) (ho : ∀ a, (f a).owner = a.owner)
    (hs : ∀ a, r.alloc = some a → setTotal (f a).set = setTotal a.set) :
    Record.holding { r with alloc := r.alloc.map f } = r.holding := by
  unfold Record.holding
  dsimp only
  cases h : r.alloc with
  | none => rfl
  | some a => simp [ho, hs a h]

/-- A change of a record's fields that keeps its owner and its total. -/
theorem State.holding_of_modify {s t : State} {j : RecIx} {f : Reservation → Reservation}
    (h : t.pool.records = s.pool.records.modify j fun r => { r with alloc := r.alloc.map f })
    (ho : ∀ a, (f a).owner = a.owner) (hs : ∀ a, s.reservation j = some a → setTotal (f a).set = setTotal a.set)
    (i : RecIx) : (t.pool.records.get i).holding = (s.pool.records.get i).holding := by
  rw [h, Table.get_modify]
  split
  · next e => subst e; exact Record.holding_of_alloc_map f ho hs
  · rfl

theorem State.poolTakeReport_holding (s : State) (i : RecIx) :
    (s.poolTakeReport.pool.records.get i).holding = (s.pool.records.get i).holding := by
  cases hp : s.reports.pool with
  | nil => rw [State.poolTakeReport_of_none hp]
  | cons r rest =>
    rw [State.poolTakeReport_of_cons hp]
    refine State.foldl_keeps _ (fun u => (u.pool.records.get i).holding) (fun u e => ?_) _ _
    rw [State.promoteRecord_records]
    exact Record.holding_of_alloc_map _ (fun a => by split <;> rfl) fun a _ => by split <;> rfl

@[simp] theorem State.poolTakeReport_work (s : State) : s.poolTakeReport.engine.work = s.engine.work := by simp

@[simp] theorem State.removePortEntries_work (p : Port) (s : State) :
    (s.removePortEntries p).engine.work = s.engine.work := by simp

/-- A release takes the record's total out of its owner's slots. -/
theorem State.releaseRecord_totalsAgree {i : RecIx} {a : Reservation} (cause : Cause) (releasing : Option Port) {s : State}
    (hi : s.reservation i = some a) (h : s.TotalsAgree) : (s.releaseRecord i cause releasing).TotalsAgree := by
  rw [State.totalsAgree_iff] at h ⊢
  obtain ⟨owned, targets, relocates⟩ := h
  have records (j : RecIx) : ((s.releaseRecord i cause releasing).pool.records.get j).holding =
      if i = j then none else (s.pool.records.get j).holding := by
    rw [State.releaseRecord_pool cause releasing hi, Table.get_set]
    split <;> rfl
  have within : s.HoldingsWithin (s.releaseRecord i cause releasing) := fun j x hx => by
    rw [records] at hx
    split at hx
    · cases hx
    · exact hx
  refine ⟨fun p => ?_, targets.kept within fun k c hk => ?_, relocates.kept (.inl ?_) within⟩
  · have step := sum_add_of_eq_off (i := i) (f := fun j => slotsHeldBy p (s.pool.records.get j).holding)
      (g := fun j => slotsHeldBy p ((s.releaseRecord i cause releasing).pool.records.get j).holding)
      fun j hj => by rw [records, if_neg (Ne.symm hj)]
    rw [records, if_pos rfl, State.holding_of_reservation hi] at step
    rw [State.releaseRecord_others p cause releasing hi]
    dsimp only
    rw [owned p]
    simp only [slotsHeldBy, Option.elim_none, Option.elim_some] at step
    by_cases e : a.owner = p <;> simp only [e, if_true, if_false] at step ⊢ <;> unfold slotsHeldBy <;> omega
  · have moves := State.releaseRecord_moves cause releasing hi
    cases hc : s.contextOf a with
    | none => rw [hc] at moves; exact State.same_moves moves k c hk
    | some x => rw [hc] at moves; exact State.moves_of_set_none moves k c hk
  · rw [State.releaseRecord_engine cause releasing hi]

theorem State.cutoverMove_totalsAgree {k : CtxIx} {c : MoveContext} (m : Word) {s : State} (hk : s.moves.get k = some c)
    (h : s.TotalsAgree) : (s.cutoverMove k c m).TotalsAgree := by
  have targets := h.2.1
  cases hr : s.reservation c.index with
  | none =>
    rw [State.cutoverMove_of_none hr]
    exact h.congr (fun _ => rfl) (fun _ => rfl) (State.moves_of_set_none rfl) (.inl rfl)
  | some a =>
    refine h.congr (State.holding_of_modify
        (f := fun b => { b with state := .live, context := none, set := c.target })
        (by rw [State.cutoverMove_pool hr]) (fun _ => rfl) fun b hb => ?_)
      (fun p => by rw [State.cutoverMove_others]) (State.moves_of_set_none (State.cutoverMove_moves hr))
      (.inl (by rw [State.cutoverMove_engine]))
    exact targets k c b hk hb

/-- A grant adds the record's total to its owner's slots. -/
theorem State.grant_totalsAgree {s : State} (pool : s.PoolAgrees) (moves : s.MovesAgree) (h : s.TotalsAgree)
    (idle : s.engine.work = .idle) {i : RecIx} {rest : List RecIx} (fifo : s.pool.fifo = i :: rest) (owner : Port)
    (cls : ResClass) (set : List Run) (lease : Nat) (ticket : Option Byte) (place : Placement) :
    (s.grant i rest owner cls set lease ticket place).TotalsAgree := by
  rw [State.totalsAgree_iff] at h ⊢
  obtain ⟨owned, targets, -⟩ := h
  have free : (s.pool.records.get i).alloc = none := (pool.2.1 i).mp (by rw [fifo]; exact List.mem_cons_self)
  have records (j : RecIx) : ((s.grant i rest owner cls set lease ticket place).pool.records.get j).holding =
      if i = j then some ((s.pool.records.get i).gen, owner, setTotal set) else (s.pool.records.get j).holding := by
    rw [State.grant_pool, Table.get_set]
    split <;> rfl
  refine ⟨fun p => ?_, fun k c a hk ha => ?_, State.relocatesTotal_of_work fun c hc => ?_⟩
  · have step := sum_add_of_eq_off (i := i) (f := fun j => slotsHeldBy p (s.pool.records.get j).holding)
      (g := fun j => slotsHeldBy p ((s.grant i rest owner cls set lease ticket place).pool.records.get j).holding)
      fun j hj => by rw [records, if_neg (Ne.symm hj)]
    have none : (s.pool.records.get i).holding = none := by rw [Record.holding, free]; rfl
    rw [records, if_pos rfl, none] at step
    rw [State.grant_ports, Table.get_modify]
    simp only [slotsHeldBy, Option.elim_none, Option.elim_some] at step
    have before := owned p
    unfold slotsHeldBy at before ⊢
    by_cases e : owner = p
    · rw [if_pos e]
      rw [if_pos e] at step
      dsimp only
      omega
    · rw [if_neg e]
      rw [if_neg e] at step
      omega
  · rw [State.grant_moves] at hk
    obtain ⟨b, hb, -, -⟩ := moves.1 k c hk
    have ne : i ≠ c.index := fun e => by rw [e, hb] at free; cases free
    rw [State.reservation, State.grant_pool] at ha
    dsimp only at ha
    rw [Table.get_set_ne _ _ ne] at ha
    exact targets k c a hk ha
  · rw [State.grant_engine] at hc
    rw [idle] at hc
    cases hc

theorem State.Quiet.totalsAgree {s t : State} (q : s.Quiet t) (h : s.TotalsAgree) : t.TotalsAgree :=
  h.congr (fun i => by rw [q.records]) q.slots (State.same_moves q.moves) q.work

/-- RELOCATE begins its search for the total of the record it names (R66, R106). -/
theorem State.begins_relocatesTotal {c : Command} {s : State} (passed : s.answerAtTaking c.port c.req = none)
    (scan : c.scan = s.beginScan c.req) : (s.setWork (.command c)).RelocatesTotal := by
  intro d q i a hw hq names
  cases hw
  have lookup := State.lookup_of_names (s := s) names
  rw [hq] at passed scan
  unfold State.answerAtTaking at passed
  split at passed
  · cases passed
  · simp only [State.relocateAtTaking, lookup] at passed
    split at passed
    · cases passed
    · split at passed
      · next fits =>
        refine ⟨_, scan.trans (by simp only [State.beginScan, State.relocateScan, lookup]; rfl), rfl, rfl, ?_⟩
        intro runs hp
        simp only [SearchArgs.fits, RelocateArgs.search, hp, Bool.and_eq_true, decide_eq_true_eq] at fits
        exact fits.2
      · cases passed

/-- A granted RELOCATE takes a target of the record's total (R66, R108). -/
theorem State.beginMove_totalsAgree {c : Command} {q : RelocateArgs} {k : CtxIx} {i : RecIx} {a : Reservation}
    {set : List Run} {s : State} (stage : Stage) (owned : Bool) (work : s.engine.work = .command c)
    (hq : c.req = .relocate q) (names : s.Names q.handle i a)
    (found : (s.setWork .idle).searchResult c (q.search (setTotal a.set)) = some set) (h : s.TotalsAgree) :
    ((s.setWork .idle).beginMove k ⟨i, q.handle.gen, some (c.port, c.tag), stage, set⟩ owned).TotalsAgree := by
  rw [State.totalsAgree_iff] at h ⊢
  obtain ⟨slots, targets, relocates⟩ := h
  obtain ⟨sc, scan, n, place, at_⟩ := relocates c q i a work hq names
  have total : setTotal set = setTotal a.set := by
    rw [← n]
    refine Scan.setTotal_of_finish (sc := sc) (free := s.map.isFree) ?_ fun runs hp => at_ runs (place ▸ hp)
    simpa [State.searchResult, scan] using found
  have records := State.holding_of_modify (s := s) (j := i)
    (t := (s.setWork .idle).beginMove k ⟨i, q.handle.gen, some (c.port, c.tag), stage, set⟩ owned)
    (f := fun b => { b with state := .moving, context := some k })
    (by rw [State.beginMove_pool]; rfl) (fun _ => rfl) (fun _ _ => rfl)
  refine ⟨slots.congr records fun p => by simp, fun j d b hj hb => ?_, State.relocatesTotal_of_work fun d hd => ?_⟩
  · obtain ⟨b', hb', -, same⟩ := (State.HoldingsWithin.of_eq records).reservation hb
    rw [State.beginMove_moves, Table.get_set] at hj
    rw [← same]
    split at hj
    · cases hj
      have : b' = a := Option.some_inj.mp (hb'.symm.trans names.2.1)
      rw [this]
      exact total
    · exact targets j d b' hj hb'
  · rw [State.beginMove_engine] at hd
    cases hd

theorem State.reads_totalsAgree {c : Command} {sc : Scan} {free : Nat → Bool} {s : State}
    (work : s.engine.work = .command c) (scan : c.scan = some sc) (h : s.TotalsAgree) :
    (s.setWork (.command { c with scan := some (sc.readNext free) })).TotalsAgree := by
  have args : (sc.readNext free).args = sc.args := by
    unfold Scan.readNext
    split <;> rfl
  refine ⟨h.1, h.2.1, fun d q i a hw hq names => ?_⟩
  cases hw
  obtain ⟨sc', e, n, place, at_⟩ := h.2.2 c q i a work hq names
  rw [scan, Option.some_inj] at e
  subst e
  exact ⟨_, rfl, by rw [args]; exact n, by rw [args]; exact place, by rw [args]; exact at_⟩

theorem State.Act.keeps_totals {s t : State} (a : State.Act s t) (h : s.TotalsAgree) : t.TotalsAgree := by
  cases a with
  | quiet q => exact q.totalsAgree h
  | begins c passed scan => exact ⟨h.1, h.2.1, State.begins_relocatesTotal passed scan⟩
  | reads c sc work scan => exact State.reads_totalsAgree work scan h
  | beginsPass => exact ⟨h.1, h.2.1, State.relocatesTotal_of_work fun c hc => by cases hc⟩
  | advances => exact ⟨h.1, h.2.1, State.relocatesTotal_of_work fun c hc => by cases hc⟩
  | relocates c q k i a set work hq names _ _ found => exact State.beginMove_totalsAgree _ _ work hq names found h
  | releases i a cause releasing hi => exact State.releaseRecord_totalsAgree cause releasing hi h
  | abandons k c reason stamp mute hk _ =>
    exact h.congr (State.holding_of_modify (by rw [State.abandonMove_pool reason stamp mute hk])
        (fun _ => by exact rfl) fun _ _ => by exact rfl)
      (fun p => by rw [State.abandonMove_others])
      (State.moves_of_set_none (State.abandonMove_moves reason stamp mute hk))
      (.inl (by rw [State.abandonMove_engine reason stamp mute hk]))
  | arms k c hk _ =>
    exact h.congr (fun i => by simp) (fun p => by rw [State.claim_others]; rfl)
      (State.moves_of_set_stage hk (by rw [State.claim_moves]; rfl)) (.inl (by simp))
  | counts k c stage hk _ => exact h.congr (fun _ => rfl) (fun _ => rfl) (State.moves_of_set_stage hk rfl) (.inl rfl)
  | cutsOver k c n o m hk _ => exact State.cutoverMove_totalsAgree m hk h
  | drops p =>
    refine h.congr (fun i => by simp) (fun _ => by simp) (fun k c hk => ?_) (.inl (by simp))
    simp only [State.dropRequester, Table.get_map] at hk
    split at hk
    · next hd => split at hk <;> cases hk <;> exact ⟨_, hd, rfl, rfl⟩
    · cases hk
  | bars =>
    exact h.congr (fun i => by simp) (fun p => by rw [State.claim_others]) (State.same_moves (by simp)) (.inl (by simp))
  | unbars =>
    exact h.congr (fun i => by simp) (fun p => by rw [State.claim_others]) (State.same_moves (by simp)) (.inl (by simp))
  | leases i l =>
    exact h.congr (State.holding_of_modify (by rw [State.modReservation_pool]) (fun _ => by exact rfl)
      fun _ _ => by exact rfl) (fun _ => rfl) (State.same_moves rfl) (.inl rfl)
  | enters =>
    refine h.congr (fun _ => rfl) (fun p => ?_) (State.same_moves rfl) (.inl rfl)
    rw [State.makeEntry_ports, Table.get_modify]
    split <;> rfl
  | leaves =>
    refine h.congr (fun _ => rfl) (fun p => ?_) (State.same_moves rfl) (.inl rfl)
    rw [State.removeEntry_ports, Table.get_modify]
    split <;> rfl
  | leavesAll =>
    refine h.congr (fun _ => by simp) (fun p => ?_) (State.same_moves (by simp)) (.inl (by simp))
    rw [State.removePortEntries_ports, Table.get_modify]
    split <;> rfl
  | countsWaits m =>
    exact h.congr (fun _ => by simp) (fun p => (State.waitReaction_owned m s p).1) (State.same_moves (by simp))
      (.inl (by simp))
  | promotes =>
    exact h.congr (State.poolTakeReport_holding s) (fun p => by rw [State.poolTakeReport_others])
      (State.same_moves (by simp)) (.inl (by simp))
  | overlaps =>
    exact h.congr (fun _ => by simp) (fun p => by rw [State.moveTakeReport_others])
      (fun k c hk => State.moves_of_bare (State.moveTakeReport_bare s k) hk) (.inl (by simp))

/-- The pool whole, records and contexts paired, and the totals right. -/
def State.HoldingsWhole (s : State) : Prop := s.PoolAgrees ∧ s.MovesAgree ∧ s.TotalsAgree

theorem State.Quiet.holdingsWhole {s t : State} (q : s.Quiet t) (h : s.HoldingsWhole) : t.HoldingsWhole :=
  ⟨q.poolAgrees h.1, h.2.1.of_eq q.records q.moves, q.totalsAgree h.2.2⟩

theorem State.grantTrial_work (s : State) (x : Trial) : (s.grantTrial x).engine.work = s.engine.work := by
  unfold State.grantTrial
  split
  · rfl
  · split
    · split
      · rfl
      · simp [State.grantEntry]
    · rfl

theorem State.grantTrial_totalsAgree (s : State) (x : Trial) (idle : s.engine.work = .idle) (h : s.HoldingsWhole) :
    (s.grantTrial x).TotalsAgree := by
  obtain ⟨pool, moves, totals⟩ := h
  unfold State.grantTrial
  split
  · exact totals
  · next e _ =>
    split
    · split
      · exact totals
      · next i rest fifo =>
        have granted := State.grant_totalsAgree pool moves totals idle fifo e.port e.cls x.set e.lease (some e.ticket)
          e.search.place
        refine (State.grantReports_quiet _ _).totalsAgree ((State.post_quiet _ _ _ _ _).totalsAgree
          (granted.congr (fun _ => rfl) (fun p => ?_) (State.same_moves rfl) (.inl rfl)))
        rw [State.removeEntry_ports, Table.get_modify]
        split <;> rfl
    · exact totals

theorem State.powerOn_totalsAgree (low : Bool) (right : Nat → Bool) (s : State) : (s.powerOn low right).TotalsAgree := by
  have records (i : RecIx) : (s.powerOn low right).pool.records.get i = ⟨0#8, none⟩ := Table.get_replicate _ i
  have moves (k : CtxIx) : (s.powerOn low right).moves.get k = none := Table.get_replicate _ k
  rw [State.totalsAgree_iff]
  refine ⟨fun p => ?_, fun k c a hk => ?_, State.relocatesTotal_of_work fun c hc => by cases hc⟩
  · rw [State.powerOn_ports]
    simp [records, Record.holding, slotsHeldBy, ClientPort.reset]
  · rw [moves] at hk
    cases hk

theorem State.mapTakeMark_work (s : State) : s.mapTakeMark.engine.work = s.engine.work := by
  unfold State.mapTakeMark
  split
  · split
    · rfl
    · simp only [State.mapReaction, State.reportChanges_engine, State.handPromotion]
      split <;> rfl
  · rfl

theorem State.mapTakeMark_totalsAgree {s : State} (h : s.TotalsAgree) : s.mapTakeMark.TotalsAgree :=
  h.congr (fun _ => by simp) (fun p => by rw [State.mapTakeMark_others]) (State.same_moves (by simp))
    (.inl s.mapTakeMark_work)

theorem State.Does.keeps_totals {s t : State} (d : s.Does t) (h : s.HoldingsWhole) : t.TotalsAgree := by
  cases d with
  | acts a => exact a.keeps (fun _ _ a => a.keeps_totals) h.2.2
  | afterMap a => exact a.keeps (fun _ _ a => a.keeps_totals) (State.mapTakeMark_totalsAgree h.2.2)
  | reserves c a i rest set _ _ fifo _ q =>
    obtain ⟨pool, moves, totals⟩ := s.setWork_idle_quiet.holdingsWhole h
    exact q.totalsAgree (State.grant_totalsAgree pool moves totals rfl fifo _ _ _ _ _ _)
  | completes p _ =>
    have all := State.foldl_invariant (P := fun u => u.engine.work = .idle ∧ u.HoldingsWhole) State.grantTrial
      (fun u x h => ⟨(State.grantTrial_work u x).trans h.1, State.grantTrial_poolAgrees u x h.2.1,
        (State.grantTrial_wholeMoves u x ⟨h.2.1, h.2.2.1⟩).2, State.grantTrial_totalsAgree u x h.1 h.2⟩)
      (s.finishTrials p).trials (s := s.setWork .idle) ⟨rfl, s.setWork_idle_quiet.holdingsWhole h⟩
    exact all.2.2.2
  | powers low right => exact State.powerOn_totalsAgree low right s

/-- Settles O53: a grant and a release move the FIFO and the holdings together, a move takes a target of the total that its search
was given, and a cutover exchanges sets of one total. -/
theorem poolStaysWhole : Obligations.PoolStaysWhole := by
  unfold Obligations.PoolStaysWhole
  refine ⟨fun s t h e => step_keeps (fun _ _ h => h) (fun _ _ d => d.keeps_pool) h e, fun s t pool moves totals e => ?_⟩
  exact (step_keeps (P := State.HoldingsWhole) (fun _ _ h => h)
    (fun _ _ d h => ⟨d.keeps_pool h.1, d.keeps_moves h.1 h.2.1, d.keeps_totals h⟩) ⟨pool, moves, totals⟩ e).2.2

end Sys2Proof.Machine
end

section
/-! PROOFS. Frame marks, promotion reports, the image and the owner lines: what every command but those of the frame leaves as it is
(chapter 5, R10, R89, R90, R93, R94). -/

namespace Sys2Proof.Machine

/-! ## The part of the state that frame timing speaks of -/

/-- The frame timing with the owner lines, the marks and promotion reports still to be taken, and of the map the image, its mark and the
carry list. -/
def State.frameSide (s : State) : FrameTiming × OutstandingMarks × List PromotionReport × List PromotionReport ×
    Table (Option Port) 512 × Option Word × List CarryEntry :=
  (s.timing, s.marks, s.reports.pool, s.reports.move, s.map.image, s.map.imageMark, s.map.carry)

@[simp] theorem State.setWork_frameSide (w : Work) (s : State) : (s.setWork w).frameSide = s.frameSide := rfl

@[simp] theorem State.modPort_frameSide (p : Port) (f : ClientPort → ClientPort) (s : State) :
    (s.modPort p f).frameSide = s.frameSide := rfl

@[simp] theorem State.answer_frameSide (p : Port) (tag : Byte) (st : Status) (b : List Byte) (s : State) :
    (s.answer p tag st b).frameSide = s.frameSide := rfl

@[simp] theorem State.requestPass_frameSide (s : State) : s.requestPass.frameSide = s.frameSide := rfl

@[simp] theorem State.handReport_frameSide (r : Report) (s : State) : (s.handReport r).frameSide = s.frameSide := rfl

@[simp] theorem State.moveRover_frameSide (pl : Placement) (set : List Run) (s : State) :
    (s.moveRover pl set).frameSide = s.frameSide := rfl

@[simp] theorem State.setUnit_frameSide (k : UnitIx) (u : Option WatchUnit) (s : State) :
    (s.setUnit k u).frameSide = s.frameSide := rfl

@[simp] theorem State.setMove_frameSide (k : CtxIx) (c : Option MoveContext) (s : State) :
    (s.setMove k c).frameSide = s.frameSide := rfl

@[simp] theorem State.modReservation_frameSide (i : RecIx) (f : Reservation → Reservation) (s : State) :
    (s.modReservation i f).frameSide = s.frameSide := rfl

@[simp] theorem State.makeEntry_frameSide (e : WaitEntry) (s : State) : (s.makeEntry e).frameSide = s.frameSide := rfl

@[simp] theorem State.removeEntry_frameSide (e : WaitEntry) (s : State) : (s.removeEntry e).frameSide = s.frameSide := rfl

@[simp] theorem State.post_frameSide (mute : Option Port) (m : Word) (b : EventBody) (p : Port) (s : State) :
    (s.post mute m b p).frameSide = s.frameSide := by
  simp [State.frameSide]

@[simp] theorem State.postNotices_frameSide (mute : Option Port) (m : Word) (b : EventBody) (s : State) :
    (s.postNotices mute m b).frameSide = s.frameSide := rfl

@[simp] theorem State.postEach_frameSide (mute : Option Port) (m : Word) (b : EventBody) (ps : List Port) (s : State) :
    (s.postEach mute m b ps).frameSide = s.frameSide := by
  simp [State.frameSide]

@[simp] theorem State.claim_frameSide (mute : Option Port) (f : Nat → Slot → Slot) (s : State) :
    (s.claim mute f).frameSide = s.frameSide := by
  simp [State.frameSide]

@[simp] theorem State.grant_frameSide (i : RecIx) (rest : List RecIx) (p : Port) (cls : ResClass) (set : List Run)
    (l : Nat) (tk : Option Byte) (pl : Placement) (s : State) :
    (s.grant i rest p cls set l tk pl).frameSide = s.frameSide := by
  simp [State.frameSide]

@[simp] theorem State.grantReports_frameSide (i : RecIx) (s : State) : (s.grantReports i).frameSide = s.frameSide := by
  simp [State.frameSide]

@[simp] theorem State.releaseRecord_frameSide (i : RecIx) (cause : Cause) (releasing : Option Port) (s : State) :
    (s.releaseRecord i cause releasing).frameSide = s.frameSide := by
  cases h : s.reservation i with
  | none => rw [State.releaseRecord_none i cause releasing s h]
  | some a =>
    simp [State.frameSide, State.releaseRecord_map cause releasing h, State.releaseRecord_reports cause releasing h]

@[simp] theorem State.abandonMove_frameSide (k : CtxIx) (reason : Reason) (stamp : Word) (mute : Option Port)
    (s : State) : (s.abandonMove k reason stamp mute).frameSide = s.frameSide := by
  cases h : s.moves.get k with
  | none => rw [State.abandonMove_none k reason stamp mute s h]
  | some c =>
    simp [State.frameSide, State.abandonMove_map reason stamp mute h, State.abandonMove_reports reason stamp mute h]

@[simp] theorem State.resetDealings_frameSide (p : Port) (s : State) : (s.resetDealings p).frameSide = s.frameSide := by
  simp [State.frameSide]

@[simp] theorem State.resetRecord_frameSide (p : Port) (policy : ResetPolicy) (s : State) (i : RecIx) :
    (s.resetRecord p policy i).frameSide = s.frameSide := by
  unfold State.resetRecord
  split
  · cases policy with
    | reclaim => simp
    | retain =>
      dsimp only
      split
      · split <;> simp
      · rfl
  · rfl

@[simp] theorem State.portReset_frameSide (p : Port) (s : State) : (s.portReset p).frameSide = s.frameSide := by
  unfold State.portReset
  dsimp only
  rw [State.foldl_keeps _ State.frameSide (State.resetRecord_frameSide p _), State.resetDealings_frameSide]

@[simp] theorem State.takeReport_frameSide (r : Report) (s : State) : (s.takeReport r).frameSide = s.frameSide := by
  simp [State.frameSide]

@[simp] theorem State.takeAllReports_frameSide (s : State) : s.takeAllReports.frameSide = s.frameSide := by
  simp [State.frameSide]

@[simp] theorem State.barRun_frameSide (r : Run) (s : State) : (s.barRun r).frameSide = s.frameSide := by
  unfold State.barRun
  rw [State.foldl_keeps _ State.frameSide (fun t k => State.abandonMove_frameSide _ _ _ _ t), State.claim_frameSide]

@[simp] theorem State.grantTrial_frameSide (s : State) (x : Trial) : (s.grantTrial x).frameSide = s.frameSide := by
  unfold State.grantTrial
  split
  · rfl
  · split
    · split
      · rfl
      · simp [State.grantEntry]
    · rfl

@[simp] theorem State.takeCommand_frameSide (p : Port) (q : QueuedCommand) (s : State) :
    (s.takeCommand p q).frameSide = s.frameSide := by
  unfold State.takeCommand
  dsimp only
  split
  · rfl
  · split <;> rfl

/-! ## Completions -/

/-- A completion leaves the frame side as it is where its effect does. -/
theorem State.complete_frameSide (pick : Request → Option (Command → State → State))
    (hr : ∀ r run, pick r = some run → ∀ c s, (run c s).frameSide = s.frameSide) (s : State) :
    (s.complete pick).frameSide = s.frameSide :=
  State.complete_keeps State.frameSide State.setWork_frameSide State.answer_frameSide pick hr s

section
variable (c : Command) (s : State)

theorem State.reserveCompletion_frameSide (a : ReserveArgs) : (s.reserveCompletion a c).frameSide = s.frameSide := by
  unfold State.reserveCompletion
  split
  · simp
  · split
    · simp
    · split
      · unfold State.reserveNoRoom
        split
        · simp
        · dsimp only
          split <;> simp
      · simp
      · simp [State.reserveGrant]

theorem State.releaseCompletion_frameSide (h : Handle) : (s.releaseCompletion h c).frameSide = s.frameSide := by
  unfold State.releaseCompletion
  split
  · simp
  · split <;> simp

theorem State.forceCompletion_frameSide (h : Handle) : (s.forceCompletion h c).frameSide = s.frameSide := by
  unfold State.forceCompletion
  split <;> simp

theorem State.renewCompletion_frameSide (h : Handle) (n : Nat) : (s.renewCompletion h n c).frameSide = s.frameSide := by
  unfold State.renewCompletion
  split
  · simp
  · split
    · split <;> simp
    · simp

theorem State.queryCompletion_frameSide (h : Handle) : (s.queryCompletion h c).frameSide = s.frameSide := by
  unfold State.queryCompletion
  split <;> simp

theorem State.cancelCompletion_frameSide (t : Byte) : (s.cancelCompletion t c).frameSide = s.frameSide := by
  unfold State.cancelCompletion
  split
  · simp
  · split <;> simp

theorem State.relocateCompletion_frameSide (q : RelocateArgs) : (s.relocateCompletion q c).frameSide = s.frameSide := by
  unfold State.relocateCompletion
  split
  · simp
  · split
    · simp
    · split
      · simp
      · split
        · simp
        · split
          · simp
          · unfold State.relocateGrant
            dsimp only
            split <;> simp

theorem State.confirmCompletion_frameSide (h : Handle) : (s.confirmCompletion h c).frameSide = s.frameSide := by
  unfold State.confirmCompletion
  split <;> simp

theorem State.declineCompletion_frameSide (h : Handle) : (s.declineCompletion h c).frameSide = s.frameSide := by
  unfold State.declineCompletion
  split <;> simp

theorem State.setWatchCompletion_frameSide (a : SetWatchArgs) : (s.setWatchCompletion a c).frameSide = s.frameSide := by
  unfold State.setWatchCompletion
  split <;> simp

theorem State.clearWatchCompletion_frameSide (k : UnitIx) : (s.clearWatchCompletion k c).frameSide = s.frameSide := by
  unfold State.clearWatchCompletion
  split
  · simp
  · split <;> simp

theorem State.rearmWatchCompletion_frameSide (k : UnitIx) : (s.rearmWatchCompletion k c).frameSide = s.frameSide := by
  unfold State.rearmWatchCompletion
  split
  · simp
  · split
    · simp
    · split <;> simp

theorem State.setPortCompletion_frameSide (p : Port) (attrs : Attributes) :
    (s.setPortCompletion p attrs c).frameSide = s.frameSide := by
  unfold State.setPortCompletion
  dsimp only
  split <;> simp

theorem State.resetPortCompletion_frameSide (p : Port) : (s.resetPortCompletion p c).frameSide = s.frameSide := by
  unfold State.resetPortCompletion
  dsimp only
  split <;> simp

end

/-! ## Commands that do not belong to the frame -/

/-- The commands of power, of frame timing, of the reactions to a mark and of promotion reports. -/
def Instr.framing : Instr → Bool
  | .powerOnReset => true
  | .resetRelease _ => true
  | .frameStart => true
  | .syncWatchTimeout => true
  | .slotEdge => true
  | .slotMapFrameReaction => true
  | .drainComplete _ => true
  | .promotionReportPool => true
  | .promotionReportMove => true
  | .leaseCounterReaction => true
  | .leaseExpiry _ => true
  | .moveUnitFrameReaction => true
  | .confirmTimeout _ => true
  | .cutover _ => true
  | .waitListFrameReaction => true
  | .waitExpiry _ => true
  | _ => false

theorem State.answerLocal_frameSide (p : Port) (code : Byte) (run : QueuedCommand → State → State)
    (hr : ∀ q s, (run q s).frameSide = s.frameSide) (s : State) : (s.answerLocal p code run).frameSide = s.frameSide :=
  State.answerLocal_keeps State.frameSide p code run hr s

theorem State.completePass_frameSide (p : Pass) (s : State) : (s.completePass p).frameSide = s.frameSide := by
  unfold State.completePass
  rw [State.foldl_keeps _ State.frameSide State.grantTrial_frameSide, State.setWork_frameSide]

/-- A completion, from the effect of the one request it reads. -/
theorem State.frameSide_of_complete {pick : Request → Option (Command → State → State)} {s t : State}
    (h : Host.Outcome.next (φ := Fault) (ρ := Refusal) (s.complete pick) = .next t)
    (hr : ∀ r run, pick r = some run → ∀ c s, (run c s).frameSide = s.frameSide) : t.frameSide = s.frameSide := by
  cases h
  exact State.complete_frameSide pick hr s

theorem exec_frameSide {c : Instr} {s t : State} (h : exec c s = .next t) (hc : Instr.framing c = false) :
    t.frameSide = s.frameSide := by
  cases c with
  | powerOnReset | resetRelease | frameStart | syncWatchTimeout | slotEdge | slotMapFrameReaction | drainComplete
    | promotionReportPool | promotionReportMove | leaseCounterReaction | leaseExpiry | moveUnitFrameReaction
    | confirmTimeout | cutover | waitListFrameReaction | waitExpiry => cases hc
  | transferStart p => cases h; rfl
  | faultedTransfer p b => cases h; split <;> rfl
  | commandTransfer p octets rest => cases h; split <;> rfl
  | collectChoice p => cases h; unfold State.chooseResponse; split <;> rfl
  | collectEnd p edges => cases h; split <;> rfl
  | engineTakeCommand =>
    cases h
    split
    · rfl
    · unfold State.engineTake
      split
      · rfl
      · split
        · rfl
        · exact State.takeCommand_frameSide _ _ s
  | reserve =>
    refine State.frameSide_of_complete h fun r run hp c s => ?_
    split at hp <;> cases hp
    exact State.reserveCompletion_frameSide c s _
  | release =>
    refine State.frameSide_of_complete h fun r run hp c s => ?_
    split at hp <;> cases hp
    exact State.releaseCompletion_frameSide c s _
  | renew =>
    refine State.frameSide_of_complete h fun r run hp c s => ?_
    split at hp <;> cases hp
    exact State.renewCompletion_frameSide c s _ _
  | queryReservation =>
    refine State.frameSide_of_complete h fun r run hp c s => ?_
    split at hp <;> cases hp
    exact State.queryCompletion_frameSide c s _
  | listOwned =>
    refine State.frameSide_of_complete h fun r run hp c s => ?_
    split at hp <;> cases hp
    rfl
  | readMap =>
    refine State.frameSide_of_complete h fun r run hp c s => ?_
    split at hp <;> cases hp
    rfl
  | cancelWait =>
    refine State.frameSide_of_complete h fun r run hp c s => ?_
    split at hp <;> cases hp
    exact State.cancelCompletion_frameSide c s _
  | relocate =>
    refine State.frameSide_of_complete h fun r run hp c s => ?_
    split at hp <;> cases hp
    exact State.relocateCompletion_frameSide c s _
  | confirmMove =>
    refine State.frameSide_of_complete h fun r run hp c s => ?_
    split at hp <;> cases hp
    exact State.confirmCompletion_frameSide c s _
  | declineMove =>
    refine State.frameSide_of_complete h fun r run hp c s => ?_
    split at hp <;> cases hp
    exact State.declineCompletion_frameSide c s _
  | setWatch =>
    refine State.frameSide_of_complete h fun r run hp c s => ?_
    split at hp <;> cases hp
    exact State.setWatchCompletion_frameSide c s _
  | clearWatch =>
    refine State.frameSide_of_complete h fun r run hp c s => ?_
    split at hp <;> cases hp
    exact State.clearWatchCompletion_frameSide c s _
  | rearmWatch =>
    refine State.frameSide_of_complete h fun r run hp c s => ?_
    split at hp <;> cases hp
    exact State.rearmWatchCompletion_frameSide c s _
  | bar =>
    refine State.frameSide_of_complete h fun r run hp c s => ?_
    split at hp <;> cases hp
    exact State.barRun_frameSide _ s
  | unbar =>
    refine State.frameSide_of_complete h fun r run hp c s => ?_
    split at hp <;> cases hp
    exact State.claim_frameSide _ _ s
  | forceRelease =>
    refine State.frameSide_of_complete h fun r run hp c s => ?_
    split at hp <;> cases hp
    exact State.forceCompletion_frameSide c s _
  | setParam =>
    refine State.frameSide_of_complete h fun r run hp c s => ?_
    split at hp <;> cases hp
    rfl
  | setPort =>
    refine State.frameSide_of_complete h fun r run hp c s => ?_
    split at hp <;> cases hp
    exact State.setPortCompletion_frameSide c s _ _
  | resetPort =>
    refine State.frameSide_of_complete h fun r run hp c s => ?_
    split at hp <;> cases hp
    exact State.resetPortCompletion_frameSide c s _
  | readParams =>
    refine State.frameSide_of_complete h fun r run hp c s => ?_
    split at hp <;> cases hp
    rfl
  | fetchEvents p =>
    cases h
    refine State.answerLocal_frameSide p _ _ (fun q s => ?_) s
    unfold State.fetchAnswer
    split <;> rfl
  | readStatus p =>
    cases h
    refine State.answerLocal_frameSide p _ _ (fun q s => ?_) s
    unfold State.statusAnswer
    split <;> rfl
  | selfReset p =>
    cases h
    refine State.answerLocal_frameSide p _ _ (fun q s => ?_) s
    unfold State.selfResetAnswer
    split
    · rw [State.modPort_frameSide, State.portReset_frameSide]
    · exact State.answer_frameSide p _ _ _ s
  | echo p => cases h; exact State.answerLocal_frameSide p _ _ (fun _ _ => by exact rfl) s
  | waitPassBegin =>
    cases h
    split
    · rfl
    · unfold State.beginPass
      dsimp only
      split <;> rfl
  | waitPassCompletion =>
    cases h
    split
    · rfl
    · split
      · exact State.completePass_frameSide _ s
      · rfl
      · rfl
  | watchReport =>
    cases h
    split
    · rfl
    · split
      · exact State.takeReport_frameSide _ _
      · rfl
      · rfl
  | recordReport =>
    cases h
    split
    · rfl
    · split
      · exact State.takeReport_frameSide _ _
      · rfl
      · rfl

theorem State.idleStep_frameSide (s : State) : s.idleStep.frameSide = s.frameSide := by
  unfold State.idleStep
  split
  · rfl
  · split <;> rfl
  · rfl

end Sys2Proof.Machine
end

section
/-! PROOFS. What is due of a mark, and the owner lines, under every step (chapter 5, R10, R89 to R94; log 11). -/

namespace Sys2Proof.Machine

/-! ## The reactions, at the frame side -/

theorem State.countLease_frameSide (m : Word) (s : State) (i : RecIx) : (s.countLease m i).frameSide = s.frameSide := by
  unfold State.countLease
  split
  · rfl
  · split
    · rfl
    · dsimp only
      split <;> split <;> simp

theorem State.leaseReaction_frameSide (m : Word) (s : State) : (s.leaseReaction m).frameSide = s.frameSide :=
  State.foldl_keeps _ State.frameSide (State.countLease_frameSide m) _ _

theorem State.waitReaction_frameSide (m : Word) (s : State) : (s.waitReaction m).frameSide = s.frameSide := by
  simp [State.frameSide]

/-- The frame side of one state is that of another but for more carry entries: at most `n`, each for mark `m`, and none where the Slot
Map has latched that mark (R10). -/
def State.Carries (m : Word) (n : Nat) (s t : State) : Prop :=
  ∃ es : List CarryEntry, es.length ≤ n ∧ (∀ e ∈ es, e.mark = m) ∧ (s.map.imageMark = some m → es = []) ∧
    t.frameSide = State.frameSide { s with map := { s.map with carry := s.map.carry ++ es } }

theorem State.Carries.of_frameSide {m : Word} {n : Nat} {s t : State} (h : t.frameSide = s.frameSide) : s.Carries m n t :=
  ⟨[], Nat.zero_le n, by simp, fun _ => rfl, by rw [h]; simp [State.frameSide]⟩

theorem State.Carries.trans {m : Word} {n k : Nat} {s t u : State} (h : s.Carries m n t) (g : t.Carries m k u) :
    s.Carries m (n + k) u := by
  obtain ⟨es, le, marks, latched, side⟩ := h
  obtain ⟨fs, le', marks', latched', side'⟩ := g
  simp only [State.frameSide, Prod.mk.injEq] at side
  obtain ⟨e1, e2, e3, e4, e5, e6, e7⟩ := side
  refine ⟨es ++ fs, by rw [List.length_append]; exact Nat.add_le_add le le', fun e he => ?_, fun hm => ?_, ?_⟩
  · rcases List.mem_append.mp he with h | h
    · exact marks e h
    · exact marks' e h
  · rw [latched hm, latched' (e6.trans hm), List.append_nil]
  · rw [side']
    simp only [State.frameSide, e1, e2, e3, e4, e5, e6, e7, List.append_assoc]

theorem State.cutoverMove_carries (k : CtxIx) (c : MoveContext) (m : Word) (s : State) :
    s.Carries m 1 (s.cutoverMove k c m) := by
  cases h : s.reservation c.index with
  | none => rw [State.cutoverMove_of_none h]; exact .of_frameSide rfl
  | some a =>
    by_cases latched : s.map.imageMark = some m
    · refine .of_frameSide ?_
      simp [State.cutoverMove, h, SlotMap.addCarry, latched, State.frameSide]
    · refine ⟨[⟨m, a.owner, a.set⟩], Nat.le_refl 1, by simp, fun e => absurd e latched, ?_⟩
      simp [State.cutoverMove, h, SlotMap.addCarry, latched, State.frameSide]

theorem State.countContext_carries (m : Word) (s : State) (k : CtxIx) : s.Carries m 1 (s.countContext m k) := by
  unfold State.countContext
  split
  · exact .of_frameSide rfl
  · split
    · split
      · exact .of_frameSide (State.abandonMove_frameSide k .timeout m none s)
      · exact .of_frameSide rfl
    · exact .of_frameSide rfl
    · split
      · exact .of_frameSide rfl
      · split
        · exact State.cutoverMove_carries _ _ m s
        · exact .of_frameSide rfl

/-- The Move Unit's reaction makes at most one carry entry for each context, for its own mark (R10, R116). -/
theorem State.moveReaction_carries (m : Word) (s : State) : s.Carries m 4 (s.moveReaction m) := by
  have fold : ∀ (ks : List CtxIx) (u : State), u.Carries m ks.length (ks.foldl (State.countContext m) u) := by
    intro ks
    induction ks with
    | nil => intro u; exact .of_frameSide rfl
    | cons k ks ih =>
      intro u
      rw [List.length_cons, Nat.add_comm]
      exact (State.countContext_carries m u k).trans (ih _)
  exact fold allContexts s

theorem State.promoteRecord_frameSide (m : Word) (s : State) (e : RecIx × Role) :
    (s.promoteRecord m e).frameSide = s.frameSide := by
  unfold State.promoteRecord
  split
  · rfl
  · split
    · rfl
    · dsimp only
      split
      · simp
      · rfl

theorem State.startOverlap_frameSide (m : Word) (s : State) (e : RecIx × Role) :
    (s.startOverlap m e).frameSide = s.frameSide := by
  unfold State.startOverlap
  split
  · rfl
  · split
    · rfl
    · simp

/-! ## Taking, at the frame side -/

theorem State.poolTakeReport_frameSide (s : State) : s.poolTakeReport.frameSide =
    State.frameSide { s with reports := { s.reports with pool := s.reports.pool.tail } } := by
  cases h : s.reports.pool with
  | nil => rw [State.poolTakeReport_of_none h]; simp [State.frameSide, h]
  | cons r rest =>
    rw [State.poolTakeReport_of_cons h]
    exact State.foldl_keeps _ State.frameSide (State.promoteRecord_frameSide r.mark) _ _

theorem State.moveTakeReport_frameSide (s : State) : s.moveTakeReport.frameSide =
    State.frameSide { s with reports := { s.reports with move := s.reports.move.tail } } := by
  cases h : s.reports.move with
  | nil => rw [State.moveTakeReport_of_none h]; simp [State.frameSide, h]
  | cons r rest =>
    rw [State.moveTakeReport_of_cons h]
    exact State.foldl_keeps _ State.frameSide (State.startOverlap_frameSide r.mark) _ _

theorem State.leaseTakeMark_frameSide (s : State) : s.leaseTakeMark.frameSide =
    State.frameSide { s with marks :=
      { s.marks with lease := if s.takesMarks then s.marks.lease.tail else s.marks.lease } } := by
  by_cases ht : s.takesMarks = true
  · rw [if_pos ht]
    cases h : s.marks.lease with
    | nil => rw [State.leaseTakeMark_of_none h, List.tail_nil, ← h]
    | cons m rest => rw [State.leaseTakeMark_of_cons ht h, State.leaseReaction_frameSide]; rfl
  · rw [if_neg ht, State.leaseTakeMark_of_notTaking (by simpa using ht)]

theorem State.waitTakeMark_frameSide (s : State) : s.waitTakeMark.frameSide =
    State.frameSide { s with marks :=
      { s.marks with wait := if s.takesMarks then s.marks.wait.tail else s.marks.wait } } := by
  by_cases ht : s.takesMarks = true
  · rw [if_pos ht]
    cases h : s.marks.wait with
    | nil => rw [State.waitTakeMark_of_none h, List.tail_nil, ← h]
    | cons m rest => rw [State.waitTakeMark_of_cons ht h, State.waitReaction_frameSide]; rfl
  · rw [if_neg ht, State.waitTakeMark_of_notTaking (by simpa using ht)]

/-! ## Marks of one frame -/

/-- At most one mark or report is due at each block, the last. -/
structure State.DueOnce (s : State) : Prop where
  slotMap : s.marks.slotMap = [] ∨ s.marks.slotMap = [s.timing.lastMark] ∧ s.timing.sync = .locked
  lease : s.marks.lease = [] ∨ s.marks.lease = [s.timing.lastMark] ∧ s.timing.sync = .locked
  move : s.marks.move = [] ∨ s.marks.move = [s.timing.lastMark] ∧ s.timing.sync = .locked
  wait : s.marks.wait = [] ∨ s.marks.wait = [s.timing.lastMark] ∧ s.timing.sync = .locked
  pool : s.reports.pool = [] ∨ ∃ promoted, s.reports.pool = [⟨s.timing.lastMark, promoted⟩]
  moves : s.reports.move = [] ∨ ∃ promoted, s.reports.move = [⟨s.timing.lastMark, promoted⟩]

/-- Up to the Slot Map's latch of the last mark (R90). -/
structure State.BeforeLatch (s : State) : Prop where
  counter : s.timing.frameCounter = s.timing.lastMark - 1#16
  index : s.timing.slotIndex = .none
  image : s.map.imageMark ≠ some s.timing.lastMark
  pool : s.reports.pool = []
  moves : s.reports.move = []

/-- After the Slot Map's latch of the last mark (R90). -/
structure State.AfterLatch (s : State) : Prop where
  counter : s.timing.frameCounter = s.timing.lastMark
  image : if s.timing.sync = .searching then s.map.imageMark = none else s.map.imageMark = some s.timing.lastMark
  carry : s.map.carry = []

/-- The carry list is of the last mark, after the Move Unit's reaction to it (R10). -/
structure State.CarryAgrees (s : State) : Prop where
  noMove : s.map.carry ≠ [] → s.marks.move = []
  marks : ∀ e ∈ s.map.carry, e.mark = s.timing.lastMark
  few : s.map.carry.length ≤ 4

theorem State.marksAgree_iff (s : State) : s.MarksAgree ↔
    s.DueOnce ∧ (s.marks.slotMap ≠ [] → s.BeforeLatch) ∧ (s.marks.slotMap = [] → s.AfterLatch) ∧ s.CarryAgrees := by
  constructor
  · rintro ⟨due, before, after, reports, noMove, marks, few⟩
    refine ⟨⟨due _ (by simp), due _ (by simp), due _ (by simp), due _ (by simp), reports _ (by simp),
      reports _ (by simp)⟩, fun h => ?_, fun h => ?_, noMove, marks, few⟩
    · obtain ⟨counter, index, image, pool, moves⟩ := before h
      exact ⟨counter, index, image, pool, moves⟩
    · obtain ⟨counter, image, carry⟩ := after h
      exact ⟨counter, image, carry⟩
  · rintro ⟨due, before, after, carry⟩
    refine ⟨fun l hl => ?_, fun h => ?_, fun h => ?_, fun l hl => ?_, carry.noMove, carry.marks, carry.few⟩
    · simp only [List.mem_cons, List.not_mem_nil, or_false] at hl
      rcases hl with rfl | rfl | rfl | rfl
      · exact due.slotMap
      · exact due.lease
      · exact due.move
      · exact due.wait
    · have b := before h
      exact ⟨b.counter, b.index, b.image, b.pool, b.moves⟩
    · have a := after h
      exact ⟨a.counter, a.image, a.carry⟩
    · simp only [List.mem_cons, List.not_mem_nil, or_false] at hl
      rcases hl with rfl | rfl
      · exact due.pool
      · exact due.moves

theorem State.MarksAgree.dueOnce {s : State} (h : s.MarksAgree) : s.DueOnce := (s.marksAgree_iff.mp h).1

theorem State.MarksAgree.beforeLatch {s : State} (h : s.MarksAgree) (hm : s.marks.slotMap ≠ []) : s.BeforeLatch :=
  (s.marksAgree_iff.mp h).2.1 hm

theorem State.MarksAgree.afterLatch {s : State} (h : s.MarksAgree) (hm : s.marks.slotMap = []) : s.AfterLatch :=
  (s.marksAgree_iff.mp h).2.2.1 hm

theorem State.MarksAgree.carryAgrees {s : State} (h : s.MarksAgree) : s.CarryAgrees := (s.marksAgree_iff.mp h).2.2.2

theorem State.MarksAgree.congr {s t : State} (h : s.MarksAgree) (e : t.frameSide = s.frameSide) : t.MarksAgree := by
  simp only [State.frameSide, Prod.mk.injEq] at e
  obtain ⟨e1, e2, e3, e4, -, e6, e7⟩ := e
  unfold State.MarksAgree at h ⊢
  rw [e1, e2, e3, e4, e6, e7]
  exact h

/-- Less is due: a mark of a block other than the Slot Map, or a promotion report, is taken and nothing else of the frame moves. -/
theorem State.MarksAgree.taken {s t : State} (h : s.MarksAgree) (timing : t.timing = s.timing)
    (image : t.map.imageMark = s.map.imageMark) (carry : t.map.carry = s.map.carry)
    (slotMap : t.marks.slotMap = s.marks.slotMap)
    (lease : t.marks.lease = s.marks.lease ∨ t.marks.lease = []) (move : t.marks.move = s.marks.move ∨ t.marks.move = [])
    (wait : t.marks.wait = s.marks.wait ∨ t.marks.wait = []) (pool : t.reports.pool = s.reports.pool ∨ t.reports.pool = [])
    (moves : t.reports.move = s.reports.move ∨ t.reports.move = []) : t.MarksAgree := by
  have less : ∀ {α : Type} {p : List α → Prop} {l k : List α}, (l = k ∨ l = []) → p k → p [] → p l := by
    rintro α p l k (rfl | rfl) hk hn
    · exact hk
    · exact hn
  have due := h.dueOnce
  have cs := h.carryAgrees
  refine t.marksAgree_iff.mpr ⟨⟨?_, ?_, ?_, ?_, ?_, ?_⟩, fun hs => ?_, fun hs => ?_, fun hc => ?_, ?_, ?_⟩
  · rw [slotMap, timing]; exact due.slotMap
  · rw [timing]; exact less (p := fun l => l = [] ∨ l = _ ∧ _) lease due.lease (.inl rfl)
  · rw [timing]; exact less (p := fun l => l = [] ∨ l = _ ∧ _) move due.move (.inl rfl)
  · rw [timing]; exact less (p := fun l => l = [] ∨ l = _ ∧ _) wait due.wait (.inl rfl)
  · rw [timing]; exact less (p := fun l => l = [] ∨ ∃ p, l = [⟨s.timing.lastMark, p⟩]) pool due.pool (.inl rfl)
  · rw [timing]; exact less (p := fun l => l = [] ∨ ∃ p, l = [⟨s.timing.lastMark, p⟩]) moves due.moves (.inl rfl)
  · rw [slotMap] at hs
    have b := h.beforeLatch hs
    exact ⟨by rw [timing]; exact b.counter, by rw [timing]; exact b.index, by rw [timing, image]; exact b.image,
      less (p := fun l => l = []) pool b.pool rfl, less (p := fun l => l = []) moves b.moves rfl⟩
  · rw [slotMap] at hs
    have a := h.afterLatch hs
    exact ⟨by rw [timing]; exact a.counter, by rw [timing, image]; exact a.image, by rw [carry]; exact a.carry⟩
  · rw [carry] at hc
    exact less (p := fun l => l = []) move (cs.noMove hc) rfl
  · rw [carry, timing]; exact cs.marks
  · rw [carry]; exact cs.few

theorem State.takesMarks_iff (s : State) : s.takesMarks = true ↔ s.resetLow = false ∧ s.timing.sync = .locked := by
  simp [State.takesMarks]

/-- The promotion report due of mark `m`, none where nothing is promoted (R17). -/
def SlotMap.promotions (m : Word) (map : SlotMap) : List PromotionReport :=
  if map.promotedSets.isEmpty then [] else [⟨m, map.promotedSets⟩]

theorem SlotMap.promotions_once (m : Word) (map : SlotMap) :
    map.promotions m = [] ∨ ∃ p, map.promotions m = [⟨m, p⟩] := by
  unfold SlotMap.promotions
  split
  · exact .inl rfl
  · exact .inr ⟨_, rfl⟩

theorem State.mapReaction_promotions (m : Word) (s : State) :
    (s.mapReaction m).reports.pool = s.reports.pool ++ s.map.promotions m ∧
      (s.mapReaction m).reports.move = s.reports.move ++ s.map.promotions m := by
  simp only [State.mapReaction, State.reportChanges_reports, State.handPromotion, SlotMap.promotions]
  split <;> simp

section
variable {s : State} (h : s.MarksAgree)
include h

theorem State.MarksAgree.poolTaken : s.poolTakeReport.MarksAgree := by
  refine State.MarksAgree.congr (h.taken (t := { s with reports := { s.reports with pool := s.reports.pool.tail } })
    rfl rfl rfl rfl (.inl rfl) (.inl rfl) (.inl rfl) (.inr ?_) (.inl rfl)) s.poolTakeReport_frameSide
  rcases h.dueOnce.pool with e | ⟨p, e⟩ <;> simp [e]

theorem State.MarksAgree.movesTaken : s.moveTakeReport.MarksAgree := by
  refine State.MarksAgree.congr (h.taken (t := { s with reports := { s.reports with move := s.reports.move.tail } })
    rfl rfl rfl rfl (.inl rfl) (.inl rfl) (.inl rfl) (.inl rfl) (.inr ?_)) s.moveTakeReport_frameSide
  rcases h.dueOnce.moves with e | ⟨p, e⟩ <;> simp [e]

theorem State.MarksAgree.leaseTaken : s.leaseTakeMark.MarksAgree := by
  refine State.MarksAgree.congr (h.taken (t := { s with marks :=
      { s.marks with lease := if s.takesMarks then s.marks.lease.tail else s.marks.lease } })
    rfl rfl rfl rfl ?_ (.inl rfl) (.inl rfl) (.inl rfl) (.inl rfl)) s.leaseTakeMark_frameSide
  show (if s.takesMarks then s.marks.lease.tail else s.marks.lease) = _ ∨ _ = []
  split
  · right
    rcases h.dueOnce.lease with e | ⟨e, -⟩ <;> simp [e]
  · exact .inl rfl

theorem State.MarksAgree.waitTaken : s.waitTakeMark.MarksAgree := by
  refine State.MarksAgree.congr (h.taken (t := { s with marks :=
      { s.marks with wait := if s.takesMarks then s.marks.wait.tail else s.marks.wait } })
    rfl rfl rfl rfl (.inl rfl) (.inl rfl) ?_ (.inl rfl) (.inl rfl)) s.waitTakeMark_frameSide
  show (if s.takesMarks then s.marks.wait.tail else s.marks.wait) = _ ∨ _ = []
  split
  · right
    rcases h.dueOnce.wait with e | ⟨e, -⟩ <;> simp [e]
  · exact .inl rfl

/-- The Move Unit's reaction: the carry list was empty, for its mark was still due. -/
theorem State.MarksAgree.moveTaken : s.moveTakeMark.MarksAgree := by
  by_cases ht : s.takesMarks = true
  case neg => rw [State.moveTakeMark_of_notTaking (by simpa using ht)]; exact h
  rcases h.dueOnce.move with hm | ⟨hm, -⟩
  · rw [State.moveTakeMark_of_none hm]; exact h
  rw [State.moveTakeMark_of_cons ht hm]
  obtain ⟨es, le, marks, latched, side⟩ :=
    State.moveReaction_carries s.timing.lastMark { s with marks := { s.marks with move := [] } }
  have noCarry : s.map.carry = [] := by
    by_contra hc
    rw [h.carryAgrees.noMove hc] at hm
    cases hm
  simp only [noCarry, List.nil_append] at side
  have drained := h.taken (t := { s with marks := { s.marks with move := [] } }) rfl rfl rfl rfl (.inl rfl) (.inr rfl)
    (.inl rfl) (.inl rfl) (.inl rfl)
  refine State.MarksAgree.congr (s := { s with
      marks := { s.marks with move := [] }, map := { s.map with carry := es } }) ((State.marksAgree_iff _).mpr
    ⟨⟨drained.dueOnce.slotMap, drained.dueOnce.lease, .inl rfl, drained.dueOnce.wait, drained.dueOnce.pool,
        drained.dueOnce.moves⟩,
      fun hs => ?_, fun hs => ?_, fun _ => rfl, marks, le⟩) side
  · have b := h.beforeLatch hs
    exact ⟨b.counter, b.index, b.image, b.pool, b.moves⟩
  · have a := h.afterLatch hs
    refine ⟨a.counter, a.image, latched ?_⟩
    have locked := (s.takesMarks_iff.mp ht).2
    simpa [locked] using a.image

/-- The Slot Map's reaction to the last mark. -/
theorem State.MarksAgree.mapTaken : s.mapTakeMark.MarksAgree := by
  by_cases ht : s.takesMarks = true
  case neg => rw [State.mapTakeMark_of_notTaking (by simpa using ht)]; exact h
  rcases h.dueOnce.slotMap with hm | ⟨hm, locked⟩
  · rw [State.mapTakeMark_of_none hm]; exact h
  have b := h.beforeLatch (by rw [hm]; exact List.cons_ne_nil _ _)
  have noCarry : (s.map.carry.filter fun e => e.mark ≠ s.timing.lastMark) = [] :=
    List.filter_eq_nil_iff.mpr fun e he => by simpa using h.carryAgrees.marks e he
  have carry : s.mapTakeMark.map.carry = [] := by
    rw [State.mapTakeMark_of_cons ht hm, State.mapReaction_map]
    exact noCarry
  have pool : s.mapTakeMark.reports.pool = s.map.promotions s.timing.lastMark := by
    rw [State.mapTakeMark_of_cons ht hm, (State.mapReaction_promotions _ _).1]
    exact congrArg (· ++ _) b.pool
  have moves : s.mapTakeMark.reports.move = s.map.promotions s.timing.lastMark := by
    rw [State.mapTakeMark_of_cons ht hm, (State.mapReaction_promotions _ _).2]
    exact congrArg (· ++ _) b.moves
  have timing : s.mapTakeMark.timing = { s.timing with frameCounter := s.timing.lastMark } := by
    rw [State.mapTakeMark_of_cons ht hm, State.mapReaction_timing]
  have marks : s.mapTakeMark.marks = { s.marks with slotMap := [] } := by
    rw [State.mapTakeMark_of_cons ht hm, State.mapReaction_marks]
  have due := h.dueOnce
  refine (State.marksAgree_iff _).mpr ⟨⟨?_, ?_, ?_, ?_, ?_, ?_⟩, ?_, fun _ => ⟨?_, ?_, carry⟩, ?_, ?_, ?_⟩
  · rw [marks]; exact .inl rfl
  · rw [marks, timing]; exact due.lease
  · rw [marks, timing]; exact due.move
  · rw [marks, timing]; exact due.wait
  · rw [pool, timing]; exact SlotMap.promotions_once _ _
  · rw [moves, timing]; exact SlotMap.promotions_once _ _
  · rw [marks]; exact fun hs => absurd rfl hs
  · rw [timing]
  · rw [State.mapTakeMark_of_cons ht hm, State.mapReaction_map, State.mapReaction_timing, if_neg (by simp [locked])]
    rfl
  · rw [carry]; exact fun hc => absurd rfl hc
  · rw [carry]; simp
  · rw [carry]; simp

end

/-! ## A frame start, the loss of frame timing, a slot edge and power -/

/-- Nothing of the last mark is due any more. -/
structure State.NothingDue (s : State) : Prop where
  marks : s.marks = ⟨[], [], [], []⟩
  pool : s.reports.pool = []
  moves : s.reports.move = []

theorem State.takesMarks_congr {s t : State} (reset : t.resetLow = s.resetLow) (sync : t.timing.sync = s.timing.sync) :
    t.takesMarks = s.takesMarks := by
  rw [State.takesMarks, State.takesMarks, reset, sync]

theorem State.mapTakeMark_takesMarks (s : State) : s.mapTakeMark.takesMarks = s.takesMarks :=
  State.takesMarks_congr s.mapTakeMark_resetLow (by rw [State.mapTakeMark_timing])

/-- A move reaction leaves the promotion reports. -/
theorem State.moveTakeMark_promotions (s : State) :
    s.moveTakeMark.reports.pool = s.reports.pool ∧ s.moveTakeMark.reports.move = s.reports.move := by
  by_cases ht : s.takesMarks = true
  case neg => rw [State.moveTakeMark_of_notTaking (by simpa using ht)]; exact ⟨rfl, rfl⟩
  cases hm : s.marks.move with
  | nil => rw [State.moveTakeMark_of_none hm]; exact ⟨rfl, rfl⟩
  | cons m rest =>
    rw [State.moveTakeMark_of_cons ht hm]
    obtain ⟨es, -, -, -, side⟩ := State.moveReaction_carries m { s with marks := { s.marks with move := rest } }
    simp only [State.frameSide, Prod.mk.injEq] at side
    obtain ⟨-, -, pool, moves, -⟩ := side
    exact ⟨pool, moves⟩

theorem State.leaseTakeMark_promotions (s : State) :
    s.leaseTakeMark.reports.pool = s.reports.pool ∧ s.leaseTakeMark.reports.move = s.reports.move := by
  have side := s.leaseTakeMark_frameSide
  simp only [State.frameSide, Prod.mk.injEq] at side
  obtain ⟨-, -, pool, moves, -⟩ := side
  exact ⟨pool, moves⟩

theorem State.moveTakeReport_promotions (s : State) :
    s.moveTakeReport.reports.pool = s.reports.pool ∧ s.moveTakeReport.reports.move = s.reports.move.tail := by
  have side := s.moveTakeReport_frameSide
  simp only [State.frameSide, Prod.mk.injEq] at side
  obtain ⟨-, -, pool, moves, -⟩ := side
  exact ⟨pool, moves⟩

theorem State.poolTakeReport_promotions (s : State) :
    s.poolTakeReport.reports.pool = s.reports.pool.tail ∧ s.poolTakeReport.reports.move = s.reports.move := by
  have side := s.poolTakeReport_frameSide
  simp only [State.frameSide, Prod.mk.injEq] at side
  obtain ⟨-, -, pool, moves, -⟩ := side
  exact ⟨pool, moves⟩

theorem State.settle_promotions (s : State) :
    s.settle.reports.pool = s.mapTakeMark.reports.pool.tail ∧ s.settle.reports.move = s.mapTakeMark.reports.move.tail := by
  simp only [State.settle, State.waitTakeMark_reports, (State.moveTakeMark_promotions _).1,
    (State.moveTakeMark_promotions _).2, (State.leaseTakeMark_promotions _).1, (State.leaseTakeMark_promotions _).2,
    (State.moveTakeReport_promotions _).1, (State.moveTakeReport_promotions _).2,
    (State.poolTakeReport_promotions _).1, (State.poolTakeReport_promotions _).2, and_self]

/-- The marks left after everything due is taken: those of the blocks that take none. -/
theorem State.settle_marks (s : State) : s.settle.marks = if s.takesMarks then
    ⟨s.marks.slotMap.tail, s.marks.lease.tail, s.marks.move.tail, s.marks.wait.tail⟩ else s.marks := by
  have e1 : s.mapTakeMark.poolTakeReport.moveTakeReport.takesMarks = s.takesMarks := by
    rw [← s.mapTakeMark_takesMarks]
    exact State.takesMarks_congr (by simp) (by simp)
  have e2 : s.mapTakeMark.poolTakeReport.moveTakeReport.leaseTakeMark.takesMarks = s.takesMarks := by
    rw [← e1]
    exact State.takesMarks_congr (by simp) (by simp)
  have e3 : s.mapTakeMark.poolTakeReport.moveTakeReport.leaseTakeMark.moveTakeMark.takesMarks = s.takesMarks := by
    rw [← e2]
    exact State.takesMarks_congr (by simp) (by simp)
  simp only [State.settle, State.waitTakeMark_marks, State.moveTakeMark_marks, State.leaseTakeMark_marks,
    State.moveTakeReport_marks, State.poolTakeReport_marks, State.mapTakeMark_marks, e1, e2, e3]
  split <;> rfl

theorem State.MarksAgree.settled {s : State} (h : s.MarksAgree) : s.settle.MarksAgree :=
  h.mapTaken.poolTaken.movesTaken.leaseTaken.moveTaken.waitTaken

section
variable {s : State} (h : s.MarksAgree) (high : s.resetLow = false)
include h high

theorem State.MarksAgree.taking : s.takesMarks = true ∨ s.marks = ⟨[], [], [], []⟩ := by
  by_cases locked : s.timing.sync = .locked
  · exact .inl (s.takesMarks_iff.mpr ⟨high, locked⟩)
  · right
    have due := h.dueOnce
    have none : ∀ {l : List Word}, l = [] ∨ l = [s.timing.lastMark] ∧ s.timing.sync = .locked → l = [] :=
      fun hl => hl.resolve_right fun x => locked x.2
    have e : s.marks = ⟨s.marks.slotMap, s.marks.lease, s.marks.move, s.marks.wait⟩ := rfl
    rw [e, none due.slotMap, none due.lease, none due.move, none due.wait]

/-- After everything due of the last mark is taken, nothing is due of it (R89, log 11). -/
theorem State.MarksAgree.settle_nothingDue : s.settle.NothingDue := by
  have due := h.dueOnce
  have due' := h.mapTaken.dueOnce
  constructor
  · have marks := s.settle_marks
    rcases h.taking high with ht | hm
    · rw [marks, if_pos ht]
      congr 1
      · rcases due.slotMap with e | ⟨e, -⟩ <;> rw [e] <;> rfl
      · rcases due.lease with e | ⟨e, -⟩ <;> rw [e] <;> rfl
      · rcases due.move with e | ⟨e, -⟩ <;> rw [e] <;> rfl
      · rcases due.wait with e | ⟨e, -⟩ <;> rw [e] <;> rfl
    · rw [marks, hm]
      split <;> rfl
  · rw [s.settle_promotions.1]
    rcases due'.pool with e | ⟨_, e⟩ <;> rw [e] <;> rfl
  · rw [s.settle_promotions.2]
    rcases due'.moves with e | ⟨_, e⟩ <;> rw [e] <;> rfl

end

/-- A new mark, numbered one above the last, of which everything is due and nothing done (R86, R89, R90). -/
theorem State.MarksAgree.accepted {s : State} (h : s.MarksAgree) (none : s.NothingDue) : s.acceptFrame.MarksAgree := by
  have a := h.afterLatch (by rw [none.marks])
  have next : s.timing.lastMark ≠ s.timing.lastMark + 1#16 := by simp
  refine State.MarksAgree.congr (s := { s with
      timing := s.timing.accept s.params.syncWindow, marks := s.marks.hand (s.timing.lastMark + 1#16) }) ?_ ?_
  · refine (State.marksAgree_iff _).mpr ⟨?_, fun _ => ⟨?_, rfl, ?_, none.pool, none.moves⟩, fun hs => ?_, ?_⟩
    · simp only [none.marks]
      exact ⟨.inr ⟨rfl, rfl⟩, .inr ⟨rfl, rfl⟩, .inr ⟨rfl, rfl⟩, .inr ⟨rfl, rfl⟩, .inl none.pool, .inl none.moves⟩
    · show s.timing.frameCounter = s.timing.lastMark + 1#16 - 1#16
      rw [a.counter, BitVec.add_sub_cancel]
    · show s.map.imageMark ≠ some (s.timing.lastMark + 1#16)
      have image := a.image
      split at image
      · rw [image]; simp
      · rw [image]; exact fun e => next (Option.some.inj e)
    · simp [OutstandingMarks.hand] at hs
    · have carry : s.map.carry = [] := a.carry
      constructor <;> simp [carry]
  · unfold State.acceptFrame
    dsimp only
    split
    · rfl
    · exact State.postNotices_frameSide Option.none _ .syncLocked _

/-- Frame timing is lost where nothing is due: the marks and the image stay (R88). -/
theorem State.MarksAgree.lost {s : State} (h : s.MarksAgree) (none : s.NothingDue) (locked : s.timing.sync = .locked) :
    s.loseSync.MarksAgree := by
  have a := h.afterLatch (by rw [none.marks])
  refine State.MarksAgree.congr (s := { s with timing := { s.timing with sync := .lost, timer := Option.none } }) ?_
    (State.postNotices_frameSide Option.none _ .syncLost _)
  refine (State.marksAgree_iff _).mpr ⟨?_, fun hs => ?_, fun _ => ⟨a.counter, ?_, a.carry⟩, ?_⟩
  · simp only [none.marks]
    exact ⟨.inl rfl, .inl rfl, .inl rfl, .inl rfl, .inl none.pool, .inl none.moves⟩
  · simp only [none.marks] at hs
    exact absurd rfl hs
  · have image := a.image
    rw [locked] at image
    exact image
  · have c := h.carryAgrees
    exact ⟨c.noMove, c.marks, c.few⟩

/-- No mark of the Slot Map is due after its reaction, where the part is out of SEARCHING and of reset. -/
theorem State.MarksAgree.mapTaken_none {s : State} (h : s.MarksAgree) (high : s.resetLow = false) :
    s.mapTakeMark.marks.slotMap = [] := by
  rw [State.mapTakeMark_marks]
  rcases h.taking high with ht | hm
  · rw [if_pos ht]
    rcases h.dueOnce.slotMap with e | ⟨e, -⟩ <;> rw [e] <;> rfl
  · rw [hm]
    split <;> rfl

theorem State.MarksAgree.edge {s : State} (h : s.MarksAgree) (high : s.resetLow = false) : s.takeEdge.MarksAgree := by
  have m := h.mapTaken
  have none := h.mapTaken_none high
  have a := m.afterLatch none
  have e : s.takeEdge.timing = (s.mapTakeMark.timing.edge).drive s.mapTakeMark.map.image := rfl
  refine (State.marksAgree_iff _).mpr ⟨?_, fun hs => absurd none hs, fun _ => ?_, ?_⟩
  · have d := m.dueOnce
    constructor <;> rw [e, FrameTiming.drive_eq]
    exacts [d.slotMap, d.lease, d.move, d.wait, d.pool, d.moves]
  · constructor
    · rw [e, FrameTiming.drive_eq]; exact a.counter
    · rw [e, FrameTiming.drive_eq]; exact a.image
    · exact a.carry
  · have c := m.carryAgrees
    refine ⟨c.noMove, ?_, c.few⟩
    rw [e, FrameTiming.drive_eq]
    exact c.marks

theorem State.powerOn_marksAgree (low : Bool) (right : Nat → Bool) (s : State) : (s.powerOn low right).MarksAgree :=
  (State.marksAgree_iff _).mpr ⟨⟨.inl rfl, .inl rfl, .inl rfl, .inl rfl, .inl rfl, .inl rfl⟩, fun h => absurd rfl h,
    fun _ => ⟨rfl, rfl, rfl⟩, ⟨fun _ => rfl, fun _ h => absurd h List.not_mem_nil, Nat.zero_le _⟩⟩

/-! ## What a step does to the frame side -/

/-- What a command does to frame timing, marks, promotion reports, image and carry list. -/
inductive State.Frames (s t : State) : Prop
  | keeps (h : t.frameSide = s.frameSide)
  | takesMap (h : t = s.mapTakeMark)
  | takesPool (h : t = s.poolTakeReport)
  | takesMoves (h : t = s.moveTakeReport)
  | takesLease (h : t = s.leaseTakeMark)
  | takesMove (h : t = s.moveTakeMark)
  | takesWait (h : t = s.waitTakeMark)
  | accepts (high : s.resetLow = false) (h : t = s.settle.acceptFrame)
  | loses (high : s.resetLow = false) (locked : s.timing.sync = .locked) (h : t = s.settle.loseSync)
  | edge (high : s.resetLow = false) (running : s.timing.sync ≠ .searching) (h : t = s.takeEdge)
  | powers (low : Bool) (right : Nat → Bool) (h : t = s.powerOn low right)

theorem exec_frames {c : Instr} {s t : State} (h : exec c s = .next t) : s.Frames t := by
  by_cases hc : Instr.framing c = false
  · exact .keeps (exec_frameSide h hc)
  cases c with
  | powerOnReset => cases h; exact .powers true _ rfl
  | resetRelease straps =>
    cases h
    split
    · exact .powers false _ rfl
    · exact .keeps rfl
  | frameStart =>
    cases h
    split
    · exact .keeps rfl
    · next high => exact .accepts (by simpa using high) rfl
  | syncWatchTimeout =>
    cases h
    split
    · next hs =>
      simp only [Bool.and_eq_true, Bool.not_eq_true', decide_eq_true_eq] at hs
      exact .loses hs.1.1 hs.1.2 rfl
    · exact .keeps rfl
  | slotEdge =>
    cases h
    split
    · exact .keeps rfl
    · next hs =>
      simp only [Bool.or_eq_true, decide_eq_true_eq, not_or, Bool.not_eq_true] at hs
      exact .edge hs.1 hs.2 rfl
  | slotMapFrameReaction => cases h; exact .takesMap rfl
  | drainComplete i =>
    cases h
    split
    · exact .takesMap rfl
    · exact .keeps rfl
  | promotionReportPool =>
    cases h
    split
    · exact .keeps rfl
    · exact .takesPool rfl
  | promotionReportMove =>
    cases h
    split
    · exact .keeps rfl
    · exact .takesMoves rfl
  | leaseCounterReaction => cases h; exact .takesLease rfl
  | leaseExpiry i =>
    cases h
    split
    · exact .takesLease rfl
    · exact .keeps rfl
  | moveUnitFrameReaction => cases h; exact .takesMove rfl
  | confirmTimeout k =>
    cases h
    split
    · exact .takesMove rfl
    · exact .keeps rfl
  | cutover k =>
    cases h
    split
    · exact .takesMove rfl
    · exact .keeps rfl
  | waitListFrameReaction => cases h; exact .takesWait rfl
  | waitExpiry ticket =>
    cases h
    split
    · exact .takesWait rfl
    · exact .keeps rfl
  | _ => exact absurd rfl hc

/-- A property of the frame side that every such change keeps is kept by every step. -/
theorem step_keeps_frame {P : State → Prop} (congr : ∀ s t : State, t.frameSide = s.frameSide → P s → P t)
    (h : ∀ s t : State, s.Frames t → P s → P t) {s t : State} (hs : P s) (e : step s = .next t) : P t := by
  unfold step at e
  split at e
  · cases e
    exact congr s _ s.idleStep_frameSide hs
  · next c rest _ => exact h _ t (exec_frames e) (congr s { s with pending := rest } rfl hs)

theorem State.Frames.keeps_marks {s t : State} (f : s.Frames t) (h : s.MarksAgree) : t.MarksAgree := by
  cases f with
  | keeps e => exact h.congr e
  | takesMap e => rw [e]; exact h.mapTaken
  | takesPool e => rw [e]; exact h.poolTaken
  | takesMoves e => rw [e]; exact h.movesTaken
  | takesLease e => rw [e]; exact h.leaseTaken
  | takesMove e => rw [e]; exact h.moveTaken
  | takesWait e => rw [e]; exact h.waitTaken
  | accepts high e => rw [e]; exact h.settled.accepted (h.settle_nothingDue high)
  | loses high locked e =>
    rw [e]
    exact h.settled.lost (h.settle_nothingDue high) (by rw [State.settle_timing]; exact locked)
  | edge high _ e => rw [e]; exact h.edge high
  | powers low right e => rw [e]; exact State.powerOn_marksAgree low right s

/-- Settles O57: what a command does to the frame side is one of a few changes, and each keeps marks, counter, image mark, promotion reports
and carry list those of one frame. -/
theorem marksStayCurrent : Obligations.MarksStayCurrent := by
  unfold Obligations.MarksStayCurrent
  intro s t h e
  exact step_keeps_frame (fun _ _ e h => h.congr e) (fun _ _ f => f.keeps_marks) h e

/-! ## The owner lines -/

theorem State.LinesAgree.congr {s t : State} (h : s.LinesAgree) (timing : t.timing = s.timing)
    (image : t.map.image = s.map.image) : t.LinesAgree := by
  unfold State.LinesAgree at h ⊢
  rw [timing, image]
  exact h

theorem State.LinesAgree.of_frameSide {s t : State} (h : s.LinesAgree) (e : t.frameSide = s.frameSide) :
    t.LinesAgree := by
  simp only [State.frameSide, Prod.mk.injEq] at e
  obtain ⟨timing, -, -, -, image, -⟩ := e
  exact h.congr timing image

/-- Between slots the lines name no port, whatever the image. -/
theorem State.linesAgree_of_none {s : State} (index : s.timing.slotIndex = .none) (low : s.timing.ownv = false)
    (own : s.timing.own = 0#3) : s.LinesAgree := by
  refine ⟨fun _ => index, ?_⟩
  rw [index]
  exact ⟨low, own⟩

section
variable {s : State} (h : s.LinesAgree)
include h

/-- The Slot Map latches a new image only while no slot is on the bus. -/
theorem State.LinesAgree.mapTaken (m : s.MarksAgree) : s.mapTakeMark.LinesAgree := by
  by_cases hm : s.marks.slotMap = []
  · rw [State.mapTakeMark_of_none hm]; exact h
  have index := (m.beforeLatch hm).index
  obtain ⟨-, lines⟩ := h
  rw [index] at lines
  apply State.linesAgree_of_none
  · rw [State.mapTakeMark_timing]; exact index
  · rw [State.mapTakeMark_timing]; exact lines.1
  · rw [State.mapTakeMark_timing]; exact lines.2

theorem State.LinesAgree.moveTaken : s.moveTakeMark.LinesAgree := by
  by_cases ht : s.takesMarks = true
  case neg => rw [State.moveTakeMark_of_notTaking (by simpa using ht)]; exact h
  cases hm : s.marks.move with
  | nil => rw [State.moveTakeMark_of_none hm]; exact h
  | cons m rest =>
    rw [State.moveTakeMark_of_cons ht hm]
    obtain ⟨es, -, -, -, side⟩ := State.moveReaction_carries m { s with marks := { s.marks with move := rest } }
    simp only [State.frameSide, Prod.mk.injEq] at side
    obtain ⟨timing, -, -, -, image, -⟩ := side
    exact h.congr timing image

theorem State.LinesAgree.leaseTaken : s.leaseTakeMark.LinesAgree :=
  State.LinesAgree.of_frameSide (s := { s with marks :=
    { s.marks with lease := if s.takesMarks then s.marks.lease.tail else s.marks.lease } }) (h.congr rfl rfl)
    s.leaseTakeMark_frameSide

end

theorem State.acceptFrame_timing (s : State) : s.acceptFrame.timing = s.timing.accept s.params.syncWindow := by
  unfold State.acceptFrame
  dsimp only
  split
  · rfl
  · simp

theorem State.settle_linesAgree {s : State} (h : s.LinesAgree) (m : s.MarksAgree) : s.settle.LinesAgree := by
  have taken : s.mapTakeMark.poolTakeReport.moveTakeReport.LinesAgree := (h.mapTaken m).congr (by simp) (by simp)
  exact taken.leaseTaken.moveTaken.congr (State.waitTakeMark_timing _) (by rw [State.settle, State.waitTakeMark_map])

/-- After the drive the lines name the port of the image for the slot on the bus (R93). -/
theorem State.driveLines_linesAgree {s : State} (running : s.timing.sync ≠ .searching) : s.driveLines.LinesAgree := by
  have sync : s.driveLines.timing.sync = s.timing.sync := by rw [State.driveLines_eq]
  refine ⟨fun e => absurd (sync ▸ e) running, ?_⟩
  show match (s.timing.drive s.map.image).slotIndex with
    | .slot i => (s.timing.drive s.map.image).ownv = (s.map.image.get i).isSome ∧
        (s.timing.drive s.map.image).own.toNat = (s.map.image.get i).elim 0 fun p => p.val
    | .none => (s.timing.drive s.map.image).ownv = false ∧ (s.timing.drive s.map.image).own = 0#3
    | .beyond => (s.timing.drive s.map.image).ownv = false ∧ (s.timing.drive s.map.image).own = 0#3
  unfold FrameTiming.drive
  cases hi : s.timing.slotIndex with
  | none => simp
  | beyond => simp
  | slot i =>
    cases hp : s.map.image.get i with
    | none => simp [hp]
    | some p => simp [hp]; omega

theorem State.Frames.keeps_lines {s t : State} (f : s.Frames t) (m : s.MarksAgree) (h : s.LinesAgree) :
    t.LinesAgree := by
  cases f with
  | keeps e => exact h.of_frameSide e
  | takesMap e => rw [e]; exact h.mapTaken m
  | takesPool e => rw [e]; exact h.congr (by simp) (by simp)
  | takesMoves e => rw [e]; exact h.congr (by simp) (by simp)
  | takesLease e => rw [e]; exact h.leaseTaken
  | takesMove e => rw [e]; exact h.moveTaken
  | takesWait e => rw [e]; exact h.congr (by simp) (by simp)
  | accepts _ e =>
    rw [e]
    apply State.linesAgree_of_none <;> rw [State.acceptFrame_timing] <;> rfl
  | loses _ locked e =>
    rw [e]
    obtain ⟨-, lines⟩ := State.settle_linesAgree h m
    have timing : s.settle.loseSync.timing = { s.settle.timing with sync := .lost, timer := none } := by
      simp [State.loseSync]
    refine ⟨fun hs => ?_, ?_⟩
    · rw [timing] at hs
      cases hs
    · have image : s.settle.loseSync.map = s.settle.map := by simp [State.loseSync]
      rw [timing, image]
      exact lines
  | edge _ running e =>
    rw [e]
    refine State.driveLines_linesAgree ?_
    show s.mapTakeMark.timing.sync ≠ .searching
    rw [State.mapTakeMark_timing]
    exact running
  | powers low right e => rw [e]; exact State.linesAgree_of_none rfl rfl rfl

/-- Settles O56: a new image is latched only while no slot is on the bus, and each slot edge drives the lines from the image in force. -/
theorem ownerLinesFollowImage : Obligations.OwnerLinesFollowImage := by
  unfold Obligations.OwnerLinesFollowImage
  intro s t m h e
  exact (step_keeps_frame (P := fun s => s.MarksAgree ∧ s.LinesAgree) (fun _ _ e h => ⟨h.1.congr e, h.2.of_frameSide e⟩)
    (fun _ _ f h => ⟨f.keeps_marks h.1, f.keeps_lines h.1 h.2⟩) ⟨m, h⟩ e).2

end Sys2Proof.Machine
end

section
/-! PROOFS. What the blocks' operations do to a port's queues and counters: no more than post events (R133, R134, R150 to R152). -/

namespace Sys2Proof.Machine

/-- Port `d` is port `c` after postings and fetches of events at most: commands, responses and tags as they were, the event queue and the
lost count inside their bounds where they were so. -/
structure ClientPort.Told (c d : ClientPort) : Prop where
  queue : d.queue = c.queue
  stored : d.stored = c.stored
  inFlight : d.inFlight = c.inFlight
  dropped : d.dropped = c.dropped
  faultCount : d.faultCount = c.faultCount
  events : c.events.length ≤ Config.eventDepth ∧ c.lost ≤ 255 → d.events.length ≤ Config.eventDepth ∧ d.lost ≤ 255

/-- The port as it was, but for parts that belong to no queue and no counter of the link. -/
theorem ClientPort.Told.of_eq {c d : ClientPort} (h : d = { c with
    link := d.link, lastFaulted := d.lastFaulted, attrs := d.attrs, admin := d.admin, ownedSlots := d.ownedSlots,
    ownedRecords := d.ownedRecords, promised := d.promised }) : c.Told d := by
  rw [h]
  exact ⟨rfl, rfl, rfl, rfl, rfl, id⟩

theorem ClientPort.Told.refl (c : ClientPort) : c.Told c := ⟨rfl, rfl, rfl, rfl, rfl, id⟩

theorem ClientPort.Told.trans {c d e : ClientPort} (h : c.Told d) (g : d.Told e) : c.Told e :=
  ⟨g.queue.trans h.queue, g.stored.trans h.stored, g.inFlight.trans h.inFlight, g.dropped.trans h.dropped,
    g.faultCount.trans h.faultCount, fun b => g.events (h.events b)⟩

theorem ClientPort.post_told (e : Event) (c : ClientPort) : c.Told (c.post e) := by
  unfold ClientPort.post
  split
  · next room =>
    refine ⟨rfl, rfl, rfl, rfl, rfl, fun h => ⟨?_, h.2⟩⟩
    rw [List.length_append]
    exact room
  · exact ⟨rfl, rfl, rfl, rfl, rfl, fun h => ⟨h.1, Nat.min_le_left _ _⟩⟩

theorem ClientPort.fetch_told (n : Nat) (c : ClientPort) : c.Told (c.fetch n) :=
  ⟨rfl, rfl, rfl, rfl, rfl, fun h => ⟨by
    simp only [ClientPort.fetch, List.length_drop]
    exact Nat.le_trans (Nat.sub_le _ _) h.1, Nat.zero_le _⟩⟩

theorem ClientPort.Told.answer {c d : ClientPort} (h : c.Told d) (tag : Byte) (st : Status) (body : List Byte) :
    (c.answer tag st body).Told (d.answer tag st body) := by
  unfold ClientPort.answer
  rw [h.queue]
  split
  · exact h
  · exact ⟨rfl, by simp only [h.stored], h.inFlight, h.dropped, h.faultCount, h.events⟩

/-! ## The state -/

/-- Every port is told no more than events, and the engine's work stays. -/
structure State.Told (s t : State) : Prop where
  ports : ∀ p, (s.ports.get p).Told (t.ports.get p)
  work : t.engine.work = s.engine.work

theorem State.Told.refl (s : State) : s.Told s := ⟨fun _ => .refl _, rfl⟩

theorem State.Told.trans {s t u : State} (h : s.Told t) (g : t.Told u) : s.Told u :=
  ⟨fun p => (h.ports p).trans (g.ports p), g.work.trans h.work⟩

/-- `State.Told.trans`, the second change named first. -/
theorem State.Told.after {s t u : State} (g : t.Told u) (h : s.Told t) : s.Told u := h.trans g

theorem State.told_of_ports {s t : State} (ports : t.ports = s.ports) (work : t.engine.work = s.engine.work) :
    s.Told t :=
  ⟨fun p => by rw [ports]; exact .refl _, work⟩

theorem State.foldl_told {α : Type} (f : State → α → State) (h : ∀ (s : State) a, s.Told (f s a)) (l : List α)
    (s : State) : s.Told (l.foldl f s) := by
  induction l generalizing s with
  | nil => exact .refl s
  | cons a l ih => exact (h s a).trans (ih _)

theorem State.modPort_told (p : Port) (f : ClientPort → ClientPort) (s : State) (h : ∀ c : ClientPort, c.Told (f c)) :
    s.Told (s.modPort p f) :=
  ⟨fun q => by
    rw [State.modPort_ports, Table.get_modify]
    split
    · exact h _
    · exact .refl _, rfl⟩

theorem State.Told.modPort {s t : State} (h : s.Told t) (p : Port) {f : ClientPort → ClientPort}
    (hf : ∀ c d : ClientPort, c.Told d → (f c).Told (f d)) : (s.modPort p f).Told (t.modPort p f) :=
  ⟨fun q => by
    rw [State.modPort_ports, State.modPort_ports, Table.get_modify, Table.get_modify]
    split
    · exact hf _ _ (h.ports q)
    · exact h.ports q, h.work⟩

theorem State.Told.answer {s t : State} (h : s.Told t) (p : Port) (tag : Byte) (st : Status) (body : List Byte) :
    (s.answer p tag st body).Told (t.answer p tag st body) :=
  h.modPort p fun _ _ hc => hc.answer tag st body

theorem State.post_told (mute : Option Port) (stamp : Word) (body : EventBody) (p : Port) (s : State) :
    s.Told (s.post mute stamp body p) := by
  unfold State.post
  split
  · exact .refl s
  · exact State.modPort_told p _ s (ClientPort.post_told _)

theorem State.postNotices_told (mute : Option Port) (stamp : Word) (body : EventBody) (s : State) :
    s.Told (s.postNotices mute stamp body) :=
  ⟨fun q => by
    rw [State.postNotices_ports]
    split
    · exact ClientPort.post_told _ _
    · exact .refl _, rfl⟩

theorem State.postEach_told (mute : Option Port) (stamp : Word) (body : EventBody) (ps : List Port) (s : State) :
    s.Told (s.postEach mute stamp body ps) :=
  State.foldl_told _ (fun t p => State.post_told mute stamp body p t) ps s

theorem State.reportChanges_told (mute : Option Port) (ch : List SlotChange) (s : State) :
    s.Told (s.reportChanges mute ch) :=
  ⟨fun q => by
    rw [State.reportChanges_ports]
    split
    · exact ClientPort.post_told _ _
    · exact .refl _, by rw [State.reportChanges_engine]⟩

theorem State.claim_told (mute : Option Port) (f : Nat → Slot → Slot) (s : State) : s.Told (s.claim mute f) :=
  State.Told.after (State.reportChanges_told mute _ _) (State.told_of_ports rfl rfl)

theorem State.handReport_told (r : Report) (s : State) : s.Told (s.handReport r) := State.told_of_ports rfl rfl

theorem State.requestPass_told (s : State) : s.Told s.requestPass := State.told_of_ports rfl rfl

theorem State.moveRover_told (place : Placement) (set : List Run) (s : State) : s.Told (s.moveRover place set) :=
  State.told_of_ports rfl rfl

theorem State.setMove_told (k : CtxIx) (c : Option MoveContext) (s : State) : s.Told (s.setMove k c) :=
  State.told_of_ports rfl rfl

theorem State.setUnit_told (k : UnitIx) (u : Option WatchUnit) (s : State) : s.Told (s.setUnit k u) :=
  State.told_of_ports rfl rfl

theorem State.modReservation_told (i : RecIx) (f : Reservation → Reservation) (s : State) :
    s.Told (s.modReservation i f) :=
  State.told_of_ports rfl rfl

theorem State.judgeWarning_told (s : State) : s.Told s.judgeWarning := by
  unfold State.judgeWarning
  split
  · exact State.Told.after (State.postNotices_told _ _ _ _) (State.told_of_ports rfl rfl)
  · exact .refl s

theorem State.judgeRecovery_told (mute : Option Port) (s : State) : s.Told (s.judgeRecovery mute) := by
  unfold State.judgeRecovery
  split
  · exact State.Told.after (State.postNotices_told _ _ _ _) (State.told_of_ports rfl rfl)
  · exact .refl s

theorem State.grantReports_told (i : RecIx) (s : State) : s.Told (s.grantReports i) :=
  State.Told.after (State.handReport_told _ _) (s.judgeWarning_told.trans (State.judgeRecovery_told none _))

theorem State.grant_told (i : RecIx) (rest : List RecIx) (owner : Port) (cls : ResClass) (set : List Run) (lease : Nat)
    (ticket : Option Byte) (place : Placement) (s : State) :
    s.Told (s.grant i rest owner cls set lease ticket place) := by
  unfold State.grant
  refine State.Told.after (State.moveRover_told _ _ _) (State.Told.after (State.claim_told _ _ _) ?_)
  exact State.Told.after (State.modPort_told owner _ _ fun _ => by exact .of_eq rfl) (State.told_of_ports rfl rfl)

theorem State.postCause_told (cause : Cause) (releasing : Option Port) (h : Handle) (a : Reservation) (s : State) :
    s.Told (s.postCause cause releasing h a) := by
  cases cause with
  | release => exact .refl s
  | force =>
    unfold State.postCause
    dsimp only
    split
    · exact .refl s
    · exact State.post_told _ _ _ _ s
  | expiry => exact State.post_told _ _ _ _ s
  | reset => exact .refl s

theorem State.postReleased_told (releasing : Option Port) (h : Handle) (ctx : Option (CtxIx × MoveContext)) (s : State) :
    s.Told (s.postReleased releasing h ctx) := by
  unfold State.postReleased
  split
  · split
    · split
      · exact .refl s
      · exact State.post_told _ _ _ _ s
    · exact .refl s
  · exact .refl s

theorem State.freeContextOf_told (a : Reservation) (s : State) : s.Told (s.freeContextOf a) := by
  unfold State.freeContextOf
  split <;> exact State.told_of_ports rfl rfl

theorem State.freeRecord_told (i : RecIx) (a : Reservation) (s : State) : s.Told (s.freeRecord i a) :=
  State.Told.after (State.modPort_told a.owner _ _ fun _ => by exact .of_eq rfl) (State.told_of_ports rfl rfl)

theorem State.releaseRecord_told (i : RecIx) (cause : Cause) (releasing : Option Port) (s : State) :
    s.Told (s.releaseRecord i cause releasing) := by
  unfold State.releaseRecord
  split
  · exact .refl s
  · dsimp only
    refine State.Told.after (State.judgeRecovery_told _ _) (State.Told.after (State.postCause_told _ _ _ _ _)
      (State.Told.after (State.postReleased_told _ _ _ _) ?_))
    have freed : ∀ a : Reservation, s.Told (((s.claim (muteOf cause releasing) (s.releaseClaim a)).freeContextOf a).freeRecord
        i a) := fun a =>
      State.Told.after (State.freeRecord_told i a _) (State.Told.after (State.freeContextOf_told a _)
        (State.claim_told _ _ s))
    split
    · exact State.Told.after (State.post_told _ _ _ _ _) (State.Told.after (State.handReport_told _ _)
        (State.Told.after (State.requestPass_told _) (freed _)))
    · exact State.Told.after (State.handReport_told _ _) (State.Told.after (State.requestPass_told _) (freed _))

theorem State.abandonMove_told (k : CtxIx) (reason : Reason) (stamp : Word) (mute : Option Port) (s : State) :
    s.Told (s.abandonMove k reason stamp mute) := by
  unfold State.abandonMove
  split
  · exact .refl s
  · exact State.Told.after (State.handReport_told _ _) (State.Told.after (State.postEach_told _ _ _ _ _)
      (State.Told.after (State.setMove_told _ _ _) (State.Told.after (State.modReservation_told _ _ _)
        (State.claim_told mute _ s))))

theorem State.makeEntry_told (e : WaitEntry) (s : State) : s.Told (s.makeEntry e) :=
  State.Told.after (State.modPort_told e.port _ _ fun _ => by exact .of_eq rfl) (State.told_of_ports rfl rfl)

theorem State.removeEntry_told (e : WaitEntry) (s : State) : s.Told (s.removeEntry e) :=
  State.Told.after (State.requestPass_told _)
    (State.Told.after (State.modPort_told e.port _ _ fun _ => by exact .of_eq rfl) (State.told_of_ports rfl rfl))

theorem State.removePortEntries_told (p : Port) (s : State) : s.Told (s.removePortEntries p) := by
  have left : s.Told (State.modPort p (fun c => { c with promised := 0 })
      { s with waits := { s.waits with entries := s.waits.entries.filter fun e => e.port ≠ p } }) :=
    State.Told.after (State.modPort_told p _ _ fun _ => by exact .of_eq rfl) (State.told_of_ports rfl rfl)
  unfold State.removePortEntries
  dsimp only
  split
  · exact State.Told.after (State.requestPass_told _) left
  · exact left

theorem State.resetRecord_told (p : Port) (policy : ResetPolicy) (s : State) (i : RecIx) :
    s.Told (s.resetRecord p policy i) := by
  unfold State.resetRecord
  split
  · cases policy with
    | reclaim => exact State.releaseRecord_told _ _ _ s
    | retain =>
      dsimp only
      split
      · split
        · exact State.abandonMove_told _ _ _ _ s
        · exact .refl s
        · exact .refl s
      · exact .refl s
  · exact .refl s

/-- A port reset clears its port and withdraws its command; the rest tells the ports of events. -/
theorem State.portReset_told (p : Port) (s : State) :
    ((s.modPort p ClientPort.clear).setWork (s.engine.work.withdraw p)).Told (s.portReset p) := by
  unfold State.portReset
  refine State.Told.after (State.foldl_told _ (State.resetRecord_told p _) _ _) ?_
  exact State.Told.after (t := State.removePortEntries p ((s.modPort p ClientPort.clear).setWork
    (s.engine.work.withdraw p))) (State.told_of_ports rfl rfl) (State.removePortEntries_told p _)

theorem State.takeReport_told (r : Report) (s : State) : s.Told (s.takeReport r) := by
  have judge : ∀ k u (t : State), t.Told (t.judgeUnit k u) := by
    intro k u t
    unfold State.judgeUnit
    dsimp only
    split
    · exact State.told_of_ports rfl rfl
    · split
      · exact State.Told.after (State.postEach_told _ _ _ _ _) (State.told_of_ports rfl rfl)
      · exact State.told_of_ports rfl rfl
  cases r with
  | slots ch =>
    refine State.foldl_told _ (fun t k => ?_) _ s
    unfold State.takeSlots
    split
    · exact .refl t
    · split
      · exact .refl t
      · split
        · exact judge _ _ t
        · exact .refl t
  | record h st =>
    refine State.foldl_told _ (fun t k => ?_) _ s
    unfold State.takeRecord
    split
    · exact .refl t
    · split
      · exact .refl t
      · split
        · exact judge _ _ t
        · exact .refl t

theorem State.takeAllReports_told (s : State) : s.Told s.takeAllReports :=
  State.Told.after (State.foldl_told _ (fun t r => State.takeReport_told r t) _ _) (State.told_of_ports rfl rfl)

theorem State.barRun_told (r : Run) (s : State) : s.Told (s.barRun r) :=
  State.Told.after (State.foldl_told _ (fun t _ => State.abandonMove_told _ _ _ _ t) _ _) (State.claim_told _ _ s)

theorem State.grantTrial_told (s : State) (x : Trial) : s.Told (s.grantTrial x) := by
  unfold State.grantTrial
  split
  · exact .refl s
  · split
    · split
      · exact .refl s
      · exact State.Told.after (State.grantReports_told _ _) (State.Told.after (State.post_told _ _ _ _ _)
          (State.Told.after (State.removeEntry_told _ _) (State.grant_told _ _ _ _ _ _ _ _ s)))
    · exact .refl s

/-! ## The reactions to a mark -/

theorem State.handPromotion_told (r : PromotionReport) (s : State) : s.Told (s.handPromotion r) := by
  unfold State.handPromotion
  split <;> exact State.told_of_ports rfl rfl

theorem State.mapTakeMark_told (s : State) : s.Told s.mapTakeMark := by
  unfold State.mapTakeMark
  split
  · split
    · exact .refl s
    · exact State.Told.after (State.reportChanges_told _ _ _) (State.Told.after (State.handPromotion_told _ _)
        (State.told_of_ports rfl rfl))
  · exact .refl s

theorem State.poolTakeReport_told (s : State) : s.Told s.poolTakeReport := by
  unfold State.poolTakeReport
  split
  · exact .refl s
  · refine State.Told.after (State.foldl_told _ (fun t e => ?_) _ _) (State.told_of_ports rfl rfl)
    unfold State.promoteRecord
    split
    · exact .refl t
    · split
      · exact .refl t
      · dsimp only
        split
        · exact State.Told.after (State.handReport_told _ _)
            (State.Told.after (State.post_told _ _ _ _ _) (State.modReservation_told _ _ _))
        · exact .refl t

theorem State.moveTakeReport_told (s : State) : s.Told s.moveTakeReport := by
  unfold State.moveTakeReport
  split
  · exact .refl s
  · refine State.Told.after (State.foldl_told _ (fun t e => ?_) _ _) (State.told_of_ports rfl rfl)
    unfold State.startOverlap
    split
    · exact .refl t
    · split
      · exact .refl t
      · exact State.Told.after (State.postEach_told _ _ _ _ _) (State.told_of_ports rfl rfl)

theorem State.countLease_told (m : Word) (s : State) (i : RecIx) : s.Told (s.countLease m i) := by
  unfold State.countLease
  split
  · exact .refl s
  · split
    · exact .refl s
    · dsimp only
      split <;> split
      · exact State.Told.after (State.releaseRecord_told _ _ _ _)
          (State.Told.after (State.post_told _ _ _ _ _) (State.modReservation_told _ _ _))
      · exact State.Told.after (State.releaseRecord_told _ _ _ _) (State.modReservation_told _ _ _)
      · exact State.Told.after (State.post_told _ _ _ _ _) (State.modReservation_told _ _ _)
      · exact State.told_of_ports rfl rfl

theorem State.leaseTakeMark_told (s : State) : s.Told s.leaseTakeMark := by
  unfold State.leaseTakeMark
  split
  · split
    · exact .refl s
    · exact State.Told.after (State.foldl_told _ (State.countLease_told _) _ _) (State.told_of_ports rfl rfl)
  · exact .refl s

theorem State.cutoverMove_told (k : CtxIx) (c : MoveContext) (m : Word) (s : State) : s.Told (s.cutoverMove k c m) := by
  unfold State.cutoverMove
  split
  · exact State.told_of_ports rfl rfl
  · exact State.Told.after (State.handReport_told _ _) (State.Told.after (State.postEach_told _ _ _ _ _)
      (State.Told.after (State.setMove_told _ _ _) (State.Told.after (State.modReservation_told _ _ _)
        (State.Told.after (State.claim_told _ _ _) (State.told_of_ports rfl rfl)))))

theorem State.countContext_told (m : Word) (s : State) (k : CtxIx) : s.Told (s.countContext m k) := by
  unfold State.countContext
  split
  · exact .refl s
  · split
    · split
      · exact State.abandonMove_told _ _ _ _ s
      · exact State.told_of_ports rfl rfl
    · exact .refl s
    · split
      · exact .refl s
      · split
        · exact State.cutoverMove_told _ _ _ s
        · exact State.told_of_ports rfl rfl

theorem State.moveTakeMark_told (s : State) : s.Told s.moveTakeMark := by
  unfold State.moveTakeMark
  split
  · split
    · exact .refl s
    · exact State.Told.after (State.foldl_told _ (State.countContext_told _) _ _) (State.told_of_ports rfl rfl)
  · exact .refl s

theorem State.waitTakeMark_told (s : State) : s.Told s.waitTakeMark := by
  unfold State.waitTakeMark
  split
  · split
    · exact .refl s
    · refine State.Told.after (State.foldl_told _ (fun t e => ?_) _ _) (State.told_of_ports rfl rfl)
      exact State.Told.after (State.post_told _ _ _ _ _) (State.removeEntry_told e t)
  · exact .refl s

theorem State.settle_told (s : State) : s.Told s.settle :=
  ((((s.mapTakeMark_told.trans (State.poolTakeReport_told _)).trans (State.moveTakeReport_told _)).trans
    (State.leaseTakeMark_told _)).trans (State.moveTakeMark_told _)).trans (State.waitTakeMark_told _)

theorem State.acceptFrame_told (s : State) : s.Told s.acceptFrame := by
  unfold State.acceptFrame
  dsimp only
  split
  · exact State.told_of_ports rfl rfl
  · exact State.Told.after (State.postNotices_told _ _ _ _) (State.told_of_ports rfl rfl)

theorem State.loseSync_told (s : State) : s.Told s.loseSync :=
  State.Told.after (State.postNotices_told _ _ _ _) (State.told_of_ports rfl rfl)

end Sys2Proof.Machine
end

section
/-! PROOFS. Commands, answers and tags at the ports under every step (R133 to R135, R142, R150). -/

namespace Sys2Proof.Machine

/-! ## What a port keeps -/

/-- The in-flight tags of a port are those of its unanswered commands and stored answers, each once (R135). -/
def ClientPort.TagsOk (c : ClientPort) : Prop := c.inFlight.Nodup ∧ c.liveTags.Perm c.inFlight

theorem State.tagsAgree_iff (s : State) : s.TagsAgree ↔ ∀ p, (s.ports.get p).TagsOk := Iff.rfl

/-- Port `d` keeps what port `c` keeps, and the command at the head of its queue. -/
structure ClientPort.Serves (c d : ClientPort) : Prop where
  bounded : c.Bounded → d.Bounded
  tags : c.TagsOk → d.TagsOk
  head : ∀ q rest, c.queue = q :: rest → ∃ rest', d.queue = q :: rest'

theorem ClientPort.Serves.refl (c : ClientPort) : c.Serves c := ⟨id, id, fun _ rest h => ⟨rest, h⟩⟩

theorem ClientPort.Serves.trans {c d e : ClientPort} (h : c.Serves d) (g : d.Serves e) : c.Serves e :=
  ⟨fun b => g.bounded (h.bounded b), fun t => g.tags (h.tags t), fun q rest hq => by
    obtain ⟨rest', hq'⟩ := h.head q rest hq
    exact g.head q rest' hq'⟩

theorem ClientPort.Told.bounded {c d : ClientPort} (h : c.Told d) (b : c.Bounded) : d.Bounded := by
  obtain ⟨queue, places, events, lost, dropped, faults⟩ := b
  obtain ⟨events', lost'⟩ := h.events ⟨events, lost⟩
  refine ⟨?_, ?_, events', lost', ?_, ?_⟩
  · rw [h.queue]; exact queue
  · rw [h.queue, h.stored]; exact places
  · rw [h.dropped]; exact dropped
  · rw [h.faultCount]; exact faults

theorem ClientPort.Told.tagsOk {c d : ClientPort} (h : c.Told d) (t : c.TagsOk) : d.TagsOk := by
  unfold ClientPort.TagsOk ClientPort.liveTags at t ⊢
  rw [h.inFlight, h.queue, h.stored]
  exact t

theorem ClientPort.Told.serves {c d : ClientPort} (h : c.Told d) : c.Serves d :=
  ⟨h.bounded, h.tagsOk, fun _ rest hq => ⟨rest, h.queue.trans hq⟩⟩

/-! ## What the link does -/

theorem ClientPort.countFault_serves (c : ClientPort) : c.Serves c.countFault :=
  ⟨fun ⟨queue, places, events, lost, dropped, _⟩ => ⟨queue, places, events, lost, dropped, Nat.min_le_left _ _⟩, id,
    fun _ rest h => ⟨rest, h⟩⟩

theorem ClientPort.refuse_serves (tag : Byte) (status : Status) (body : List Byte) (c : ClientPort) :
    c.Serves (c.refuse tag status body) := by
  unfold ClientPort.refuse
  split
  · next room =>
    refine ⟨fun ⟨queue, places, events, lost, dropped, faults⟩ => ⟨queue, ?_, events, lost, dropped, faults⟩, fun t => ?_,
      fun _ rest h => ⟨rest, h⟩⟩
    · simp only [ClientPort.freePlaces] at room
      simp only [List.length_append, List.length_cons, List.length_nil]
      omega
    · unfold ClientPort.TagsOk ClientPort.liveTags at t ⊢
      simpa using t
  · exact ⟨fun ⟨queue, places, events, lost, _, faults⟩ => ⟨queue, places, events, lost, Nat.min_le_left _ _, faults⟩, id,
      fun _ rest h => ⟨rest, h⟩⟩

theorem ClientPort.accept_serves (tag code : Byte) (body : List Byte) (c : ClientPort) :
    c.Serves (c.accept tag code body) := by
  unfold ClientPort.accept
  split
  · exact ClientPort.refuse_serves _ _ _ c
  · next fresh =>
    split
    · exact ClientPort.refuse_serves _ _ _ c
    · next room =>
      simp only [not_or, Nat.not_le, ClientPort.freePlaces] at room
      simp only [not_or, List.contains_eq_mem, decide_eq_true_eq] at fresh
      refine ⟨fun ⟨queue, places, events, lost, dropped, faults⟩ => ⟨?_, ?_, events, lost, dropped, faults⟩, fun t => ?_,
        fun q rest h => ⟨rest ++ [⟨tag, code, body, false⟩], ?_⟩⟩
      · simp only [List.length_append, List.length_cons, List.length_nil]
        omega
      · simp only [List.length_append, List.length_cons, List.length_nil]
        omega
      · obtain ⟨nodup, perm⟩ := t
        refine ⟨?_, ?_⟩
        · simpa [List.nodup_append] using ⟨nodup, fun a ha e => fresh.2 (e ▸ ha)⟩
        · simp only [ClientPort.liveTags, List.map_append, List.map_cons, List.map_nil, List.append_assoc] at perm ⊢
          exact (List.perm_append_comm.append_left _).trans
            ((List.append_assoc _ _ _ ▸ perm.append_right _ : _))
      · show c.queue ++ _ = _
        rw [h, List.cons_append]

theorem ClientPort.judgeFrame_serves (bytes : List Byte) (extra : Nat) (c : ClientPort) :
    c.Serves (c.judgeFrame bytes extra) := by
  unfold ClientPort.judgeFrame
  split
  · exact c.countFault_serves.trans (ClientPort.refuse_serves _ _ _ _)
  · split
    · exact ((ClientPort.Told.of_eq rfl).serves : c.Serves { c with lastFaulted := false }).trans
        (ClientPort.accept_serves _ _ _ _)
    all_goals exact .refl c

theorem ClientPort.removeOldest_serves (c : ClientPort) : c.Serves c.removeOldest := by
  unfold ClientPort.removeOldest
  split
  · exact .refl c
  · next r rest hr =>
    refine ⟨fun ⟨queue, places, events, lost, dropped, faults⟩ => ⟨queue, ?_, events, lost, dropped, faults⟩, fun t => ?_,
      fun _ rest h => ⟨rest, h⟩⟩
    · rw [hr, List.length_cons] at places
      exact Nat.le_trans (Nat.add_le_add_left (Nat.le_succ _) _) places
    · obtain ⟨nodup, perm⟩ := t
      unfold ClientPort.TagsOk
      simp only [ClientPort.liveTags, hr] at perm ⊢
      cases ha : r.answers with
      | false =>
        rw [List.filter_cons_of_neg (by simp [ha])] at perm
        exact ⟨nodup, perm⟩
      | true =>
        rw [List.filter_cons_of_pos ha, List.map_cons] at perm
        refine ⟨nodup.filter _, ?_⟩
        have distinct := perm.nodup_iff.mpr nodup
        have moved := List.perm_middle.symm.trans perm
        have apart := (List.nodup_middle.mp distinct)
        rw [List.nodup_cons] at apart
        have left : (c.queue.map QueuedCommand.tag ++ (rest.filter Response.answers).map Response.tag).filter
            (fun t => t ≠ r.tag) = c.queue.map QueuedCommand.tag ++ (rest.filter Response.answers).map Response.tag :=
          List.filter_eq_self.mpr fun x hx => by simpa using fun e : x = r.tag => apart.1 (e ▸ hx)
        have filtered := moved.filter fun t => t ≠ r.tag
        rw [List.filter_cons_of_neg (by simp), left] at filtered
        exact filtered

theorem ClientPort.endCollect_serves (edges : Nat) (c : ClientPort) : c.Serves (c.endCollect edges) := by
  unfold ClientPort.endCollect
  split
  · split
    · exact .refl c
    · split
      · exact c.removeOldest_serves.trans (ClientPort.Told.of_eq rfl).serves
      · exact (ClientPort.Told.of_eq rfl).serves
  · split
    · exact (ClientPort.Told.of_eq rfl).serves
    · exact .refl c
  · exact (ClientPort.Told.of_eq rfl).serves
  · exact .refl c

/-! ## Answers, resets and the engine's mark -/

theorem ClientPort.answer_bounded {c : ClientPort} (h : c.Bounded) (tag : Byte) (status : Status) (body : List Byte) :
    (c.answer tag status body).Bounded := by
  unfold ClientPort.answer
  split
  · exact h
  · next q rest hq =>
    obtain ⟨queue, places, events, lost, dropped, faults⟩ := h
    rw [hq, List.length_cons] at queue places
    refine ⟨Nat.le_of_succ_le queue, ?_, events, lost, dropped, faults⟩
    simp only [List.length_append, List.length_cons, List.length_nil]
    omega

/-- An answer with the tag of the head command moves the tag from the queue to the stored answers. -/
theorem ClientPort.answer_tagsOk {c : ClientPort} {q : QueuedCommand} {rest : List QueuedCommand}
    (hq : c.queue = q :: rest) (h : c.TagsOk) (status : Status) (body : List Byte) :
    (c.answer q.tag status body).TagsOk := by
  obtain ⟨nodup, perm⟩ := h
  have answered : c.answer q.tag status body =
      { c with queue := rest, stored := c.stored ++ [⟨q.tag, status, body, true⟩] } := by
    simp only [ClientPort.answer, hq]
  rw [answered]
  refine ⟨nodup, List.Perm.trans ?_ perm⟩
  simpa [ClientPort.liveTags, hq] using List.perm_append_singleton q.tag
    (rest.map QueuedCommand.tag ++ (c.stored.filter Response.answers).map Response.tag)

theorem ClientPort.clear_bounded {c : ClientPort} (h : c.Bounded) : c.clear.Bounded := by
  obtain ⟨-, -, -, -, dropped, faults⟩ := h
  exact ⟨Nat.zero_le _, Nat.zero_le _, Nat.zero_le _, Nat.zero_le _, dropped, faults⟩

theorem ClientPort.clear_tagsOk (c : ClientPort) : c.clear.TagsOk := ⟨List.nodup_nil, .refl _⟩

theorem ClientPort.placeResetAnswer_bounded {c : ClientPort} (h : c.Bounded) (tag : Byte) (body : List Byte) :
    (c.clear.placeResetAnswer tag body).Bounded := by
  obtain ⟨-, -, -, -, dropped, faults⟩ := h
  exact ⟨Nat.zero_le _, by simp [ClientPort.placeResetAnswer, ClientPort.clear, Config.responsePlaces], Nat.zero_le _,
    Nat.zero_le _, dropped, faults⟩

theorem ClientPort.placeResetAnswer_tagsOk (c : ClientPort) (tag : Byte) (body : List Byte) :
    (c.clear.placeResetAnswer tag body).TagsOk :=
  ⟨List.nodup_singleton _, by simp [ClientPort.placeResetAnswer, ClientPort.clear, ClientPort.liveTags]⟩

theorem ClientPort.markTaken_of_cons {c : ClientPort} {q : QueuedCommand} {rest : List QueuedCommand}
    (h : c.queue = q :: rest) : c.markTaken = { c with queue := { q with taken := true } :: rest } := by
  simp only [ClientPort.markTaken, h]

theorem ClientPort.markTaken_bounded {c : ClientPort} (h : c.Bounded) : c.markTaken.Bounded := by
  unfold ClientPort.markTaken
  split
  · exact h
  · next q rest hq =>
    obtain ⟨queue, places, events, lost, dropped, faults⟩ := h
    rw [hq] at queue places
    exact ⟨queue, places, events, lost, dropped, faults⟩

theorem ClientPort.markTaken_tagsOk {c : ClientPort} (h : c.TagsOk) : c.markTaken.TagsOk := by
  unfold ClientPort.markTaken
  split
  · exact h
  · next q rest hq =>
    unfold ClientPort.TagsOk at h ⊢
    simpa [ClientPort.liveTags, hq] using h

/-! ## What a command does to the ports' queues -/

/-- The engine's work goes on with the command it had, if with any. -/
def Work.ContinuesAs (v w : Work) : Prop :=
  ∀ c, w = .command c → ∃ d, v = .command d ∧ d.port = c.port ∧ d.tag = c.tag ∧ d.withdrawn = c.withdrawn

theorem Work.ContinuesAs.refl (w : Work) : w.ContinuesAs w := fun c h => ⟨c, h, rfl, rfl, rfl⟩

theorem Work.continuesAs_of_none {v w : Work} (h : ∀ c, w ≠ .command c) : v.ContinuesAs w := fun c hc => absurd hc (h c)

/-- The head command of port `p` is answered under a tag, and the ports are told of events besides. -/
def State.Answers (p : Port) (tag : Byte) (s t : State) : Prop :=
  ∃ status body, (s.answer p tag status body).Told t

theorem State.answer_answers (p : Port) (tag : Byte) (status : Status) (body : List Byte) (s : State) :
    State.Answers p tag s (s.answer p tag status body) := ⟨status, body, .refl _⟩

theorem State.Told.answers {s t : State} (h : s.Told t) (p : Port) (tag : Byte) (status : Status) (body : List Byte) :
    State.Answers p tag s (t.answer p tag status body) := ⟨status, body, h.answer p tag status body⟩

theorem State.Answers.told {p : Port} {tag : Byte} {s t u : State} (h : State.Answers p tag s t) (g : t.Told u) :
    State.Answers p tag s u := by
  obtain ⟨status, body, h⟩ := h
  exact ⟨status, body, h.trans g⟩

/-- The ports and the engine's work of a state, where a command begins: the operations below are read off it. -/
inductive State.Talks (s t : State) : Prop
  /-- No command is answered. -/
  | serves (ports : ∀ p, (s.ports.get p).Serves (t.ports.get p)) (work : s.engine.work.ContinuesAs t.engine.work)
  /-- The engine's command is answered. -/
  | answers (c : Command) (work : s.engine.work = .command c) (live : c.withdrawn = false)
      (h : State.Answers c.port c.tag (s.setWork .idle) t)
  /-- A RESET_PORT of another port clears that port and is answered. -/
  | resetsOther (c : Command) (p : Port) (work : s.engine.work = .command c) (live : c.withdrawn = false)
      (other : p ≠ c.port) (h : State.Answers c.port c.tag ((s.setWork .idle).modPort p ClientPort.clear) t)
  /-- A RESET_PORT of its own port clears it and places its answer. -/
  | resetsOwn (p : Port) (tag : Byte) (body : List Byte)
      (h : (((s.setWork .idle).modPort p ClientPort.clear).modPort p (ClientPort.placeResetAnswer tag body)).Told t)
  /-- A port answers its own head command. -/
  | answersLocal (p : Port) (q : QueuedCommand) (rest : List QueuedCommand) (head : (s.ports.get p).queue = q :: rest)
      (isLocal : isPortLocal q.code = true) (h : State.Answers p q.tag s t)
  /-- SELF_RESET clears its port, withdraws its command and places its answer. -/
  | resetsSelf (p : Port) (tag : Byte) (body : List Byte)
      (h : (((s.modPort p ClientPort.clear).setWork (s.engine.work.withdraw p)).modPort p
        (ClientPort.placeResetAnswer tag body)).Told t)
  /-- The free engine takes a command. -/
  | takes (p : Port) (q : QueuedCommand) (rest : List QueuedCommand) (r : Request) (scan : Option Scan)
      (head : (s.ports.get p).queue = q :: rest) (table : isPortLocal q.code = false)
      (h : ((s.modPort p ClientPort.markTaken).setWork (.command ⟨p, q.tag, r, false, scan⟩)).Told t)
  /-- The free engine refuses a command at its taking. -/
  | refuses (p : Port) (q : QueuedCommand) (rest : List QueuedCommand) (idle : s.engine.work = .idle)
      (head : (s.ports.get p).queue = q :: rest) (h : State.Answers p q.tag (s.modPort p ClientPort.markTaken) t)
  | powers (low : Bool) (right : Nat → Bool) (h : t = s.powerOn low right)

theorem State.Told.talks {s t : State} (h : s.Told t) : s.Talks t :=
  .serves (fun p => (h.ports p).serves) (by rw [h.work]; exact .refl _)

/-- A change at one port that serves it. -/
theorem State.modPort_talks (p : Port) (f : ClientPort → ClientPort) (s : State) (h : ∀ c : ClientPort, c.Serves (f c)) :
    s.Talks (s.modPort p f) :=
  .serves (fun q => by
    rw [State.modPort_ports, Table.get_modify]
    split
    · exact h _
    · exact .refl _) (.refl _)

/-! ## Completions -/

theorem State.complete_talks {pick : Request → Option (Command → State → State)} {s t : State}
    (h : Host.Outcome.next (φ := Fault) (ρ := Refusal) (s.complete pick) = .next t)
    (hr : ∀ r run, pick r = some run → ∀ c s, State.Answers c.port c.tag s (run c s)) : s.Talks t := by
  cases h
  rcases State.complete_cases pick s with h | ⟨c, run, -, hw, hp, ⟨-, h⟩ | ⟨live, -, h⟩ | ⟨live, -, h⟩⟩ <;> rw [h]
  · exact (State.Told.refl s).talks
  · exact .serves (fun _ => .refl _) (Work.continuesAs_of_none fun _ => by simp [State.setWork])
  · exact .answers c hw live (State.answer_answers _ _ _ _ _)
  · exact .answers c hw live (hr _ run hp c _)

section
variable (c : Command) (s : State)

theorem State.reserveCompletion_answers (a : ReserveArgs) :
    State.Answers c.port c.tag s (s.reserveCompletion a c) := by
  unfold State.reserveCompletion
  split
  · exact State.answer_answers _ _ _ _ _
  · split
    · exact State.answer_answers _ _ _ _ _
    · split
      · unfold State.reserveNoRoom
        split
        · exact State.answer_answers _ _ _ _ _
        · dsimp only
          split
          · exact (State.makeEntry_told _ s).answers _ _ _ _
          · exact State.answer_answers _ _ _ _ _
      · exact State.answer_answers _ _ _ _ _
      · exact ((State.grant_told _ _ _ _ _ _ _ _ s).answers _ _ _ _).told (State.grantReports_told _ _)

theorem State.releaseCompletion_answers (h : Handle) : State.Answers c.port c.tag s (s.releaseCompletion h c) := by
  unfold State.releaseCompletion
  split
  · exact State.answer_answers _ _ _ _ _
  · split
    · exact (State.releaseRecord_told _ _ _ s).answers _ _ _ _
    · exact State.answer_answers _ _ _ _ _

theorem State.forceCompletion_answers (h : Handle) : State.Answers c.port c.tag s (s.forceCompletion h c) := by
  unfold State.forceCompletion
  split
  · exact State.answer_answers _ _ _ _ _
  · exact (State.releaseRecord_told _ _ _ s).answers _ _ _ _

theorem State.renewCompletion_answers (h : Handle) (n : Nat) :
    State.Answers c.port c.tag s (s.renewCompletion h n c) := by
  unfold State.renewCompletion
  split
  · exact State.answer_answers _ _ _ _ _
  · split
    · split
      · exact State.answer_answers _ _ _ _ _
      · exact (State.modReservation_told _ _ s).answers _ _ _ _
    · exact State.answer_answers _ _ _ _ _

theorem State.queryCompletion_answers (h : Handle) : State.Answers c.port c.tag s (s.queryCompletion h c) := by
  unfold State.queryCompletion
  split <;> exact State.answer_answers _ _ _ _ _

theorem State.cancelCompletion_answers (ticket : Byte) :
    State.Answers c.port c.tag s (s.cancelCompletion ticket c) := by
  unfold State.cancelCompletion
  split
  · exact State.answer_answers _ _ _ _ _
  · split
    · exact (State.removeEntry_told _ s).answers _ _ _ _
    · exact State.answer_answers _ _ _ _ _

theorem State.relocateCompletion_answers (q : RelocateArgs) :
    State.Answers c.port c.tag s (s.relocateCompletion q c) := by
  unfold State.relocateCompletion
  split
  · exact State.answer_answers _ _ _ _ _
  · next i a _ =>
    split
    · exact State.answer_answers _ _ _ _ _
    · split
      · exact State.answer_answers _ _ _ _ _
      · split
        · exact State.answer_answers _ _ _ _ _
        · next k _ =>
          split
          · exact State.answer_answers _ _ _ _ _
          · next set _ =>
            have moved : ∀ ctx, s.Told ((((s.setMove k ctx).claim none (targetSlot i set (decide (a.owner = c.port)))
                ).modReservation i fun r => { r with state := .moving, context := some k }).moveRover q.place set) :=
              fun ctx => State.Told.after (State.moveRover_told _ _ _) (State.Told.after (State.modReservation_told _ _ _)
                (State.Told.after (State.claim_told _ _ _) (State.setMove_told _ _ s)))
            unfold State.relocateGrant
            refine State.Answers.told ?_ (State.handReport_told _ _)
            split
            · exact (moved _).answers _ _ _ _
            · exact (State.Told.after (State.post_told _ _ _ _ _) (moved _)).answers _ _ _ _

theorem State.confirmCompletion_answers (h : Handle) : State.Answers c.port c.tag s (s.confirmCompletion h c) := by
  unfold State.confirmCompletion
  split
  · exact State.answer_answers _ _ _ _ _
  · exact (State.Told.after (State.claim_told _ _ _) (State.setMove_told _ _ s)).answers _ _ _ _

theorem State.declineCompletion_answers (h : Handle) : State.Answers c.port c.tag s (s.declineCompletion h c) := by
  unfold State.declineCompletion
  split
  · exact State.answer_answers _ _ _ _ _
  · exact (State.abandonMove_told _ _ _ _ s).answers _ _ _ _

theorem State.setWatchCompletion_answers (a : SetWatchArgs) :
    State.Answers c.port c.tag s (s.setWatchCompletion a c) := by
  unfold State.setWatchCompletion
  split
  · exact State.answer_answers _ _ _ _ _
  · exact (State.Told.after (State.setUnit_told _ _ _) s.takeAllReports_told).answers _ _ _ _

theorem State.clearWatchCompletion_answers (k : UnitIx) :
    State.Answers c.port c.tag s (s.clearWatchCompletion k c) := by
  unfold State.clearWatchCompletion
  split
  · exact State.answer_answers _ _ _ _ _
  · split
    · exact (State.setUnit_told _ _ s).answers _ _ _ _
    · exact State.answer_answers _ _ _ _ _

theorem State.rearmWatchCompletion_answers (k : UnitIx) :
    State.Answers c.port c.tag s (s.rearmWatchCompletion k c) := by
  unfold State.rearmWatchCompletion
  split
  · exact State.answer_answers _ _ _ _ _
  · split
    · exact State.answer_answers _ _ _ _ _
    · split
      · exact State.answer_answers _ _ _ _ _
      · exact (State.setUnit_told _ _ s).answers _ _ _ _

theorem State.setPortCompletion_answers (p : Port) (attrs : Attributes) :
    State.Answers c.port c.tag s (s.setPortCompletion p attrs c) := by
  have set : s.Told (s.modPort p fun q => { q with attrs := attrs }) :=
    State.modPort_told p _ s fun _ => by exact .of_eq rfl
  unfold State.setPortCompletion
  dsimp only
  split
  · exact (State.Told.after (State.requestPass_told _) set).answers _ _ _ _
  · exact set.answers _ _ _ _

end

/-- A port reset by the engine's command: the engine is free, so no command is withdrawn. -/
theorem State.portReset_told_of_idle (p : Port) {s : State} (idle : s.engine.work = .idle) :
    (s.modPort p ClientPort.clear).Told (s.portReset p) := by
  have h := State.portReset_told p s
  rw [idle] at h
  exact State.Told.after h (State.told_of_ports rfl (by simp [State.setWork, Work.withdraw, idle]))

theorem execResetPort_talks {s t : State} (h : execResetPort s = .next t) : s.Talks t := by
  cases h
  rcases State.complete_cases _ s with h | ⟨c, run, -, hw, hp, ⟨-, h⟩ | ⟨live, -, h⟩ | ⟨live, -, h⟩⟩ <;> rw [h]
  · exact (State.Told.refl s).talks
  · exact .serves (fun _ => .refl _) (Work.continuesAs_of_none fun _ => by simp [State.setWork])
  · exact .answers c hw live (State.answer_answers _ _ _ _ _)
  · split at hp <;> cases hp
    next p _ =>
    have reset := State.portReset_told_of_idle p (s := s.setWork .idle) rfl
    unfold State.resetPortCompletion
    dsimp only
    split
    · exact .resetsOwn p c.tag _ (reset.modPort p fun c d hc => ⟨hc.queue, by
        simp only [ClientPort.placeResetAnswer, hc.stored], rfl, hc.dropped, hc.faultCount, hc.events⟩)
    · next other => exact .resetsOther c p hw live other (reset.answers _ _ _ _)

end Sys2Proof.Machine
end

section
/-! PROOFS. Every command's dealings with the ports' queues; ports stay bounded and commands accounted for (R133 to R135, R142, R150). -/

namespace Sys2Proof.Machine

theorem ClientPort.serves_link (c : ClientPort) (l : Link) : c.Serves { c with link := l } :=
  (ClientPort.Told.of_eq rfl).serves

theorem State.startTransfer_talks (p : Port) (s : State) : s.Talks (s.startTransfer p) :=
  State.modPort_talks p _ s fun c => by
    split
    · exact c.serves_link _
    · split
      · exact c.serves_link _
      · exact c.serves_link _
      · exact c.serves_link _
      · exact .refl c

theorem State.endTransfer_talks (p : Port) (judge : ClientPort → ClientPort) (h : ∀ c : ClientPort, c.Serves (judge c))
    (s : State) : s.Talks (s.endTransfer p judge) :=
  State.modPort_talks p _ s fun c => by
    split
    · exact c.serves_link _
    · split
      · exact (h c).trans (ClientPort.serves_link _ _)
      · exact (h c).trans (ClientPort.serves_link _ _)
      · exact c.serves_link _
      · exact .refl c

theorem State.chooseResponse_talks (p : Port) (s : State) : s.Talks (s.chooseResponse p) := by
  unfold State.chooseResponse
  split
  · exact (State.Told.refl s).talks
  · refine State.modPort_talks p _ s fun c => ?_
    split
    · exact c.serves_link _
    · exact c.serves_link _
    · exact .refl c
    · exact .refl c

theorem State.nextPort_eligible {p : Port} {s : State} (h : s.nextPort = some p) :
    (s.ports.get p).eligible = true :=
  List.find?_some (p := fun p => (s.ports.get p).eligible) h

theorem ClientPort.eligible_of_cons {c : ClientPort} {q : QueuedCommand} {rest : List QueuedCommand}
    (h : c.eligible = true) (hq : c.queue = q :: rest) : q.taken = false ∧ isPortLocal q.code = false := by
  simp only [ClientPort.eligible, hq] at h
  simpa using h

theorem execEngineTakeCommand_talks {s t : State} (h : execEngineTakeCommand s = .next t) : s.Talks t := by
  cases h
  split
  · exact (State.Told.refl s).talks
  · next free =>
    have idle : s.engine.work = .idle := by
      simp only [Bool.or_eq_true, decide_eq_true_eq, not_or] at free
      exact Decidable.not_not.mp free.1.2
    unfold State.engineTake
    split
    · exact (State.Told.refl s).talks
    · next p hp =>
      split
      · exact (State.Told.refl s).talks
      · next q rest hq =>
        have table := (ClientPort.eligible_of_cons (State.nextPort_eligible hp) hq).2
        have marked : (s.modPort p ClientPort.markTaken).Told
            (State.modPort p ClientPort.markTaken { s with engine := { s.engine with rrPos := p } }) :=
          State.told_of_ports rfl rfl
        unfold State.takeCommand
        dsimp only
        split
        · exact .refuses p q rest idle hq (marked.answers _ _ _ _)
        · split
          · exact .refuses p q rest idle hq (marked.answers _ _ _ _)
          · exact .takes p q rest _ _ hq table (State.told_of_ports rfl rfl)

/-- A port-local answer, from what it does to the queues. -/
theorem State.answerLocal_talks (p : Port) {code : Byte} (hc : isPortLocal code = true)
    (run : QueuedCommand → State → State)
    (hr : ∀ q (s : State), State.Answers p q.tag s (run q s)) (s : State) : s.Talks (s.answerLocal p code run) := by
  rcases State.answerLocal_cases p code run s with h | ⟨q, rest, -, hq, e, h⟩ <;> rw [h]
  · exact (State.Told.refl s).talks
  · exact .answersLocal p q rest hq (by rw [e]; exact hc) (hr q s)

theorem State.fetchAnswer_answers (p : Port) (q : QueuedCommand) (s : State) :
    State.Answers p q.tag s (s.fetchAnswer p q) := by
  unfold State.fetchAnswer
  split
  · exact State.answer_answers _ _ _ _ _
  · exact (State.modPort_told p _ s (ClientPort.fetch_told _)).answers _ _ _ _

theorem State.statusAnswer_answers (p : Port) (q : QueuedCommand) (s : State) :
    State.Answers p q.tag s (s.statusAnswer p q) := by
  unfold State.statusAnswer
  split <;> exact State.answer_answers _ _ _ _ _

theorem execSelfReset_talks {p : Port} {s t : State} (h : execSelfReset p s = .next t) : s.Talks t := by
  cases h
  rcases State.answerLocal_cases p codeSelfReset (State.selfResetAnswer p) s with h | ⟨q, rest, -, hq, e, h⟩ <;> rw [h]
  · exact (State.Told.refl s).talks
  · unfold State.selfResetAnswer
    split
    · exact .resetsSelf p q.tag _ ((State.portReset_told p s).modPort p fun c d hc => ⟨hc.queue, by
        simp only [ClientPort.placeResetAnswer, hc.stored], rfl, hc.dropped, hc.faultCount, hc.events⟩)
    · exact .answersLocal p q rest hq (by rw [e]; decide) (State.answer_answers _ _ _ _ _)

theorem State.completePass_talks (p : Pass) (s : State) : s.Talks (s.completePass p) := by
  have told := State.foldl_told State.grantTrial State.grantTrial_told (s.finishTrials p).trials (s.setWork .idle)
  refine .serves (fun q => (told.ports q).serves) (Work.continuesAs_of_none fun c hc => ?_)
  rw [State.completePass, told.work] at hc
  cases hc

theorem State.beginPass_talks {s : State} (idle : s.engine.work = .idle) : s.Talks s.beginPass := by
  unfold State.beginPass
  dsimp only
  split
  · exact .serves (fun _ => .refl _) (Work.continuesAs_of_none fun _ => by simp [idle])
  · exact .serves (fun _ => .refl _) (Work.continuesAs_of_none fun _ => by simp [State.setWork])

theorem State.idleStep_talks (s : State) : s.Talks s.idleStep := by
  unfold State.idleStep
  split
  · exact (State.Told.refl s).talks
  · next c hw =>
    split
    · exact .serves (fun _ => .refl _) fun d hd => by
        cases hd
        exact ⟨c, hw, rfl, rfl, rfl⟩
    · exact (State.Told.refl s).talks
  · exact .serves (fun _ => .refl _) (Work.continuesAs_of_none fun _ => by simp [State.setWork])

theorem State.talks_ite {s u t : State} {b : Bool} (h : Host.Outcome.next (φ := Fault) (ρ := Refusal)
    (if b then s else u) = .next t) (hu : s.Talks u) : s.Talks t := by
  cases h
  split
  · exact (State.Told.refl s).talks
  · exact hu

theorem State.talks_ite' {s u t : State} {b : Bool} (h : Host.Outcome.next (φ := Fault) (ρ := Refusal)
    (if b then u else s) = .next t) (hu : s.Talks u) : s.Talks t := by
  cases h
  split
  · exact hu
  · exact (State.Told.refl s).talks

theorem exec_talks {c : Instr} {s t : State} (h : exec c s = .next t) : s.Talks t := by
  cases c with
  | powerOnReset => cases h; exact .powers true _ rfl
  | resetRelease straps =>
    cases h
    split
    · exact .powers false _ rfl
    · exact (State.Told.refl s).talks
  | transferStart p => cases h; exact State.startTransfer_talks p s
  | faultedTransfer p b =>
    cases h
    split
    · exact (State.Told.refl s).talks
    · exact State.endTransfer_talks p _ ClientPort.countFault_serves s
  | commandTransfer p octets rest =>
    cases h
    split
    · exact (State.Told.refl s).talks
    · exact State.endTransfer_talks p _ (ClientPort.judgeFrame_serves _ _) s
  | collectChoice p => cases h; exact State.chooseResponse_talks p s
  | collectEnd p edges =>
    cases h
    split
    · exact State.modPort_talks p _ s fun c => by exact c.serves_link _
    · exact State.modPort_talks p _ s (ClientPort.endCollect_serves edges)
  | engineTakeCommand => exact execEngineTakeCommand_talks h
  | reserve =>
    refine State.complete_talks h fun r run hp c s => ?_
    split at hp <;> cases hp
    exact State.reserveCompletion_answers c s _
  | release =>
    refine State.complete_talks h fun r run hp c s => ?_
    split at hp <;> cases hp
    exact State.releaseCompletion_answers c s _
  | renew =>
    refine State.complete_talks h fun r run hp c s => ?_
    split at hp <;> cases hp
    exact State.renewCompletion_answers c s _ _
  | queryReservation =>
    refine State.complete_talks h fun r run hp c s => ?_
    split at hp <;> cases hp
    exact State.queryCompletion_answers c s _
  | listOwned =>
    refine State.complete_talks h fun r run hp c s => ?_
    split at hp <;> cases hp
    exact State.answer_answers _ _ _ _ s
  | readMap =>
    refine State.complete_talks h fun r run hp c s => ?_
    split at hp <;> cases hp
    exact State.answer_answers _ _ _ _ s
  | cancelWait =>
    refine State.complete_talks h fun r run hp c s => ?_
    split at hp <;> cases hp
    exact State.cancelCompletion_answers c s _
  | relocate =>
    refine State.complete_talks h fun r run hp c s => ?_
    split at hp <;> cases hp
    exact State.relocateCompletion_answers c s _
  | confirmMove =>
    refine State.complete_talks h fun r run hp c s => ?_
    split at hp <;> cases hp
    exact State.confirmCompletion_answers c s _
  | declineMove =>
    refine State.complete_talks h fun r run hp c s => ?_
    split at hp <;> cases hp
    exact State.declineCompletion_answers c s _
  | setWatch =>
    refine State.complete_talks h fun r run hp c s => ?_
    split at hp <;> cases hp
    exact State.setWatchCompletion_answers c s _
  | clearWatch =>
    refine State.complete_talks h fun r run hp c s => ?_
    split at hp <;> cases hp
    exact State.clearWatchCompletion_answers c s _
  | rearmWatch =>
    refine State.complete_talks h fun r run hp c s => ?_
    split at hp <;> cases hp
    exact State.rearmWatchCompletion_answers c s _
  | bar =>
    refine State.complete_talks h fun r run hp c s => ?_
    split at hp <;> cases hp
    exact (State.barRun_told _ s).answers _ _ _ _
  | unbar =>
    refine State.complete_talks h fun r run hp c s => ?_
    split at hp <;> cases hp
    exact (State.Told.after (State.requestPass_told _) (State.claim_told _ _ s)).answers _ _ _ _
  | forceRelease =>
    refine State.complete_talks h fun r run hp c s => ?_
    split at hp <;> cases hp
    exact State.forceCompletion_answers c s _
  | setParam =>
    refine State.complete_talks h fun r run hp c s => ?_
    split at hp <;> cases hp
    exact State.Told.answers (s := s) (t := { s with params := s.params.change _ _ }) (State.told_of_ports rfl rfl) _ _ _ _
  | setPort =>
    refine State.complete_talks h fun r run hp c s => ?_
    split at hp <;> cases hp
    exact State.setPortCompletion_answers c s _ _
  | resetPort => exact execResetPort_talks h
  | readParams =>
    refine State.complete_talks h fun r run hp c s => ?_
    split at hp <;> cases hp
    exact State.answer_answers _ _ _ _ s
  | fetchEvents p => cases h; exact State.answerLocal_talks p (by decide) _ (State.fetchAnswer_answers p) s
  | readStatus p => cases h; exact State.answerLocal_talks p (by decide) _ (State.statusAnswer_answers p) s
  | selfReset p => exact execSelfReset_talks h
  | echo p => cases h; exact State.answerLocal_talks p (by decide) _ (fun _ _ => State.answer_answers _ _ _ _ _) s
  | waitPassBegin =>
    cases h
    split
    · exact (State.Told.refl s).talks
    · next free =>
      simp only [Bool.or_eq_true, decide_eq_true_eq, not_or] at free
      exact State.beginPass_talks (Decidable.not_not.mp free.1.2)
  | waitPassCompletion =>
    refine State.talks_ite h ?_
    split
    · exact State.completePass_talks _ s
    · exact (State.Told.refl s).talks
    · exact (State.Told.refl s).talks
  | frameStart => exact State.talks_ite h (s.settle_told.trans (State.acceptFrame_told _)).talks
  | syncWatchTimeout =>
    cases h
    split
    · exact (s.settle_told.trans (State.loseSync_told _)).talks
    · exact (State.Told.refl s).talks
  | slotEdge =>
    exact State.talks_ite h (State.Told.talks (State.Told.after (t := s.mapTakeMark) (State.told_of_ports rfl rfl)
      s.mapTakeMark_told))
  | slotMapFrameReaction => cases h; exact s.mapTakeMark_told.talks
  | drainComplete j =>
    cases h
    split
    · exact s.mapTakeMark_told.talks
    · exact (State.Told.refl s).talks
  | promotionReportPool => exact State.talks_ite h s.poolTakeReport_told.talks
  | promotionReportMove => exact State.talks_ite h s.moveTakeReport_told.talks
  | leaseCounterReaction => cases h; exact s.leaseTakeMark_told.talks
  | leaseExpiry i => exact State.talks_ite' h s.leaseTakeMark_told.talks
  | moveUnitFrameReaction => cases h; exact s.moveTakeMark_told.talks
  | confirmTimeout k => exact State.talks_ite' h s.moveTakeMark_told.talks
  | cutover k => exact State.talks_ite' h s.moveTakeMark_told.talks
  | waitListFrameReaction => cases h; exact s.waitTakeMark_told.talks
  | waitExpiry ticket => exact State.talks_ite' h s.waitTakeMark_told.talks
  | watchReport =>
    refine State.talks_ite h ?_
    split
    · exact State.Told.talks (State.Told.after (State.takeReport_told _ _) (State.told_of_ports rfl rfl))
    · exact (State.Told.refl s).talks
    · exact (State.Told.refl s).talks
  | recordReport =>
    refine State.talks_ite h ?_
    split
    · exact State.Told.talks (State.Told.after (State.takeReport_told _ _) (State.told_of_ports rfl rfl))
    · exact (State.Told.refl s).talks
    · exact (State.Told.refl s).talks

/-- An invariant of ports and work that every such change keeps is kept by every step. -/
theorem step_keeps_talks {P : State → Prop} (queue : ∀ s rest, P s → P { s with pending := rest })
    (h : ∀ s t : State, s.Talks t → P s → P t) {s t : State} (hs : P s) (e : step s = .next t) : P t := by
  unfold step at e
  split at e
  · cases e
    exact h s _ s.idleStep_talks hs
  · next c rest _ => exact h _ t (exec_talks e) (queue s rest hs)

/-! ## Bounds -/

theorem State.modPort_bounded {s : State} (h : s.PortsBounded) (p : Port) {f : ClientPort → ClientPort}
    (hf : ∀ c : ClientPort, c.Bounded → (f c).Bounded) : (s.modPort p f).PortsBounded := fun q => by
  rw [State.modPort_ports, Table.get_modify]
  split
  · exact hf _ (h q)
  · exact h q

theorem State.Told.portsBounded {s t : State} (h : s.Told t) (b : s.PortsBounded) : t.PortsBounded :=
  fun p => (h.ports p).bounded (b p)

theorem State.Answers.portsBounded {p : Port} {tag : Byte} {s t : State} (h : State.Answers p tag s t)
    (b : s.PortsBounded) : t.PortsBounded := by
  obtain ⟨status, body, h⟩ := h
  exact h.portsBounded (State.modPort_bounded b p fun c hc => ClientPort.answer_bounded hc tag status body)

/-- A reset of its own port leaves one stored answer and nothing else. -/
theorem State.reset_bounded {s : State} (b : s.PortsBounded) (p : Port) (tag : Byte) (body : List Byte) :
    ((s.modPort p ClientPort.clear).modPort p (ClientPort.placeResetAnswer tag body)).PortsBounded := fun q => by
  rw [State.modPort_ports, State.modPort_ports, Table.get_modify, Table.get_modify]
  split
  · exact ClientPort.placeResetAnswer_bounded (b q) tag body
  · exact b q

theorem State.Talks.keeps_bounds {s t : State} (h : s.Talks t) (b : s.PortsBounded) : t.PortsBounded := by
  cases h with
  | serves ports _ => exact fun p => (ports p).bounded (b p)
  | answers c _ _ h => exact h.portsBounded b
  | resetsOther c p _ _ _ h => exact h.portsBounded (State.modPort_bounded (s := s) b p fun _ => ClientPort.clear_bounded)
  | resetsOwn p tag body h => exact h.portsBounded (State.reset_bounded (s := s.setWork .idle) b p tag body)
  | answersLocal p q rest _ _ h => exact h.portsBounded b
  | resetsSelf p tag body h => exact h.portsBounded (State.reset_bounded b p tag body)
  | takes p q rest r scan _ _ h =>
    exact h.portsBounded (State.modPort_bounded b p fun _ => ClientPort.markTaken_bounded)
  | refuses p q rest _ _ h => exact h.portsBounded (State.modPort_bounded b p fun _ => ClientPort.markTaken_bounded)
  | powers low right h =>
    intro p
    rw [h, State.powerOn_ports]
    simp [ClientPort.Bounded, ClientPort.reset]

/-- Settles O54: a command serves a port on its link, answers its head command, resets it or tells it of events, and each keeps its
bounds. -/
theorem portsStayBounded : Obligations.PortsStayBounded := by
  unfold Obligations.PortsStayBounded
  intro s t h e
  exact step_keeps_talks (fun _ _ h => h) (fun _ _ d => d.keeps_bounds) h e

/-! ## Commands and tags -/

theorem State.modPort_tagsAgree {s : State} (h : s.TagsAgree) (p : Port) {f : ClientPort → ClientPort}
    (hf : (s.ports.get p).TagsOk → (f (s.ports.get p)).TagsOk) : (s.modPort p f).TagsAgree := fun q => by
  rw [State.modPort_ports, Table.get_modify]
  split
  · next e => subst e; exact hf (h _)
  · exact h q

theorem State.Told.tagsAgree {s t : State} (h : s.Told t) (b : s.TagsAgree) : t.TagsAgree :=
  fun p => (h.ports p).tagsOk (b p)

theorem State.Answers.tagsAgree {p : Port} {q : QueuedCommand} {rest : List QueuedCommand} {s t : State}
    (h : State.Answers p q.tag s t) (head : (s.ports.get p).queue = q :: rest) (b : s.TagsAgree) : t.TagsAgree := by
  obtain ⟨status, body, h⟩ := h
  exact h.tagsAgree (State.modPort_tagsAgree b p fun hc => ClientPort.answer_tagsOk head hc status body)

theorem State.reset_tagsAgree {s : State} (b : s.TagsAgree) (p : Port) (tag : Byte) (body : List Byte) :
    ((s.modPort p ClientPort.clear).modPort p (ClientPort.placeResetAnswer tag body)).TagsAgree := fun q => by
  rw [State.modPort_ports, State.modPort_ports, Table.get_modify, Table.get_modify]
  split
  · exact ClientPort.placeResetAnswer_tagsOk _ tag body
  · exact b q

theorem State.engineHoldsHead_of_none {s : State} (h : ∀ c, s.engine.work ≠ .command c) : s.EngineHoldsHead :=
  fun c hc => absurd hc (h c)

theorem State.Answers.work {p : Port} {tag : Byte} {s t : State} (h : State.Answers p tag s t) :
    t.engine.work = s.engine.work := by
  obtain ⟨status, body, h⟩ := h
  exact h.work

theorem State.Answers.queue_ne {p q : Port} {tag : Byte} {s t : State} (h : State.Answers p tag s t) (hq : p ≠ q) :
    (t.ports.get q).queue = (s.ports.get q).queue := by
  obtain ⟨status, body, h⟩ := h
  rw [(h.ports q).queue, State.answer, State.modPort_ports, Table.get_modify_ne _ _ hq]

theorem State.Talks.keeps_commands {s t : State} (h : s.Talks t) (b : s.CommandsAccounted) : t.CommandsAccounted := by
  obtain ⟨head, tags⟩ := b
  cases h with
  | serves ports work =>
    refine ⟨fun c hc live => ?_, fun p => (ports p).tags (tags p)⟩
    obtain ⟨d, hd, port, tag, withdrawn⟩ := work c hc
    obtain ⟨q, rest, hq, ht, taken, table⟩ := head d hd (withdrawn.trans live)
    obtain ⟨rest', hq'⟩ := (ports c.port).head q rest (port ▸ hq)
    exact ⟨q, rest', hq', ht.trans tag, taken, table⟩
  | answers c work live h =>
    obtain ⟨q, rest, hq, ht, -, -⟩ := head c work live
    exact ⟨State.engineHoldsHead_of_none fun d => by rw [h.work]; simp [State.setWork],
      State.Answers.tagsAgree (s := s.setWork .idle) (ht ▸ h) hq tags⟩
  | resetsOther c p work live other h =>
    obtain ⟨q, rest, hq, ht, -, -⟩ := head c work live
    refine ⟨State.engineHoldsHead_of_none fun d => by rw [h.work]; simp [State.setWork, State.modPort],
      State.Answers.tagsAgree (rest := rest) (ht ▸ h) ?_
        (State.modPort_tagsAgree (s := s.setWork .idle) tags p fun _ => ClientPort.clear_tagsOk _)⟩
    rw [State.modPort_ports, Table.get_modify_ne _ _ other]
    exact hq
  | resetsOwn p tag body h =>
    exact ⟨State.engineHoldsHead_of_none fun d => by rw [h.work]; simp [State.setWork, State.modPort],
      h.tagsAgree (State.reset_tagsAgree (s := s.setWork .idle) tags p tag body)⟩
  | answersLocal p q rest hq isLocal h =>
    refine ⟨fun c hc live => ?_, h.tagsAgree hq tags⟩
    rw [h.work] at hc
    obtain ⟨x, more, hx, ht, taken, table⟩ := head c hc live
    have apart : p ≠ c.port := by
      rintro rfl
      rw [hq] at hx
      cases hx
      rw [isLocal] at table
      cases table
    exact ⟨x, more, (h.queue_ne apart).trans hx, ht, taken, table⟩
  | resetsSelf p tag body h =>
    refine ⟨fun c hc live => ?_, h.tagsAgree (State.reset_tagsAgree tags p tag body)⟩
    rw [h.work] at hc
    simp only [State.modPort, State.setWork] at hc
    cases hw : s.engine.work with
    | idle => rw [hw] at hc; cases hc
    | pass _ => rw [hw] at hc; cases hc
    | command d =>
      rw [hw] at hc
      simp only [Work.withdraw, Work.command.injEq] at hc
      split at hc
      · subst hc; cases live
      · next other =>
        subst hc
        obtain ⟨x, more, hx, rest⟩ := head d hw live
        refine ⟨x, more, ?_, rest⟩
        rw [(h.ports _).queue, State.modPort_ports, State.setWork_ports, State.modPort_ports,
          Table.get_modify_ne _ _ (Ne.symm other), Table.get_modify_ne _ _ (Ne.symm other)]
        exact hx
  | takes p q rest r scan hq table h =>
    refine ⟨fun c hc _ => ?_, h.tagsAgree (State.modPort_tagsAgree tags p ClientPort.markTaken_tagsOk)⟩
    rw [h.work] at hc
    cases hc
    refine ⟨{ q with taken := true }, rest, ?_, rfl, rfl, table⟩
    rw [(h.ports p).queue, State.setWork_ports, State.modPort_ports, Table.get_modify, if_pos rfl,
      ClientPort.markTaken_of_cons hq]
  | refuses p q rest idle hq h =>
    refine ⟨State.engineHoldsHead_of_none fun c => by rw [h.work]; simp [State.modPort, idle],
      State.Answers.tagsAgree (q := { q with taken := true }) (rest := rest) h ?_
        (State.modPort_tagsAgree tags p ClientPort.markTaken_tagsOk)⟩
    rw [State.modPort_ports, Table.get_modify, if_pos rfl, ClientPort.markTaken_of_cons hq]
  | powers low right h =>
    subst h
    refine ⟨State.engineHoldsHead_of_none fun c => by simp [State.powerOn, Engine.reset], fun p => ?_⟩
    rw [State.powerOn_ports]
    exact ⟨List.nodup_nil, .refl _⟩

/-- Settles O55: the engine's command stays at the head of its port's queue until it is answered or withdrawn, and each change of the
queues moves its tags with it. -/
theorem commandsStayAccounted : Obligations.CommandsStayAccounted := by
  unfold Obligations.CommandsStayAccounted
  intro s t h e
  exact step_keeps_talks (P := State.CommandsAccounted) (fun _ _ h => h) (fun _ _ d => d.keeps_commands) h e

end Sys2Proof.Machine
end

section
/-! PROOFS. What the engine's searches have read as FREE, and the sets they find (R4, R52, R61 to R64, R68). -/

namespace Sys2Proof.Machine

/-! ## Readings -/

/-- A slot of a stretch was read as FREE at its place in the scan order. -/
theorem stretchesOf_seen (segs : List Run) (seen : List Bool) {r : Run} (hr : r ∈ stretchesOf segs seen) {j : Nat}
    (hj : r.has j = true) : ∃ k : Nat, (segs.flatMap Run.slots)[k]? = some j ∧ seen[k]? = some true := by
  induction segs generalizing seen with
  | nil => cases hr
  | cons seg rest ih =>
    rw [stretchesOf, List.mem_append] at hr
    have len : seg.slots.length = seg.len := List.length_range'
    rcases hr with hr | hr
    · obtain ⟨-, low, high, read⟩ := (stretchesFrom_spec (seen.take seg.len) seg.first).1 r hr
      have at_j := read j hj
      have bounds := (Run.has_iff r j).mp hj
      have short : j - seg.first < seg.len := by
        have := (List.getElem?_eq_some_iff.mp at_j).1
        rw [List.length_take] at this
        omega
      refine ⟨j - seg.first, ?_, ?_⟩
      · rw [List.flatMap_cons, List.getElem?_append_left (by rw [len]; exact short), Run.slots,
          List.getElem?_range' short, Nat.one_mul]
        congr 1
        omega
      · rwa [List.getElem?_take_of_lt short] at at_j
    · obtain ⟨k, order, read⟩ := ih (seen.drop seg.len) hr
      refine ⟨seg.len + k, ?_, by rwa [List.getElem?_drop] at read⟩
      rw [List.flatMap_cons, List.getElem?_append_right (by rw [len]; omega), len, Nat.add_sub_cancel_left]
      exact order

theorem Scan.holds_of_nil {free : Nat → Bool} {sc : Scan} (h : sc.seen = []) : sc.Holds free := by
  intro k hk
  rw [h] at hk
  cases hk

theorem Scan.Holds.mono {free free' : Nat → Bool} {sc : Scan} (h : sc.Holds free)
    (le : ∀ j, free j = true → free' j = true) : sc.Holds free' := fun k hk => by
  obtain ⟨j, hj, hf⟩ := h k hk
  exact ⟨j, hj, le j hf⟩

/-- Reading on, in whatever state of the map, what is left of the scan order. -/
theorem Scan.Holds.append {free : Nat → Bool} {sc : Scan} (h : sc.Holds free) (js rest : List Nat)
    (hd : sc.order.drop sc.seen.length = js ++ rest) :
    Scan.Holds free { sc with seen := sc.seen ++ js.map free } := by
  intro k hk
  by_cases lt : k < sc.seen.length
  · rw [List.getElem?_append_left lt] at hk
    exact h k hk
  · rw [List.getElem?_append_right (by omega), List.getElem?_map, Option.map_eq_some_iff] at hk
    obtain ⟨j, hj, hf⟩ := hk
    refine ⟨j, ?_, hf⟩
    have at_k : (sc.order.drop sc.seen.length)[k - sc.seen.length]? = some j := by
      rw [hd, List.getElem?_append_left (List.getElem?_eq_some_iff.mp hj).1]
      exact hj
    rw [List.getElem?_drop, Nat.add_sub_cancel' (by omega)] at at_k
    exact at_k

theorem Scan.Holds.readNext {free : Nat → Bool} {sc : Scan} (h : sc.Holds free) : (sc.readNext free).Holds free := by
  unfold Scan.readNext
  split
  · exact h
  · next i rest hd => exact h.append [i] rest hd

theorem Scan.Holds.readRest {free : Nat → Bool} {sc : Scan} (h : sc.Holds free) : (sc.readRest free).Holds free :=
  h.append _ [] (by simp)

/-! ## What a search finds -/

theorem Run.within_of_first {r : Run} {n : Nat} (h : n ≤ r.len) : r.within ⟨r.first, n⟩ := by
  constructor
  · exact Nat.le_refl _
  · exact Nat.add_le_add_left h _

/-- Every slot of the set that a search ends with is FREE (R52, R62, R63, R64). -/
theorem Scan.free_of_finish {free : Nat → Bool} {sc : Scan} (h : sc.Holds free) {set : List Run}
    (found : sc.finish free = some set) {j : Nat} (hj : inSet set j = true) : free j = true := by
  have held := h.readRest
  have read : ∀ k : Nat, (sc.readRest free).seen[k]? = some true → ∀ i : Nat, sc.order[k]? = some i → free i = true := by
    intro k hk i hi
    obtain ⟨j, order, hf⟩ := held k hk
    have e : sc.order[k]? = some j := order
    rw [hi] at e
    cases e
    exact hf
  have shaped (found : (match sc.args.shape with
      | .contiguous => findContiguous sc.args.n (stretchesOf (sc.args.segments sc.start) (sc.readRest free).seen)
      | .split minRun maxRuns =>
        findSplit sc.args.n minRun maxRuns (stretchesOf (sc.args.segments sc.start) (sc.readRest free).seen)) =
        some set) : free j = true := by
    have stretch : ∃ r ∈ stretchesOf (sc.args.segments sc.start) (sc.readRest free).seen, r.has j = true := by
      obtain ⟨q, hq, has⟩ := (mem_inSet set j).mp hj
      split at found
      · obtain ⟨r, hr, le, rfl⟩ := findContiguous_spec found
        rw [List.mem_singleton] at hq
        subst hq
        exact ⟨r, hr, Run.has_of_within (Run.within_of_first le) has⟩
      · obtain ⟨rfl, -⟩ := findSplit_spec found
        obtain ⟨-, -, r, hr, w⟩ := (collectRuns_spec _ _ _ _).1 q hq
        exact ⟨r, hr, Run.has_of_within w has⟩
    obtain ⟨r, hr, has⟩ := stretch
    obtain ⟨k, order, seen⟩ := stretchesOf_seen _ _ hr has
    exact read k seen j order
  unfold Scan.finish Scan.result at found
  split at found
  · next runs hp =>
    obtain ⟨all, e⟩ := Option.ite_none_right_eq_some.mp found
    have place : sc.args.place = .atRuns set := Option.some.inj e ▸ hp
    have order : sc.order = set.flatMap Run.slots := by simp only [Scan.order, SearchArgs.segments, place]
    obtain ⟨r, hr, has⟩ := (mem_inSet set j).mp hj
    have mem : j ∈ sc.order := by
      rw [order, List.mem_flatMap]
      refine ⟨r, hr, ?_⟩
      rw [Run.slots, List.mem_range'_1]
      exact (Run.has_iff r j).mp has
    obtain ⟨k, lt, hk⟩ := List.mem_iff_getElem.mp mem
    have long : k < (sc.readRest free).seen.length := by
      simp only [Scan.readRest, List.length_append, List.length_map, List.length_drop]
      omega
    refine read k ?_ j (by rw [List.getElem?_eq_getElem lt, hk])
    rw [List.getElem?_eq_getElem long]
    exact congrArg some (List.all_eq_true.mp all _ (List.getElem_mem long))
  · exact shaped found
  · exact shaped found

theorem State.searchResult_free {c : Command} {args : SearchArgs} {s : State}
    (h : ∀ sc, c.scan = some sc → sc.Holds s.map.isFree) {set : List Run} (found : s.searchResult c args = some set) :
    s.AllFree set := by
  intro j hj
  refine Scan.free_of_finish ?_ found hj
  cases hs : c.scan with
  | none => exact Scan.holds_of_nil rfl
  | some sc => exact h sc hs

/-! ## The searches of the engine -/

/-- The searches agree where the map has no less FREE slots and the engine's searches are those it had, if any. -/
theorem State.SearchesAgree.congr {s t : State} (h : s.SearchesAgree)
    (free : ∀ j, s.map.isFree j = true → t.map.isFree j = true) (work : s.engine.work.KeptAs t.engine.work) :
    t.SearchesAgree := by
  unfold State.SearchesAgree at h ⊢
  rcases work with e | e | ⟨c, w, hc, e⟩
  · rw [e]
    split
    · trivial
    · next c hw =>
      rw [hw] at h
      exact fun sc hs => (h sc hs).mono free
    · next p hw =>
      rw [hw] at h
      obtain ⟨found, apart, hand⟩ := h
      refine ⟨fun t ht j hj => free j (found t ht j hj), apart, fun ticket sc hs => (hand ticket sc hs).mono fun j hj => ?_⟩
      rw [Bool.and_eq_true] at hj ⊢
      exact ⟨free j hj.1, hj.2⟩
  · rw [e]
    trivial
  · rw [e]
    rw [hc] at h
    exact fun sc hs => (h sc hs).mono free

theorem State.searchesAgree_of_idle {s : State} (h : s.engine.work = .idle) : s.SearchesAgree := by
  unfold State.SearchesAgree
  rw [h]
  trivial

/-- What the trials of a pass have found, and what the trial in hand has read (R68). -/
def State.PassAgrees (s : State) (p : Pass) : Prop :=
  (∀ t ∈ p.trials, s.AllFree t.set) ∧
    p.trials.Pairwise (fun t u => ∀ j, ¬ (inSet t.set j = true ∧ inSet u.set j = true)) ∧
    ∀ ticket sc, p.inHand = some (ticket, sc) → sc.Holds fun j => s.map.isFree j && p.trials.all fun t => !inSet t.set j

theorem State.searchesAgree_of_pass {s : State} {p : Pass} (h : s.engine.work = .pass p) :
    s.SearchesAgree ↔ s.PassAgrees p := by
  unfold State.SearchesAgree
  rw [h]
  exact Iff.rfl

theorem State.trialFree_eq (p : Pass) (s : State) :
    s.trialFree p = fun j => s.map.isFree j && p.trials.all fun t => !inSet t.set j := by
  funext j
  simp [State.trialFree, List.all_eq_not_any_not]

section
variable {s : State} {p : Pass} (h : s.PassAgrees p)
include h

theorem State.PassAgrees.beginTrial (ticket : Byte) : s.PassAgrees (s.beginTrial ticket p) := by
  unfold State.beginTrial
  split
  · exact h
  · split
    · obtain ⟨found, apart, -⟩ := h
      exact ⟨found, apart, fun _ sc hs => by cases hs; exact Scan.holds_of_nil rfl⟩
    · exact h

/-- The set of a trial that ends is FREE and shares no slot with those of the trials before it. -/
theorem State.PassAgrees.endTrial : s.PassAgrees (s.endTrial p) := by
  obtain ⟨found, apart, hand⟩ := h
  unfold State.endTrial
  split
  · exact ⟨found, apart, hand⟩
  · next ticket sc hh =>
    split
    · exact ⟨found, apart, fun _ _ hs => by cases hs⟩
    · next set hset =>
      have held := hand ticket sc hh
      rw [State.trialFree_eq] at hset
      have free : ∀ j, inSet set j = true → s.map.isFree j = true ∧ ∀ t ∈ p.trials, inSet t.set j = false := by
        intro j hj
        have hf := Scan.free_of_finish held hset hj
        rw [Bool.and_eq_true, List.all_eq_true] at hf
        exact ⟨hf.1, fun t ht => by simpa using hf.2 t ht⟩
      refine ⟨fun t ht => ?_, ?_, fun _ _ hs => by cases hs⟩
      · rcases List.mem_append.mp ht with ht | ht
        · exact found t ht
        · rw [List.mem_singleton] at ht
          subst ht
          exact fun j hj => (free j hj).1
      · rw [List.pairwise_append]
        refine ⟨apart, List.pairwise_singleton _ _, fun t ht u hu j hj => ?_⟩
        rw [List.mem_singleton] at hu
        subst hu
        rw [(free j hj.2).2 t ht] at hj
        cases hj.1

theorem State.PassAgrees.with_todo (todo : List Byte) : s.PassAgrees { p with todo := todo } := h

theorem State.PassAgrees.tryAll (todo : List Byte) : s.PassAgrees (s.tryAll todo p) := by
  induction todo generalizing p with
  | nil => exact h
  | cons t rest ih => exact ih (h.beginTrial t).endTrial

theorem State.PassAgrees.advance : s.PassAgrees (s.advancePass p) := by
  unfold State.advancePass
  split
  · next ticket sc hh =>
    split
    · exact h.endTrial
    · obtain ⟨found, apart, hand⟩ := h
      refine ⟨found, apart, fun _ sc' hs => ?_⟩
      cases hs
      rw [State.trialFree_eq]
      exact (hand ticket sc hh).readNext
  · split
    · exact h
    · exact (h.with_todo _).beginTrial _

theorem State.PassAgrees.finishTrials : s.PassAgrees (s.finishTrials p) := (h.endTrial.tryAll _).with_todo []

end

end Sys2Proof.Machine
end

section
/-! PROOFS. Slots and the records that hold them, read as two functions: what the slots name and what the records hold (R2, R34, R104,
R114). -/

namespace Sys2Proof.Machine

/-! ## What the slots name and what the records hold -/

/-- The record and role that a slot names, with armed or not for a HELD slot and none for a LIVE one (R2). -/
def Slot.phase : Slot → Option (RecIx × Role × Option Bool)
  | .held i role armed _ => some (i, role, some armed)
  | .live i role _ => some (i, role, none)
  | .free => none
  | .draining _ _ => none
  | .barred => none

/-- What the slots name. -/
abbrev Phases := SlotIx → Option (RecIx × Role × Option Bool)

def State.phases (s : State) : Phases := fun j => (s.map.entries.get j).phase

/-- What an allocated record holds: its state, its set, its grant frame, and the stage and the target of its move. -/
structure Standing where
  state : ResState
  set : List Run
  frame : Word
  move : Option (Stage × List Run)

def Standing.setOf : Role → Standing → List Run
  | .current, a => a.set
  | .target, a => a.move.elim [] Prod.snd

/-- What the records hold. -/
abbrev Standings := RecIx → Option Standing

def State.standings (s : State) : Standings := fun i =>
  (s.reservation i).map fun a => ⟨a.state, a.set, a.grantFrame, (s.contextOf a).map fun x => (x.2.stage, x.2.target)⟩

/-- Every slot of a set is in the phase `x`: LIVE, or HELD armed or not. -/
def Phases.All (ph : Phases) (x : Option Bool) (set : List Run) : Prop :=
  ∀ j : SlotIx, inSet set j.val = true → ∃ i role, ph j = some (i, role, x)

/-- The slots of a record's sets follow the record's state and the stage of its move, up to promotion reports (R34, R114). -/
structure Standing.Agrees (ph : Phases) (pool moves : List PromotionReport) (i : RecIx) (a : Standing) : Prop where
  moving : a.move ≠ none → a.state = .moving
  current : ph.All none a.set ∨ a.state = .pending ∧ ph.All (some true) a.set
  target : ∀ stage set, a.move = some (stage, set) → match stage with
    | .offered _ => ph.All (some false) set
    | .armed => ph.All (some true) set ∨ ph.All none set ∧ ∃ r ∈ moves, r.Lists i .target
    | .overlap _ _ => ph.All none set
  pool : ∀ r ∈ pool, r.Lists i .current → a.state = .pending → a.frame ≠ r.mark → ph.All none a.set
  moves : ∀ r ∈ moves, r.Lists i .target →
    a.state = .pending ∧ a.frame = r.mark ∨ ∃ set, a.move = some (.armed, set) ∧ ph.All none set

/-- Slots and records agree. -/
structure SetsHold (st : Standings) (ph : Phases) (pool moves : List PromotionReport) : Prop where
  names : ∀ j i role, (∃ x, ph j = some (i, role, x)) ↔ ∃ a, st i = some a ∧ inSet (a.setOf role) j.val = true
  stages : ∀ i a, st i = some a → a.Agrees ph pool moves i

def State.SetsAgree (s : State) : Prop := SetsHold s.standings s.phases s.reports.pool s.reports.move

/-! ## The two readings are those of the invariant -/

theorem Slot.names_eq (e : Slot) : e.names = e.phase.map fun x => (x.1, x.2.1) := by
  cases e <;> rfl

theorem Slot.phase_live {e : Slot} {i : RecIx} {role : Role} :
    e.phase = some (i, role, none) ↔ ∃ b, e = .live i role b := by
  cases e <;> simp [Slot.phase]

theorem Slot.phase_held {e : Slot} {i : RecIx} {role : Role} {armed : Bool} :
    e.phase = some (i, role, some armed) ↔ ∃ b, e = .held i role armed b := by
  cases e <;> simp [Slot.phase]

theorem State.allLive_iff (set : List Run) (s : State) : s.AllLive set ↔ s.phases.All none set := by
  simp only [State.AllLive, Phases.All, State.phases, Slot.phase_live]

theorem State.allHeld_iff (armed : Bool) (set : List Run) (s : State) :
    s.AllHeld armed set ↔ s.phases.All (some armed) set := by
  simp only [State.AllHeld, Phases.All, State.phases, Slot.phase_held]

theorem State.standings_of {s : State} {i : RecIx} {a : Reservation} (h : s.reservation i = some a) :
    s.standings i = some ⟨a.state, a.set, a.grantFrame, (s.contextOf a).map fun x => (x.2.stage, x.2.target)⟩ := by
  simp only [State.standings, h, Option.map_some]

theorem State.standings_some {s : State} {i : RecIx} {st : Standing} (h : s.standings i = some st) :
    ∃ a, s.reservation i = some a ∧
      st = ⟨a.state, a.set, a.grantFrame, (s.contextOf a).map fun x => (x.2.stage, x.2.target)⟩ := by
  obtain ⟨a, ha, e⟩ := Option.map_eq_some_iff.mp h
  exact ⟨a, ha, e.symm⟩

theorem State.setOf_eq (role : Role) (a : Reservation) (s : State) : s.setOf role a =
    Standing.setOf role ⟨a.state, a.set, a.grantFrame, (s.contextOf a).map fun x => (x.2.stage, x.2.target)⟩ := by
  cases role with
  | current => rfl
  | target =>
    simp only [State.setOf, State.targetOf, Standing.setOf]
    cases s.contextOf a <;> rfl

theorem State.contextOf_moving {s : State} {a : Reservation} {x : CtxIx × MoveContext} (h : s.contextOf a = some x) :
    a.state = .moving := (State.contextOf_eq_some.mp (show s.contextOf a = some (x.1, x.2) from h)).1

theorem State.slotsAgree_iff (s : State) : s.SlotsAgree ↔ s.SetsAgree ∧ s.SearchesAgree := by
  have named : (∀ (j : SlotIx) i role, (s.map.entries.get j).names = some (i, role) ↔
      ∃ a, s.reservation i = some a ∧ inSet (s.setOf role a) j.val = true) ↔
      ∀ j i role, (∃ x, s.phases j = some (i, role, x)) ↔
        ∃ a, s.standings i = some a ∧ inSet (a.setOf role) j.val = true := by
    have left : ∀ (j : SlotIx) i role, (s.map.entries.get j).names = some (i, role) ↔
        ∃ x, s.phases j = some (i, role, x) := by
      intro j i role
      rw [Slot.names_eq, State.phases]
      cases (s.map.entries.get j).phase with
      | none => simp
      | some y =>
        obtain ⟨i', role', x⟩ := y
        simp
    have right : ∀ (j : SlotIx) i role, (∃ a, s.reservation i = some a ∧ inSet (s.setOf role a) j.val = true) ↔
        ∃ a, s.standings i = some a ∧ inSet (a.setOf role) j.val = true := by
      intro j i role
      constructor
      · rintro ⟨a, ha, hj⟩
        exact ⟨_, State.standings_of ha, by rwa [← State.setOf_eq]⟩
      · rintro ⟨st, hst, hj⟩
        obtain ⟨a, ha, rfl⟩ := State.standings_some hst
        exact ⟨a, ha, by rwa [State.setOf_eq]⟩
    simp only [left, right]
  have staged : s.StagesAgree ↔ ∀ i a, s.standings i = some a → a.Agrees s.phases s.reports.pool s.reports.move i := by
    constructor
    · intro h i st hst
      obtain ⟨a, ha, rfl⟩ := State.standings_some hst
      obtain ⟨current, target, pool, moves⟩ := h i a ha
      simp only [State.allLive_iff, State.allHeld_iff] at current target pool moves
      refine ⟨fun hm => ?_, ?_, ?_, pool, fun r hr hl => (moves r hr hl).imp_right ?_⟩
      · obtain ⟨x, hx⟩ := Option.ne_none_iff_exists'.mp hm
        obtain ⟨y, hy, -⟩ := Option.map_eq_some_iff.mp hx
        exact State.contextOf_moving hy
      · dsimp only
        cases hs : a.state <;> rw [hs] at current
        · exact current.symm.imp_right fun h => ⟨rfl, h⟩
        · exact .inl current
        · exact .inl current
      · intro stage set hm
        obtain ⟨⟨k, c⟩, hc, e⟩ := Option.map_eq_some_iff.mp hm
        cases e
        exact target k c hc
      · rintro ⟨k, c, hc, hs, hl⟩
        exact ⟨c.target, by simp [hc, hs], hl⟩
    · intro h i a ha
      obtain ⟨-, current, target, pool, moves⟩ := h i _ (State.standings_of ha)
      simp only [State.allLive_iff, State.allHeld_iff]
      refine ⟨?_, fun k c hc => target c.stage c.target (by simp [hc]), pool, fun r hr hl => (moves r hr hl).imp_right ?_⟩
      · dsimp only at current
        cases hs : a.state <;> simp only [hs, reduceCtorEq, false_and, or_false, true_and] at current ⊢
        · exact current.symm
        · exact current
        · exact current
      · rintro ⟨set, hm, hl⟩
        obtain ⟨⟨k, c⟩, hc, e⟩ := Option.map_eq_some_iff.mp hm
        simp only [Prod.mk.injEq] at e
        exact ⟨k, c, hc, e.1, by rw [e.2]; exact hl⟩
  unfold State.SlotsAgree
  rw [named, staged]
  exact ⟨fun h => ⟨⟨h.1, h.2.1⟩, h.2.2⟩, fun h => ⟨h.1.names, h.1.stages, h.2⟩⟩

/-! ## Changes of one record -/

section
variable {st : Standings} {ph : Phases} {pool moves : List PromotionReport} (h : SetsHold st ph pool moves)
include h

/-- A slot of one set of one record names that record in that role. -/
theorem SetsHold.phase_of_mem {i : RecIx} {a : Standing} (ha : st i = some a) {role : Role} {j : SlotIx}
    (hj : inSet (a.setOf role) j.val = true) : ∃ x, ph j = some (i, role, x) := (h.names j i role).mpr ⟨a, ha, hj⟩

theorem SetsHold.mem_of_phase {i : RecIx} {a : Standing} (ha : st i = some a) {role : Role} {x : Option Bool} {j : SlotIx}
    (hj : ph j = some (i, role, x)) : inSet (a.setOf role) j.val = true := by
  obtain ⟨b, hb, hm⟩ := (h.names j i role).mp ⟨x, hj⟩
  rw [ha] at hb
  cases hb
  exact hm

theorem SetsHold.no_phase {i : RecIx} (ha : st i = none) {role : Role} {x : Option Bool} {j : SlotIx} :
    ph j ≠ some (i, role, x) := by
  intro hj
  obtain ⟨b, hb, -⟩ := (h.names j i role).mp ⟨x, hj⟩
  rw [ha] at hb
  cases hb

/-- No slot is in two records or in two sets. -/
theorem SetsHold.apart {i i' : RecIx} {a : Standing} (ha : st i = some a) {role role' : Role} {x : Option Bool}
    {j : SlotIx} (hj : inSet (a.setOf role) j.val = true) (hp : ph j = some (i', role', x)) : i' = i ∧ role' = role := by
  obtain ⟨y, hy⟩ := h.phase_of_mem ha hj
  rw [hp] at hy
  cases hy
  exact ⟨rfl, rfl⟩

end

/-- The stages of a record's sets stay where the phases of its slots do. -/
theorem Standing.Agrees.congr {ph ph' : Phases} {pool moves : List PromotionReport} {i : RecIx} {a : Standing}
    (h : a.Agrees ph pool moves i) (all : ∀ role x, ph.All x (a.setOf role) → ph'.All x (a.setOf role)) :
    a.Agrees ph' pool moves i where
  moving := h.moving
  current := h.current.imp (all .current none) fun hc => ⟨hc.1, all .current _ hc.2⟩
  target stage set hm := by
    have e : a.setOf .target = set := by rw [Standing.setOf, hm]; rfl
    have ht := h.target stage set hm
    cases stage with
    | offered n => exact e ▸ all .target _ (e.symm ▸ ht)
    | armed => exact ht.imp (fun x => e ▸ all .target _ (e.symm ▸ x)) fun x => ⟨e ▸ all .target _ (e.symm ▸ x.1), x.2⟩
    | overlap n o => exact e ▸ all .target _ (e.symm ▸ ht)
  pool r hr hl hp hf := all .current _ (h.pool r hr hl hp hf)
  moves r hr hl := (h.moves r hr hl).imp_right fun ⟨set, hm, hx⟩ => by
    have e : a.setOf .target = set := by rw [Standing.setOf, hm]; rfl
    exact ⟨set, hm, e ▸ all .target _ (e.symm ▸ hx)⟩

/-- Record `i` and its slots change, and nothing of the other records. -/
theorem SetsHold.change {st st' : Standings} {ph ph' : Phases} {pool moves : List PromotionReport}
    (h : SetsHold st ph pool moves) (i : RecIx) (others : ∀ i', i' ≠ i → st' i' = st i')
    (phase : ∀ i', i' ≠ i → ∀ j role x, ph' j = some (i', role, x) ↔ ph j = some (i', role, x))
    (names : ∀ j role, (∃ x, ph' j = some (i, role, x)) ↔ ∃ a, st' i = some a ∧ inSet (a.setOf role) j.val = true)
    (stage : ∀ a, st' i = some a → a.Agrees ph' pool moves i) : SetsHold st' ph' pool moves where
  names j i' role := by
    by_cases hi : i' = i
    · subst hi
      exact names j role
    · simp only [phase i' hi, others i' hi]
      exact h.names j i' role
  stages i' a ha := by
    by_cases hi : i' = i
    · subst hi
      exact stage a ha
    · rw [others i' hi] at ha
      refine (h.stages i' a ha).congr fun role x all j hj => ?_
      obtain ⟨i'', role'', e⟩ := all j hj
      obtain ⟨rfl, rfl⟩ := h.apart ha hj e
      exact ⟨i'', role'', (phase i'' hi j role'' x).mpr e⟩

/-- A record is freed and the slots of both its sets name nothing any more (R8, R36). -/
theorem SetsHold.freed {st st' : Standings} {ph ph' : Phases} {pool moves : List PromotionReport}
    (h : SetsHold st ph pool moves) {i : RecIx} {a : Standing} (ha : st i = some a)
    (others : ∀ i', i' ≠ i → st' i' = st i') (gone : st' i = none)
    (phase : ∀ j : SlotIx, ph' j = if inSet (a.setOf .current ++ a.setOf .target) j.val then none else ph j) :
    SetsHold st' ph' pool moves := by
  have mine : ∀ (j : SlotIx) role, inSet (a.setOf role) j.val = true →
      inSet (a.setOf .current ++ a.setOf .target) j.val = true := by
    intro j role hj
    simp only [inSet, List.any_append, Bool.or_eq_true] at hj ⊢
    cases role
    · exact .inl hj
    · exact .inr hj
  have ofMine : ∀ j : SlotIx, inSet (a.setOf .current ++ a.setOf .target) j.val = true →
      ∃ role, inSet (a.setOf role) j.val = true := by
    intro j hj
    simp only [inSet, List.any_append, Bool.or_eq_true] at hj
    rcases hj with hj | hj
    · exact ⟨.current, hj⟩
    · exact ⟨.target, hj⟩
  refine h.change i others (fun i' hi j role x => ?_) (fun j role => ?_) (fun b hb => by rw [gone] at hb; cases hb)
  · rw [phase j]
    split
    · next hj =>
      refine ⟨nofun, fun e => ?_⟩
      obtain ⟨role', hr⟩ := ofMine j hj
      exact absurd (h.apart ha hr e).1 hi
    · exact Iff.rfl
  · rw [gone]
    refine ⟨fun ⟨x, e⟩ => ?_, fun ⟨b, hb, _⟩ => by cases hb⟩
    rw [phase j] at e
    split at e
    · cases e
    · next hj => exact absurd (mine j role (h.mem_of_phase ha e)) hj

/-- An offered move is abandoned: the record is LIVE and its target's slots name nothing any more (R8, R117). -/
theorem SetsHold.abandoned {st st' : Standings} {ph ph' : Phases} {pool moves : List PromotionReport}
    (h : SetsHold st ph pool moves) {i : RecIx} {a : Standing} {n : Nat} {target : List Run} (ha : st i = some a)
    (offered : a.move = some (.offered n, target)) (others : ∀ i', i' ≠ i → st' i' = st i')
    (here : st' i = some { a with state := .live, move := none })
    (phase : ∀ j : SlotIx, ph' j = if inSet target j.val then none else ph j) : SetsHold st' ph' pool moves := by
  have is_target : a.setOf .target = target := by rw [Standing.setOf, offered]; rfl
  have agrees := h.stages i a ha
  have current : ∀ (j : SlotIx) x, ph j = some (i, .current, x) → ph' j = some (i, .current, x) := by
    intro j x e
    rw [phase j, if_neg, e]
    intro hj
    cases (h.apart ha (role := .target) (is_target.symm ▸ hj) e).2
  refine h.change i others (fun i' hi j role x => ?_) (fun j role => ?_) (fun b hb => ?_)
  · rw [phase j]
    split
    · next hj => exact ⟨nofun, fun e => absurd (h.apart ha (role := .target) (is_target.symm ▸ hj) e).1 hi⟩
    · exact Iff.rfl
  · rw [here]
    refine ⟨fun ⟨x, e⟩ => ⟨_, rfl, ?_⟩, ?_⟩
    · rw [phase j] at e
      split at e
      · cases e
      · next hj =>
        have mem := h.mem_of_phase ha e
        cases role
        · exact mem
        · exact absurd (is_target ▸ mem) hj
    · rintro ⟨b, hb, hj⟩
      cases hb
      cases role
      · obtain ⟨x, e⟩ := h.phase_of_mem ha (role := .current) hj
        exact ⟨x, current j x e⟩
      · cases hj
  · rw [here] at hb
    cases hb
    have moving := agrees.moving (by rw [offered]; simp)
    have live : ph.All none a.set := agrees.current.resolve_right fun hp => by rw [moving] at hp; cases hp.1
    refine ⟨fun hm => absurd rfl hm, .inl fun j hj => ?_, nofun, nofun, fun r hr hl => ?_⟩
    · obtain ⟨i', role', e⟩ := live j hj
      obtain ⟨rfl, rfl⟩ := h.apart ha (role := .current) hj e
      exact ⟨i', .current, current j none e⟩
    · rcases agrees.moves r hr hl with ⟨hp, -⟩ | ⟨set, hm, -⟩
      · rw [moving] at hp
        cases hp
      · rw [offered] at hm
        cases hm

end Sys2Proof.Machine
end

section
/-! PROOFS. Slots and records through a move, a grant, a mark and its promotion reports (R5 to R10, R34, R114, R116). -/

namespace Sys2Proof.Machine

/-- The slots of a record's target, whose move has this stage and target. -/
theorem Standing.setOf_target {a : Standing} {stage : Stage} {target : List Run} (h : a.move = some (stage, target)) :
    a.setOf .target = target := by
  rw [Standing.setOf, h]
  rfl

/-- The stage of a move changes, with the slots of its target as the new stage asks, and the slots outside it stay (R110, R112). -/
theorem SetsHold.staged {st st' : Standings} {ph ph' : Phases} {pool moves : List PromotionReport}
    (h : SetsHold st ph pool moves) {i : RecIx} {a : Standing} {old new : Stage} {target : List Run} (ha : st i = some a)
    (moving : a.move = some (old, target)) (notArmed : old ≠ .armed) (others : ∀ i', i' ≠ i → st' i' = st i')
    (here : st' i = some { a with move := some (new, target) })
    (outside : ∀ j : SlotIx, inSet target j.val = false → ph' j = ph j)
    (inside : ∀ j : SlotIx, inSet target j.val = true → ∃ x, ph' j = some (i, .target, x))
    (stage : match new with
      | .offered _ => ph'.All (some false) target
      | .armed => ph'.All (some true) target
      | .overlap _ _ => ph'.All none target) : SetsHold st' ph' pool moves := by
  have is_target := Standing.setOf_target moving
  have agrees := h.stages i a ha
  have kept : ∀ (j : SlotIx) i' role x, i' ≠ i ∨ role ≠ .target → ph j = some (i', role, x) →
      ph' j = some (i', role, x) := by
    intro j i' role x hne e
    rw [outside j, e]
    by_contra hj
    obtain ⟨rfl, rfl⟩ := h.apart ha (role := .target) (is_target.symm ▸ Bool.eq_true_of_not_eq_false hj) e
    rcases hne with hne | hne <;> exact hne rfl
  refine h.change i others (fun i' hi j role x => ⟨fun e => ?_, kept j i' role x (.inl hi)⟩) (fun j role => ?_)
    (fun b hb => ?_)
  · cases hj : inSet target j.val with
    | false => rwa [outside j hj] at e
    | true =>
      obtain ⟨y, hy⟩ := inside j hj
      rw [hy] at e
      cases e
      exact absurd rfl hi
  · rw [here]
    constructor
    · rintro ⟨x, e⟩
      refine ⟨_, rfl, ?_⟩
      cases hj : inSet target j.val with
      | false =>
        rw [outside j hj] at e
        have mem := h.mem_of_phase ha e
        cases role
        · exact mem
        · exact is_target ▸ mem
      | true =>
        obtain ⟨y, hy⟩ := inside j hj
        rw [hy] at e
        cases e
        exact hj
    · rintro ⟨b, hb, hj⟩
      cases hb
      cases role
      · obtain ⟨x, e⟩ := h.phase_of_mem ha (role := .current) hj
        exact ⟨x, kept j i .current x (.inr (by simp)) e⟩
      · exact inside j hj
  · rw [here] at hb
    cases hb
    have state := agrees.moving (by rw [moving]; simp)
    have live : ph.All none a.set := agrees.current.resolve_right fun hp => by rw [state] at hp; cases hp.1
    refine ⟨fun _ => state, .inl fun j hj => ?_, fun g set hm => ?_, fun r _ _ hp => ?_, fun r hr hl => ?_⟩
    · obtain ⟨i', role', e⟩ := live j hj
      obtain ⟨rfl, rfl⟩ := h.apart ha (role := .current) hj e
      exact ⟨i', .current, kept j i' .current none (.inr (by simp)) e⟩
    · cases hm
      cases new with
      | offered n => exact stage
      | armed => exact .inl stage
      | overlap n o => exact stage
    · rw [show a.state = .pending from hp] at state
      cases state
    · rcases agrees.moves r hr hl with ⟨hp, -⟩ | ⟨set, hm, -⟩
      · rw [state] at hp
        cases hp
      · rw [moving] at hm
        cases hm
        exact absurd rfl notArmed

/-- A cutover: the old set drains, the target becomes the set and the record is LIVE (R10, R116). -/
theorem SetsHold.cutOver {st st' : Standings} {ph ph' : Phases} {pool moves : List PromotionReport}
    (h : SetsHold st ph pool moves) {i : RecIx} {a : Standing} {n : Nat} {o : Word} {target : List Run} (ha : st i = some a)
    (overlap : a.move = some (.overlap n o, target)) (others : ∀ i', i' ≠ i → st' i' = st i')
    (here : st' i = some { a with state := .live, set := target, move := none })
    (old : ∀ j : SlotIx, inSet a.set j.val = true → ph' j = none)
    (new : ∀ j : SlotIx, inSet target j.val = true → ph j = some (i, .target, none) → inSet a.set j.val = false →
      ph' j = some (i, .current, none))
    (outside : ∀ j : SlotIx, inSet a.set j.val = false → inSet target j.val = false → ph' j = ph j) :
    SetsHold st' ph' pool moves := by
  have is_target := Standing.setOf_target overlap
  have agrees := h.stages i a ha
  have live : ph.All none target := agrees.target _ _ overlap
  have fresh : ∀ j : SlotIx, inSet target j.val = true → ph' j = some (i, .current, none) := by
    intro j hj
    obtain ⟨i', role', e⟩ := live j hj
    obtain ⟨rfl, rfl⟩ := h.apart ha (role := .target) (is_target.symm ▸ hj) e
    refine new j hj e ?_
    by_contra hs
    cases (h.apart ha (role := .current) (Bool.eq_true_of_not_eq_false hs) e).2
  have outer : ∀ (j : SlotIx) i' role x, i' ≠ i → ph j = some (i', role, x) → ph' j = some (i', role, x) := by
    intro j i' role x hi e
    rw [outside j, e]
    · by_contra hs
      exact hi (h.apart ha (role := .current) (Bool.eq_true_of_not_eq_false hs) e).1
    · by_contra hs
      exact hi (h.apart ha (role := .target) (is_target.symm ▸ Bool.eq_true_of_not_eq_false hs) e).1
  refine h.change i others (fun i' hi j role x => ⟨fun e => ?_, outer j i' role x hi⟩) (fun j role => ?_) (fun b hb => ?_)
  · cases hj : inSet target j.val with
    | true =>
      rw [fresh j hj] at e
      cases e
      exact absurd rfl hi
    | false =>
      cases hs : inSet a.set j.val with
      | true => rw [old j hs] at e; cases e
      | false => rwa [outside j hs hj] at e
  · rw [here]
    constructor
    · rintro ⟨x, e⟩
      refine ⟨_, rfl, ?_⟩
      cases hj : inSet target j.val with
      | true =>
        rw [fresh j hj] at e
        cases e
        exact hj
      | false =>
        cases hs : inSet a.set j.val with
        | true => rw [old j hs] at e; cases e
        | false =>
          rw [outside j hs hj] at e
          have mem := h.mem_of_phase ha e
          cases role
          · exact absurd mem (by rw [Standing.setOf, hs]; simp)
          · rw [is_target, hj] at mem
            cases mem
    · rintro ⟨b, hb, hj⟩
      cases hb
      cases role
      · exact ⟨none, fresh j hj⟩
      · cases hj
  · rw [here] at hb
    cases hb
    have state := agrees.moving (by rw [overlap]; simp)
    refine ⟨fun hm => absurd rfl hm, .inl fun j hj => ⟨i, .current, fresh j hj⟩, nofun, nofun, fun r hr hl => ?_⟩
    rcases agrees.moves r hr hl with ⟨hp, -⟩ | ⟨set, hm, -⟩
    · rw [state] at hp
      cases hp
    · rw [overlap] at hm
      cases hm

/-- FREE slots go to a record in a role in which it held none: the slots name it, armed or not (R5, R6). -/
theorem SetsHold.taken {st st' : Standings} {ph ph' : Phases} {pool moves : List PromotionReport}
    (h : SetsHold st ph pool moves) {i : RecIx} {b : Standing} {role : Role} {armed : Bool} {set : List Run}
    (free : ∀ j : SlotIx, inSet set j.val = true → ph j = none)
    (phase : ∀ j : SlotIx, ph' j = if inSet set j.val then some (i, role, some armed) else ph j)
    (others : ∀ i', i' ≠ i → st' i' = st i') (here : st' i = some b) (mine : b.setOf role = set)
    (other : ∀ role' (j : SlotIx), role' ≠ role →
      ((∃ x, ph j = some (i, role', x)) ↔ inSet (b.setOf role') j.val = true))
    (none : ∀ (j : SlotIx) x, ph j ≠ some (i, role, x))
    (stage : b.Agrees ph' pool moves i) : SetsHold st' ph' pool moves := by
  refine h.change i others (fun i' hi j role' x => ?_) (fun j role' => ?_)
    (fun c hc => by rw [here] at hc; cases hc; exact stage)
  · rw [phase j]
    split
    · next hj =>
      rw [free j hj]
      exact ⟨fun e => by cases e; exact absurd rfl hi, nofun⟩
    · exact Iff.rfl
  · rw [here, phase j]
    by_cases hr : role' = role
    · subst hr
      split
      · next hj => exact ⟨fun _ => ⟨b, rfl, by rw [mine]; exact hj⟩, fun _ => ⟨_, rfl⟩⟩
      · next hj =>
        exact ⟨fun ⟨x, e⟩ => absurd e (none j x), fun ⟨c, hc, hm⟩ => by cases hc; rw [mine] at hm; exact absurd hm hj⟩
    · have iff := other role' j hr
      split
      · next hj =>
        refine ⟨fun ⟨x, e⟩ => by cases e; exact absurd rfl hr, fun ⟨c, hc, hm⟩ => ?_⟩
        cases hc
        obtain ⟨x, e⟩ := iff.mpr hm
        rw [free j hj] at e
        cases e
      · exact ⟨fun e => ⟨b, rfl, iff.mp e⟩, fun ⟨c, hc, hm⟩ => by cases hc; exact iff.mpr hm⟩

/-- A grant: a free record takes FREE slots, PENDING, in the frame of the promotion reports left (R5, R29). -/
theorem SetsHold.granted {st st' : Standings} {ph ph' : Phases} {pool moves : List PromotionReport}
    (h : SetsHold st ph pool moves) {i : RecIx} {set : List Run} {frame : Word} (unused : st i = none)
    (free : ∀ j : SlotIx, inSet set j.val = true → ph j = none)
    (phase : ∀ j : SlotIx, ph' j = if inSet set j.val then some (i, .current, some true) else ph j)
    (others : ∀ i', i' ≠ i → st' i' = st i') (here : st' i = some ⟨.pending, set, frame, none⟩)
    (poolFrame : ∀ r ∈ pool, r.mark = frame) (movesFrame : ∀ r ∈ moves, r.mark = frame) :
    SetsHold st' ph' pool moves := by
  refine h.taken free phase others here rfl (fun role' j hr => ?_) (fun j x => h.no_phase unused) ?_
  · refine ⟨fun ⟨x, e⟩ => absurd e (h.no_phase unused), fun hm => ?_⟩
    cases role'
    · exact absurd rfl hr
    · cases hm
  · refine ⟨fun hm => absurd rfl hm, .inr ⟨rfl, fun j hj => ⟨i, .current, by rw [phase j, if_pos hj]⟩⟩, nofun,
      fun r hr _ _ hf => absurd (poolFrame r hr).symm hf, fun r hr _ => .inl ⟨rfl, (movesFrame r hr).symm⟩⟩

/-- A move begins: a LIVE record takes FREE slots as its target (R6, R108). -/
theorem SetsHold.relocated {st st' : Standings} {ph ph' : Phases} {pool moves : List PromotionReport}
    (h : SetsHold st ph pool moves) {i : RecIx} {a : Standing} {set : List Run} {stage : Stage} {armed : Bool}
    (ha : st i = some a) (live : a.state = .live)
    (free : ∀ j : SlotIx, inSet set j.val = true → ph j = none)
    (phase : ∀ j : SlotIx, ph' j = if inSet set j.val then some (i, .target, some armed) else ph j)
    (first : armed = true ∧ stage = .armed ∨ armed = false ∧ ∃ n, stage = .offered n)
    (others : ∀ i', i' ≠ i → st' i' = st i')
    (here : st' i = some { a with state := .moving, move := some (stage, set) }) : SetsHold st' ph' pool moves := by
  have agrees := h.stages i a ha
  have still : a.move = none := by
    by_contra hm
    rw [agrees.moving hm] at live
    cases live
  have no_target : a.setOf .target = [] := by rw [Standing.setOf, still]; rfl
  have all : ph.All none a.set := agrees.current.resolve_right fun hp => by rw [live] at hp; cases hp.1
  refine h.taken free phase others here rfl (fun role' j hr => ?_) (fun j x e => ?_) ?_
  · cases role'
    · exact ⟨fun ⟨x, e⟩ => h.mem_of_phase ha e, fun hm => h.phase_of_mem ha (role := .current) hm⟩
    · exact absurd rfl hr
  · have mem := h.mem_of_phase ha e
    rw [no_target] at mem
    cases mem
  · have held : ph'.All (some armed) set := fun j hj => ⟨i, .target, by rw [phase j, if_pos hj]⟩
    refine ⟨fun _ => rfl, .inl fun j hj => ?_, fun g target hm => ?_, nofun, fun r hr hl => ?_⟩
    · obtain ⟨i', role', e⟩ := all j hj
      refine ⟨i', role', ?_⟩
      rw [phase j, if_neg, e]
      intro hs
      rw [free j hs] at e
      cases e
    · cases hm
      rcases first with ⟨rfl, rfl⟩ | ⟨rfl, n, rfl⟩
      · exact .inl held
      · exact held
    · rcases agrees.moves r hr hl with ⟨hp, -⟩ | ⟨target, hm, -⟩
      · rw [live] at hp
        cases hp
      · rw [still] at hm
        cases hm

/-! ## A mark and its promotion reports -/

/-- The phase of a slot after the promotion of a mark (R14). -/
def promotedPhase : Option (RecIx × Role × Option Bool) → Option (RecIx × Role × Option Bool)
  | some (i, role, some true) => some (i, role, none)
  | x => x

/-- The promotion of a mark, with no report left from before and its own report naming every armed set (R14, R17). -/
theorem SetsHold.promoted {st : Standings} {ph ph' : Phases} (h : SetsHold st ph [] []) {due : List PromotionReport}
    (phase : ∀ j, ph' j = promotedPhase (ph j))
    (lists : ∀ r ∈ due, ∀ i role, r.Lists i role ↔ ∃ j, ph j = some (i, role, some true))
    (all : ∀ j i role, ph j = some (i, role, some true) → due ≠ []) : SetsHold st ph' due due := by
  have lives : ∀ set, ph.All none set → ph'.All none set := by
    intro set hl j hj
    obtain ⟨i, role, e⟩ := hl j hj
    exact ⟨i, role, by rw [phase, e]; rfl⟩
  have helds : ∀ set, ph.All (some true) set → ph'.All none set := by
    intro set hl j hj
    obtain ⟨i, role, e⟩ := hl j hj
    exact ⟨i, role, by rw [phase, e]; rfl⟩
  refine ⟨fun j i role => ?_, fun i a ha => ?_⟩
  · rw [← h.names j i role, phase]
    constructor
    · rintro ⟨x, e⟩
      unfold promotedPhase at e
      split at e
      · next i' role' hp => cases e; exact ⟨_, hp⟩
      · exact ⟨x, e⟩
    · rintro ⟨x, e⟩
      rw [e]
      unfold promotedPhase
      split
      · next he => cases he; exact ⟨none, rfl⟩
      · exact ⟨x, rfl⟩
  · have agrees := h.stages i a ha
    have current : ph'.All none a.set := by
      rcases agrees.current with hc | ⟨-, hc⟩
      · exact lives _ hc
      · exact helds _ hc
    refine ⟨agrees.moving, .inl current, fun stage set hm => ?_, fun _ _ _ _ _ => current, fun r hr hl => ?_⟩
    · have ht := agrees.target stage set hm
      have is_target := Standing.setOf_target hm
      cases stage with
      | offered n =>
        intro j hj
        obtain ⟨i', role', e⟩ := ht j hj
        exact ⟨i', role', by rw [phase, e]; rfl⟩
      | overlap n o => exact lives _ ht
      | armed =>
        have held : ph.All (some true) set := ht.resolve_right fun ⟨_, r, hr, _⟩ => absurd hr List.not_mem_nil
        by_cases empty : ∃ j : SlotIx, inSet set j.val = true
        · obtain ⟨j, hj⟩ := empty
          obtain ⟨i', role', e⟩ := held j hj
          obtain ⟨rfl, rfl⟩ := h.apart ha (role := .target) (is_target.symm ▸ hj) e
          obtain ⟨r, hr⟩ := List.exists_mem_of_ne_nil due (all j _ _ e)
          exact .inr ⟨helds _ held, r, hr, (lists r hr _ _).mpr ⟨j, e⟩⟩
        · exact .inl fun j hj => absurd ⟨j, hj⟩ empty
    · obtain ⟨j, e⟩ := (lists r hr _ _).mp hl
      have hj := h.mem_of_phase ha e
      cases hm : a.move with
      | none =>
        rw [Standing.setOf, hm] at hj
        cases hj
      | some m =>
        obtain ⟨stage, set⟩ := m
        rw [Standing.setOf_target hm] at hj
        have ht := agrees.target stage set hm
        cases stage with
        | offered n =>
          obtain ⟨_, _, e'⟩ := ht j hj
          rw [e] at e'
          cases e'
        | overlap n o =>
          obtain ⟨_, _, e'⟩ := ht j hj
          rw [e] at e'
          cases e'
        | armed =>
          have held : ph.All (some true) set := ht.resolve_right fun ⟨_, r, hr, _⟩ => absurd hr List.not_mem_nil
          exact .inr ⟨set, rfl, helds _ held⟩

/-- A listed PENDING record goes LIVE, where its grant is of an earlier frame (R34). -/
def Standing.promotedBy (r : PromotionReport) (i : RecIx) (a : Standing) : Standing :=
  if (i, Role.current) ∈ r.promoted ∧ a.state = .pending ∧ a.frame ≠ r.mark then { a with state := .live } else a

/-- The Record Pool takes its promotion report (R34). -/
theorem SetsHold.poolTaken {st st' : Standings} {ph : Phases} {r : PromotionReport} {rest moves : List PromotionReport}
    (h : SetsHold st ph (r :: rest) moves) (marks : ∀ q ∈ moves, q.mark = r.mark)
    (standing : ∀ i, st' i = (st i).map (Standing.promotedBy r i)) : SetsHold st' ph rest moves := by
  have sets : ∀ role i a, (Standing.promotedBy r i a).setOf role = a.setOf role := by
    intro role i a
    unfold Standing.promotedBy
    cases role <;> split <;> rfl
  refine ⟨fun j i role => ?_, fun i b hb => ?_⟩
  · rw [h.names j i role, standing i]
    constructor
    · rintro ⟨a, ha, hj⟩
      exact ⟨_, by rw [ha]; rfl, by rw [sets]; exact hj⟩
    · rintro ⟨b, hb, hj⟩
      obtain ⟨a, ha, rfl⟩ := Option.map_eq_some_iff.mp hb
      exact ⟨a, ha, by rwa [sets] at hj⟩
  · rw [standing i] at hb
    obtain ⟨a, ha, rfl⟩ := Option.map_eq_some_iff.mp hb
    obtain ⟨moving, current, target, pool, moves'⟩ := h.stages i a ha
    unfold Standing.promotedBy
    split
    · next hp =>
      obtain ⟨listed, pending, frame⟩ := hp
      have still : a.move = none := by
        by_contra hm
        rw [moving hm] at pending
        cases pending
      refine ⟨fun hm => absurd still hm, .inl (pool r List.mem_cons_self listed pending frame), target, nofun,
        fun q hq hl => ?_⟩
      rcases moves' q hq hl with ⟨-, hf⟩ | hx
      · exact absurd (hf.trans (marks q hq)) frame
      · exact .inr hx
    · exact ⟨moving, current, target, fun q hq => pool q (List.mem_cons_of_mem _ hq), moves'⟩

/-- A listed ARMED move goes to OVERLAP (R114). -/
def Standing.overlapsBy (overlap : Nat) (r : PromotionReport) (i : RecIx) (a : Standing) : Standing :=
  match a.move with
  | some (.armed, set) =>
    if (i, Role.target) ∈ r.promoted then { a with move := some (.overlap overlap r.mark, set) } else a
  | _ => a

theorem Standing.overlapsBy_setOf (overlap : Nat) (r : PromotionReport) (i : RecIx) (role : Role) (a : Standing) :
    (Standing.overlapsBy overlap r i a).setOf role = a.setOf role := by
  unfold Standing.overlapsBy
  split
  · next hm => cases role <;> split <;> simp [Standing.setOf, hm]
  · rfl

/-- The Move Unit takes the one promotion report there is (R114). -/
theorem SetsHold.movesTaken {st st' : Standings} {ph : Phases} {r : PromotionReport} {pool : List PromotionReport}
    {overlap : Nat} (h : SetsHold st ph pool [r])
    (standing : ∀ i, st' i = (st i).map (Standing.overlapsBy overlap r i)) : SetsHold st' ph pool [] := by
  refine ⟨fun j i role => ?_, fun i b hb => ?_⟩
  · rw [h.names j i role, standing i]
    constructor
    · rintro ⟨a, ha, hj⟩
      exact ⟨_, by rw [ha]; rfl, by rw [Standing.overlapsBy_setOf]; exact hj⟩
    · rintro ⟨b, hb, hj⟩
      obtain ⟨a, ha, rfl⟩ := Option.map_eq_some_iff.mp hb
      exact ⟨a, ha, by rwa [Standing.overlapsBy_setOf] at hj⟩
  · rw [standing i] at hb
    obtain ⟨a, ha, rfl⟩ := Option.map_eq_some_iff.mp hb
    obtain ⟨moving, current, target, pool', moves'⟩ := h.stages i a ha
    have noReport : ∀ q ∈ ([] : List PromotionReport), q.Lists i .target →
        a.state = .pending ∧ a.frame = q.mark ∨ ∃ set, a.move = some (.armed, set) ∧ ph.All none set := nofun
    unfold Standing.overlapsBy
    split
    · next set hm =>
      split
      · next listed =>
        refine ⟨fun _ => moving (by rw [hm]; simp), current, fun stage set' e => ?_, pool', nofun⟩
        cases e
        rcases moves' r List.mem_cons_self listed with ⟨hp, -⟩ | ⟨set', hm', hl⟩
        · rw [moving (by rw [hm]; simp)] at hp
          cases hp
        · rw [hm] at hm'
          cases hm'
          exact hl
      · next listed =>
        refine ⟨moving, current, fun stage set' e => ?_, pool', noReport⟩
        rw [hm] at e
        cases e
        refine .inl ((target _ _ hm).resolve_right fun ⟨_, q, hq, hl⟩ => listed ?_)
        rw [List.mem_singleton] at hq
        exact hq ▸ hl
    · next hm =>
      refine ⟨moving, current, fun stage set e => ?_, pool', noReport⟩
      have ht := target stage set e
      cases stage with
      | offered n => exact ht
      | armed => exact absurd e (hm set)
      | overlap n o => exact ht

end Sys2Proof.Machine
end

section
/-! PROOFS. Every step keeps slots and records together (R2, R4, R104; O58). -/

namespace Sys2Proof.Machine

/-! ## Slots -/

theorem Table.mem_toList_iff {α : Type} {n : Nat} (t : Table α n) (a : α) : a ∈ t.toList ↔ ∃ i, t.get i = a := by
  rw [Table.toList_eq_map_get, List.mem_map]
  simp

theorem SlotMap.isFree_iff (m : SlotMap) (j : Nat) : m.isFree j = true ↔ ∃ h : j < 512, m.entries.get ⟨j, h⟩ = .free := by
  unfold SlotMap.isFree Table.get
  by_cases lt : j < 512
  · have len : j < m.entries.toList.length := by rw [m.entries.size]; exact lt
    simp [lt, List.getElem?_eq_getElem len]
  · have len : m.entries.toList.length ≤ j := by rw [m.entries.size]; omega
    simp [lt, List.getElem?_eq_none len]

/-- A claim that leaves FREE slots FREE. -/
theorem SlotMap.isFree_rewrite {f : Nat → Slot → Slot} (hf : ∀ i, f i .free = .free) (m : SlotMap) {j : Nat}
    (h : m.isFree j = true) : (m.rewrite f).isFree j = true := by
  obtain ⟨lt, e⟩ := (m.isFree_iff j).mp h
  refine ((m.rewrite f).isFree_iff j).mpr ⟨lt, ?_⟩
  rw [SlotMap.rewrite_entries, e, hf]

theorem State.phases_of_free {s : State} {set : List Run} (h : s.AllFree set) (j : SlotIx)
    (hj : inSet set j.val = true) : s.phases j = none := by
  obtain ⟨lt, e⟩ := (s.map.isFree_iff j.val).mp (h j.val hj)
  have e : s.map.entries.get j = .free := e
  rw [State.phases, e, Slot.phase]

theorem State.phases_rewrite {s t : State} {f : Nat → Slot → Slot} (h : t.map = s.map.rewrite f) (j : SlotIx) :
    t.phases j = (f j.val (s.map.entries.get j)).phase := by
  rw [State.phases, h, SlotMap.rewrite_entries]

/-! ## What each claim does to the phase of a slot -/

theorem grantSlot_phase (i : RecIx) (set : List Run) (j : Nat) (e : Slot) :
    (grantSlot i set j e).phase = if inSet set j then some (i, .current, some true) else e.phase := by
  unfold grantSlot
  split <;> rfl

theorem targetSlot_phase (i : RecIx) (set : List Run) (armed : Bool) (j : Nat) (e : Slot) :
    (targetSlot i set armed j e).phase = if inSet set j then some (i, .target, some armed) else e.phase := by
  unfold targetSlot
  split <;> rfl

theorem giveUpSlot_phase (guard : Nat) (set : List Run) (j : Nat) (e : Slot) :
    (giveUpSlot guard set j e).phase = if inSet set j then none else e.phase := by
  unfold giveUpSlot
  split
  · cases e with
    | held i role armed b => cases b <;> rfl
    | _ => rfl
  · rfl

theorem barSlot_phase (r : Run) (j : Nat) (e : Slot) : (barSlot r j e).phase = e.phase := by
  unfold barSlot
  split
  · cases e <;> rfl
  · rfl

theorem unbarSlot_phase (r : Run) (j : Nat) (e : Slot) : (unbarSlot r j e).phase = e.phase := by
  unfold unbarSlot
  split
  · cases e <;> rfl
  · rfl

theorem markSlot_phase (carried : Nat → Option Port) (j : Nat) (e : Slot) :
    (markSlot carried j e).phase = promotedPhase e.phase := by
  cases e with
  | held i role armed b => cases armed <;> rfl
  | draining n b =>
    unfold markSlot
    dsimp only
    split
    · rfl
    · split
      · cases b <;> rfl
      · rfl
  | _ => rfl

/-! ## What the records hold -/

/-- The fields of a reservation that the slots follow. -/
def Reservation.fixed (a : Reservation) : ResState × List Run × Word × Option CtxIx :=
  (a.state, a.set, a.grantFrame, a.context)

/-- A record stands as it did where its fields, the stage and the target of its move do. -/
theorem State.standings_congr {s t : State} (m : s.MovesAgree) {i : RecIx}
    (res : (t.reservation i).map Reservation.fixed = (s.reservation i).map Reservation.fixed)
    (moves : ∀ k c, s.moves.get k = some c → c.index = i →
      ∃ d, t.moves.get k = some d ∧ d.stage = c.stage ∧ d.target = c.target) : t.standings i = s.standings i := by
  unfold State.standings
  cases hs : s.reservation i with
  | none =>
    rw [hs, Option.map_none, Option.map_eq_none_iff] at res
    rw [res]
    rfl
  | some a =>
    rw [hs, Option.map_some, Option.map_eq_some_iff] at res
    obtain ⟨b, hb, e⟩ := res
    simp only [Reservation.fixed, Prod.mk.injEq] at e
    obtain ⟨state, set, frame, context⟩ := e
    have ctx : (t.contextOf b).map (fun x => (x.2.stage, x.2.target)) =
        (s.contextOf a).map fun x => (x.2.stage, x.2.target) := by
      by_cases hm : a.state = .moving
      · have pair := m.2 i a hs
        rw [if_pos hm] at pair
        obtain ⟨k, c, hk, hc, index⟩ := pair
        obtain ⟨d, hd, stage, target⟩ := moves k c hc index
        rw [State.contextOf_eq_some.mpr ⟨hm, hk, hc⟩,
          State.contextOf_eq_some.mpr ⟨state.trans hm, context.trans hk, hd⟩]
        simp [stage, target]
      · rw [State.contextOf_of_not_moving s hm, State.contextOf_of_not_moving t (by rw [state]; exact hm)]
    rw [hb, Option.map_some, Option.map_some, state, set, frame, ctx]

/-- A context in use and the record it moves (R104). -/
theorem State.MovesAgree.standing {s : State} (m : s.MovesAgree) {k : CtxIx} {c : MoveContext}
    (hk : s.moves.get k = some c) : ∃ a, s.reservation c.index = some a ∧
      s.standings c.index = some ⟨.moving, a.set, a.grantFrame, some (c.stage, c.target)⟩ := by
  obtain ⟨a, ha, moving, context⟩ := m.1 k c hk
  have hr : s.reservation c.index = some a := by rw [State.reservation, ha]
  refine ⟨a, hr, ?_⟩
  rw [State.standings_of hr, State.contextOf_eq_some.mpr ⟨moving, context, hk⟩, moving]
  rfl

theorem State.standings_of_still {s : State} {i : RecIx} {a : Reservation} (h : s.reservation i = some a)
    (still : a.state ≠ .moving) : s.standings i = some ⟨a.state, a.set, a.grantFrame, none⟩ := by
  rw [State.standings_of h, State.contextOf_of_not_moving s still]
  rfl

/-- The contexts of other records stay where one context changes. -/
theorem State.others_of_set {s t : State} {k : CtxIx} {c : MoveContext}
    (hk : s.moves.get k = some c) {d : Option MoveContext} (moves : t.moves = s.moves.set k d) {i : RecIx}
    (hi : i ≠ c.index) : ∀ j e, s.moves.get j = some e → e.index = i →
      ∃ f, t.moves.get j = some f ∧ f.stage = e.stage ∧ f.target = e.target := by
  rintro j e hj rfl
  refine ⟨e, ?_, rfl, rfl⟩
  rw [moves, Table.get_set_ne _ _ ?_, hj]
  rintro rfl
  rw [hk] at hj
  cases hj
  exact hi rfl

theorem State.reservation_modify {s t : State} {i : RecIx} {f : Reservation → Reservation}
    (records : t.pool.records = s.pool.records.modify i fun r => { r with alloc := r.alloc.map f }) (j : RecIx) :
    t.reservation j = if i = j then (s.reservation j).map f else s.reservation j := by
  rw [State.reservation, records, Table.get_modify]
  split <;> rfl

/-! ## One change after the other -/

theorem State.SetsAgree.congr {s t : State} (h : s.SetsAgree) (standings : ∀ i, t.standings i = s.standings i)
    (phases : ∀ j, t.phases j = s.phases j) (pool : t.reports.pool = s.reports.pool)
    (moves : t.reports.move = s.reports.move) : t.SetsAgree := by
  unfold State.SetsAgree
  rw [funext standings, funext phases, pool, moves]
  exact h

/-- Nothing that the slots follow changes. -/
theorem State.SetsAgree.kept {s t : State} (h : s.SetsAgree) (m : s.MovesAgree) (map : t.map = s.map)
    (records : t.pool.records = s.pool.records) (contexts : t.moves = s.moves)
    (pool : t.reports.pool = s.reports.pool) (moves : t.reports.move = s.reports.move) : t.SetsAgree :=
  h.congr (fun i => State.standings_congr m (by rw [State.reservation, records]; rfl)
    fun k c hk _ => ⟨c, by rw [contexts]; exact hk, rfl, rfl⟩) (fun j => by rw [State.phases, map]; rfl) pool moves

/-- A bar or unbar claim leaves what the slots name. -/
theorem State.SetsAgree.claimed {s : State} (h : s.SetsAgree) (m : s.MovesAgree) {f : Nat → Slot → Slot}
    (hf : ∀ j e, (f j e).phase = e.phase) : (s.claim none f).SetsAgree :=
  h.congr (fun i => State.standings_congr m (by simp [State.reservation]) fun k c hk _ => ⟨c, by simpa using hk, rfl, rfl⟩)
    (fun j => by rw [State.phases_rewrite (State.claim_map none f s), hf]; rfl) (by simp) (by simp)

/-- The record whose context takes another stage. -/
theorem State.standings_staged {s : State} (m : s.MovesAgree) {k : CtxIx} {c : MoveContext} {stage : Stage} {t : State} (hk : s.moves.get k = some c)
    (records : t.pool.records = s.pool.records) (moves : t.moves = s.moves.set k (some { c with stage := stage })) :
    (∀ i, i ≠ c.index → t.standings i = s.standings i) ∧ ∃ a, s.reservation c.index = some a ∧
      t.standings c.index = some ⟨.moving, a.set, a.grantFrame, some (stage, c.target)⟩ := by
  obtain ⟨a, ha, moving, context⟩ := m.1 k c hk
  have hr : t.reservation c.index = some a := by rw [State.reservation, records, ha]
  refine ⟨fun i hi => State.standings_congr m (by rw [State.reservation, records]; rfl) (State.others_of_set hk moves hi), a,
    by rw [State.reservation, ha], ?_⟩
  rw [State.standings_of hr, State.contextOf_eq_some.mpr ⟨moving, context, by rw [moves, Table.get_set_self]⟩, moving]
  rfl

section
variable {s : State} (h : s.SetsAgree) (m : s.MovesAgree)
include h m

theorem State.SetsAgree.released {i : RecIx} {a : Reservation} (cause : Cause) (releasing : Option Port)
    (hi : s.reservation i = some a) : (s.releaseRecord i cause releasing).SetsAgree := by
  have moves := State.releaseRecord_moves cause releasing hi
  unfold State.SetsAgree
  rw [State.releaseRecord_reports cause releasing hi]
  refine SetsHold.freed h (State.standings_of hi) (fun i' hi' => ?_) ?_ fun j => ?_
  · refine State.standings_congr m ?_ ?_
    · rw [State.reservation, State.releaseRecord_pool cause releasing hi]
      dsimp only
      rw [Table.get_set_ne _ _ (Ne.symm hi')]
      rfl
    · cases hc : s.contextOf a with
      | none =>
        rw [hc] at moves
        exact fun k c hk _ => ⟨c, by rw [moves]; exact hk, rfl, rfl⟩
      | some x =>
        obtain ⟨k, c⟩ := x
        rw [hc] at moves
        exact State.others_of_set (State.contextOf_eq_some.mp hc).2.2 moves (by rw [m.contextOf_index hi hc]; exact hi')
  · rw [State.standings, State.reservation, State.releaseRecord_pool cause releasing hi]
    simp
  · rw [State.phases_rewrite (State.releaseRecord_map cause releasing hi), State.releaseClaim, giveUpSlot_phase]
    rw [← State.setOf_eq .current a s, ← State.setOf_eq .target a s]
    rfl

theorem State.SetsAgree.moveAbandoned {k : CtxIx} {c : MoveContext} (reason : Reason) (stamp : Word) (mute : Option Port)
    (hk : s.moves.get k = some c) (offered : c.isOffered = true) : (s.abandonMove k reason stamp mute).SetsAgree := by
  obtain ⟨a, ha, st⟩ := m.standing hk
  have records := State.reservation_modify (t := s.abandonMove k reason stamp mute) (s := s) (i := c.index)
    (f := fun a => { a with state := .live, context := none }) (by rw [State.abandonMove_pool reason stamp mute hk])
  unfold State.SetsAgree
  rw [State.abandonMove_reports reason stamp mute hk]
  have stage : ∃ n, c.stage = .offered n := by
    unfold MoveContext.isOffered at offered
    split at offered
    · next n hs => exact ⟨n, hs⟩
    · cases offered
    · cases offered
  obtain ⟨n, hn⟩ := stage
  refine SetsHold.abandoned (n := n) (target := c.target) h st (by rw [hn]) (fun i' hi' => ?_) ?_ fun j => ?_
  · exact State.standings_congr m (by rw [records, if_neg (Ne.symm hi')])
      (State.others_of_set hk (State.abandonMove_moves reason stamp mute hk) hi')
  · have now : (s.abandonMove k reason stamp mute).reservation c.index = some { a with state := .live, context := none } := by
      rw [records, if_pos rfl, ha]
      rfl
    rw [State.standings_of_still now (by simp)]
  · rw [State.phases_rewrite (State.abandonMove_map reason stamp mute hk), giveUpSlot_phase]
    rfl

theorem State.SetsAgree.moveCutOver {k : CtxIx} {c : MoveContext} {n : Nat} {o : Word} (mark : Word)
    (hk : s.moves.get k = some c) (overlap : c.stage = .overlap n o) : (s.cutoverMove k c mark).SetsAgree := by
  obtain ⟨a, ha, st⟩ := m.standing hk
  have records := State.reservation_modify (t := s.cutoverMove k c mark) (s := s) (i := c.index)
    (f := fun b => { b with state := .live, context := none, set := c.target }) (by rw [State.cutoverMove_pool ha])
  have phases : ∀ j, (s.cutoverMove k c mark).phases j =
      (cutoverSlot s.params.guard a.set c.target j.val (s.map.entries.get j)).phase := by
    intro j
    rw [State.phases, State.cutoverMove_map ha, SlotMap.rewrite_entries, SlotMap.addCarry_entries]
  unfold State.SetsAgree
  rw [State.cutoverMove_reports]
  refine SetsHold.cutOver (n := n) (o := o) (target := c.target) h st (by rw [overlap]) (fun i' hi' => ?_) ?_
    (fun j hj => ?_) (fun j hj e hs => ?_) (fun j hs hj => ?_)
  · exact State.standings_congr m (by rw [records, if_neg (Ne.symm hi')])
      (State.others_of_set hk (State.cutoverMove_moves ha) hi')
  · have now : (s.cutoverMove k c mark).reservation c.index =
        some { a with state := .live, context := none, set := c.target } := by
      rw [records, if_pos rfl, ha]
      rfl
    rw [State.standings_of_still now (by simp)]
  · obtain ⟨x, e⟩ := h.phase_of_mem st (role := .current) hj
    have live : x = none := by
      obtain ⟨_, _, e'⟩ := ((h.stages _ _ st).current.resolve_right fun hp => by cases hp.1) j hj
      rw [e] at e'
      cases e'
      rfl
    subst live
    obtain ⟨b, eb⟩ := Slot.phase_live.mp e
    rw [phases, eb, cutoverSlot, if_pos hj]
    rfl
  · obtain ⟨b, eb⟩ := Slot.phase_live.mp e
    rw [phases, eb, cutoverSlot, if_neg (by rw [hs]; simp), if_pos hj]
    rfl
  · rw [phases, State.phases]
    cases s.map.entries.get j with
    | live i role b => rw [cutoverSlot, if_neg (by rw [hs]; simp), if_neg (by rw [hj]; simp)]
    | _ => rfl

theorem State.SetsAgree.moveArmed {k : CtxIx} {c : MoveContext} (hk : s.moves.get k = some c)
    (offered : c.isOffered = true) :
    State.SetsAgree ((s.setMove k (some { c with stage := .armed })).claim none (armSlot c.target)) := by
  obtain ⟨a, ha, st⟩ := m.standing hk
  obtain ⟨others, a', ha', here⟩ := State.standings_staged m (stage := .armed)
    (t := (s.setMove k (some { c with stage := .armed })).claim none (armSlot c.target)) hk (by simp) (by simp)
  rw [ha] at ha'
  cases ha'
  have stage : ∃ n, c.stage = .offered n := by
    unfold MoveContext.isOffered at offered
    split at offered
    · next n hs => exact ⟨n, hs⟩
    · cases offered
    · cases offered
  obtain ⟨n, hn⟩ := stage
  have held : s.phases.All (some false) c.target := (h.stages _ _ st).target _ _ (by rw [hn])
  have armed : ∀ j : SlotIx, inSet c.target j.val = true →
      ((s.setMove k (some { c with stage := .armed })).claim none (armSlot c.target)).phases j =
        some (c.index, .target, some true) := by
    intro j hj
    obtain ⟨i, role, e⟩ := held j hj
    obtain ⟨hi, hr⟩ := h.apart st (role := .target) hj e
    subst hi hr
    obtain ⟨b, eb⟩ := Slot.phase_held.mp e
    rw [State.phases_rewrite (State.claim_map none _ _), State.setMove_map, eb, armSlot, if_pos hj]
    rfl
  unfold State.SetsAgree
  rw [State.claim_reports_pool, State.claim_reports_move]
  refine SetsHold.staged (old := c.stage) (new := .armed) (target := c.target) h st rfl (by rw [hn]; simp) others here
    (fun j hj => ?_) (fun j hj => ⟨_, armed j hj⟩) (fun j hj => ⟨_, _, armed j hj⟩)
  rw [State.phases_rewrite (State.claim_map none _ _), State.setMove_map]
  unfold armSlot
  rw [if_neg (by rw [hj]; simp)]
  rfl

theorem State.SetsAgree.moveCounted {k : CtxIx} {c : MoveContext} {stage : Stage} (hk : s.moves.get k = some c)
    (counts : c.stage.CountsTo stage) : State.SetsAgree (s.setMove k (some { c with stage := stage })) := by
  obtain ⟨a, ha, st⟩ := m.standing hk
  obtain ⟨others, a', ha', here⟩ := State.standings_staged m (stage := stage)
    (t := s.setMove k (some { c with stage := stage })) hk rfl rfl
  rw [ha] at ha'
  cases ha'
  have target := (h.stages _ _ st).target _ _ rfl
  refine SetsHold.staged (old := c.stage) (new := stage) (target := c.target) h st rfl ?_ others here
    (fun _ _ => rfl) (fun j hj => h.phase_of_mem st (role := .target) hj) ?_
  · rcases counts with ⟨n, n', e, -⟩ | ⟨n, n', o, e, -⟩ <;> rw [e] <;> simp
  · rcases counts with ⟨n, n', e, rfl⟩ | ⟨n, n', o, e, rfl⟩
    · rw [e] at target
      exact target
    · rw [e] at target
      exact target

theorem State.SetsAgree.moveBegun {k : CtxIx} {i : RecIx} {a : Reservation} {hd : Handle}
    (requester : Option (Port × Byte)) {stage : Stage} {set : List Run} {owned : Bool} (hn : s.Names hd i a)
    (live : a.state = .live) (hk : s.moves.get k = none) (free : s.AllFree set)
    (first : owned = true ∧ stage = .armed ∨ owned = false ∧ ∃ n, stage = .offered n) :
    (s.beginMove k ⟨i, hd.gen, requester, stage, set⟩ owned).SetsAgree := by
  have ha : s.reservation i = some a := hn.2.1
  have st := State.standings_of_still ha (by rw [live]; simp)
  have records := State.reservation_modify (t := s.beginMove k ⟨i, hd.gen, requester, stage, set⟩ owned) (s := s) (i := i)
    (f := fun b => { b with state := .moving, context := some k }) (by rw [State.beginMove_pool])
  unfold State.SetsAgree
  rw [State.beginMove_reports_pool, State.beginMove_reports_move]
  refine SetsHold.relocated (set := set) h st live (State.phases_of_free free) (fun j => ?_) first (fun i' hi' => ?_) ?_
  · rw [State.phases_rewrite (State.beginMove_map k _ owned s), targetSlot_phase]
    rfl
  · refine State.standings_congr m (by rw [records, if_neg (Ne.symm hi')]) fun j e hj _ => ⟨e, ?_, rfl, rfl⟩
    rw [State.beginMove_moves, Table.get_set_ne _ _ ?_, hj]
    rintro rfl
    rw [hk] at hj
    cases hj
  · have now : (s.beginMove k ⟨i, hd.gen, requester, stage, set⟩ owned).reservation i =
        some { a with state := .moving, context := some k } := by
      rw [records, if_pos rfl, ha]
      rfl
    rw [State.standings_of now, State.contextOf_eq_some.mpr ⟨rfl, rfl, by rw [State.beginMove_moves, Table.get_set_self]⟩]
    rfl

theorem State.SetsAgree.recordGranted {i : RecIx} {rest : List RecIx} (owner : Port) (cls : ResClass) {set : List Run}
    (lease : Nat) (ticket : Option Byte) (place : Placement) (unused : s.reservation i = none) (free : s.AllFree set)
    (pool : ∀ r ∈ s.reports.pool, r.mark = s.timing.frameCounter)
    (moves : ∀ r ∈ s.reports.move, r.mark = s.timing.frameCounter) :
    (s.grant i rest owner cls set lease ticket place).SetsAgree := by
  have pool' : (s.grant i rest owner cls set lease ticket place).reports.pool = s.reports.pool := by simp [State.grant]
  have moves' : (s.grant i rest owner cls set lease ticket place).reports.move = s.reports.move := by simp [State.grant]
  unfold State.SetsAgree
  rw [pool', moves']
  refine SetsHold.granted (i := i) (set := set) (frame := s.timing.frameCounter) h (by simp [State.standings, unused])
    (State.phases_of_free free) (fun j => ?_) (fun i' hi' => ?_) ?_ pool moves
  · rw [State.phases_rewrite (State.grant_map i rest owner cls set lease ticket place s), grantSlot_phase]
    rfl
  · refine State.standings_congr m ?_ fun k c hk _ => ⟨c, by rw [State.grant_moves]; exact hk, rfl, rfl⟩
    rw [State.reservation, State.grant_pool]
    dsimp only
    rw [Table.get_set_ne _ _ (Ne.symm hi')]
    rfl
  · have now : (s.grant i rest owner cls set lease ticket place).reservation i =
        some (s.granted owner cls set lease ticket) := by
      rw [State.reservation, State.grant_pool]
      simp
    rw [State.standings_of_still now (by simp [State.granted])]
    rfl

end

end Sys2Proof.Machine
end

section
/-! PROOFS. Slots and records through the reactions to a mark and the grants of a pass; the invariant (R2, R14, R17, R34, R114; O58). -/

namespace Sys2Proof.Machine

/-! ## The promotion report of a mark -/

theorem mem_insertPromoted (x y : RecIx × Role) (l : List (RecIx × Role)) :
    x ∈ insertPromoted y l ↔ x = y ∨ x ∈ l := by
  induction l with
  | nil => simp [insertPromoted]
  | cons z zs ih =>
    unfold insertPromoted
    split
    · next e => subst e; simp
    · split
      · simp
      · rw [List.mem_cons, ih, List.mem_cons]
        tauto

/-- The report names the sets of the armed slots (R17). -/
theorem SlotMap.mem_promotedSets (map : SlotMap) (i : RecIx) (role : Role) :
    (i, role) ∈ map.promotedSets ↔ ∃ j, (map.entries.get j).phase = some (i, role, some true) := by
  have listed : (i, role) ∈ map.promotedSets ↔ ∃ e ∈ map.entries.toList, e.phase = some (i, role, some true) := by
    unfold SlotMap.promotedSets
    induction map.entries.toList with
    | nil => simp
    | cons e es ih =>
      simp only [List.foldr_cons, List.mem_cons, exists_eq_or_imp, ← ih]
      cases e with
      | held i' role' armed b => cases armed <;> simp [mem_insertPromoted, Slot.phase, eq_comm]
      | _ => simp [Slot.phase]
  rw [listed]
  constructor
  · rintro ⟨e, he, hp⟩
    obtain ⟨j, rfl⟩ := (Table.mem_toList_iff _ _).mp he
    exact ⟨j, hp⟩
  · rintro ⟨j, hp⟩
    exact ⟨_, (Table.mem_toList_iff _ _).mpr ⟨j, rfl⟩, hp⟩

theorem State.SetsAgree.mapTaken {s : State} (h : s.SetsAgree) (m : s.MovesAgree) (marks : s.MarksAgree) :
    s.mapTakeMark.SetsAgree := by
  by_cases ht : s.takesMarks = true
  case neg => rw [State.mapTakeMark_of_notTaking (by simpa using ht)]; exact h
  rcases marks.dueOnce.slotMap with hm | ⟨hm, -⟩
  · rw [State.mapTakeMark_of_none hm]; exact h
  have b := marks.beforeLatch (by rw [hm]; exact List.cons_ne_nil _ _)
  unfold State.SetsAgree at h ⊢
  rw [b.pool, b.moves] at h
  have standings : s.mapTakeMark.standings = s.standings := funext fun i =>
    State.standings_congr m (by rw [State.reservation, State.mapTakeMark_pool]; rfl)
      fun k c hk _ => ⟨c, by rw [State.mapTakeMark_moves]; exact hk, rfl, rfl⟩
  have phase : ∀ j, s.mapTakeMark.phases j = promotedPhase (s.phases j) := by
    intro j
    rw [State.phases, State.mapTakeMark_of_cons ht hm, State.mapReaction_map]
    show (((s.map.rewrite (markSlot (s.map.carried s.timing.lastMark))).entries.get j)).phase = _
    rw [SlotMap.rewrite_entries, markSlot_phase]
    rfl
  rw [standings, State.mapTakeMark_of_cons ht hm, (State.mapReaction_promotions _ _).1,
    (State.mapReaction_promotions _ _).2, ← State.mapTakeMark_of_cons ht hm]
  show SetsHold _ _ (s.reports.pool ++ s.map.promotions s.timing.lastMark)
    (s.reports.move ++ s.map.promotions s.timing.lastMark)
  rw [b.pool, b.moves, List.nil_append]
  refine h.promoted phase (fun r hr i role => ?_) fun j i role e => ?_
  · unfold SlotMap.promotions at hr
    split at hr
    · cases hr
    · rw [List.mem_singleton] at hr
      subst hr
      exact s.map.mem_promotedSets i role
  · have mem := (s.map.mem_promotedSets i role).mpr ⟨j, e⟩
    rw [SlotMap.promotions, if_neg]
    · simp
    · rw [List.isEmpty_iff]
      intro hn
      rw [hn] at mem
      cases mem

/-! ## Promotion reports at the Record Pool -/

/-- A listed PENDING reservation goes LIVE, where its grant is of an earlier frame (R34). -/
def Reservation.promotedBy (m : Word) (l : List (RecIx × Role)) (i : RecIx) (a : Reservation) : Reservation :=
  if (i, Role.current) ∈ l ∧ a.state = .pending ∧ a.grantFrame ≠ m then { a with state := .live } else a

theorem State.foldl_promoteRecord_reservation (m : Word) (l : List (RecIx × Role)) (s : State) (i : RecIx) :
    (l.foldl (State.promoteRecord m) s).reservation i = (s.reservation i).map (Reservation.promotedBy m l i) := by
  induction l generalizing s with
  | nil =>
    have same : Reservation.promotedBy m [] i = id := by
      funext a
      simp [Reservation.promotedBy]
    rw [same]
    simp
  | cons e l ih =>
    rw [List.foldl_cons, ih, State.reservation, State.promoteRecord_records, Option.map_map]
    rw [State.reservation]
    congr 1
    funext a
    simp only [Function.comp, Reservation.promotedBy, List.mem_cons]
    by_cases he : e = (i, .current)
    · subst he
      by_cases hp : a.state = .pending ∧ a.grantFrame ≠ m
      · simp [hp]
      · by_cases hl : (i, Role.current) ∈ l <;> simp [hp]
    · have he' : ¬ (i, Role.current) = e := fun x => he x.symm
      simp [he, he']

/-- The reservations after the Record Pool takes its next report (R34). -/
theorem State.poolTakeReport_reservation {s : State} {r : PromotionReport} {rest : List PromotionReport}
    (h : s.reports.pool = r :: rest) (i : RecIx) :
    s.poolTakeReport.reservation i = (s.reservation i).map (Reservation.promotedBy r.mark r.promoted i) := by
  rw [State.poolTakeReport_of_cons h, State.foldl_promoteRecord_reservation]
  rfl

theorem State.SetsAgree.poolReportTaken {s : State} (h : s.SetsAgree)
    (marks : ∀ p ∈ s.reports.pool, ∀ q ∈ s.reports.move, q.mark = p.mark) : s.poolTakeReport.SetsAgree := by
  cases hr : s.reports.pool with
  | nil => rw [State.poolTakeReport_of_none hr]; exact h
  | cons r rest =>
    unfold State.SetsAgree at h ⊢
    rw [hr] at h
    have phases : s.poolTakeReport.phases = s.phases := funext fun j => by
      rw [State.phases, State.poolTakeReport_map]
      rfl
    rw [(State.poolTakeReport_promotions s).1, (State.poolTakeReport_promotions s).2, hr, List.tail_cons, phases]
    refine h.poolTaken (marks r (by rw [hr]; exact List.mem_cons_self)) fun i => ?_
    cases hi : s.reservation i with
    | none => simp [State.standings, State.poolTakeReport_reservation hr, hi]
    | some a =>
      have now : s.poolTakeReport.reservation i = some (a.promotedBy r.mark r.promoted i) := by
        rw [State.poolTakeReport_reservation hr, hi, Option.map_some]
      rw [State.standings_of now, State.standings_of hi, Option.map_some,
        State.contextOf_congr _ (State.poolTakeReport_moves s)]
      unfold Reservation.promotedBy Standing.promotedBy
      dsimp only
      by_cases hp : (i, Role.current) ∈ r.promoted ∧ a.state = .pending ∧ a.grantFrame ≠ r.mark
      · rw [if_pos hp, if_pos hp, State.contextOf_of_not_moving s (by simp),
          State.contextOf_of_not_moving s (by rw [hp.2.1]; simp)]
      · rw [if_neg hp, if_neg hp]

/-! ## Promotion reports at the Move Unit -/

/-- A listed ARMED context goes to OVERLAP (R114). -/
def MoveContext.overlapsBy (overlap : Nat) (m : Word) (l : List (RecIx × Role)) (c : MoveContext) : MoveContext :=
  if (c.index, Role.target) ∈ l ∧ c.stage = .armed then { c with stage := .overlap overlap m } else c

/-- No two contexts in use name one record. -/
def State.ContextsApart (s : State) : Prop :=
  ∀ j k c d, s.moves.get j = some c → s.moves.get k = some d → c.index = d.index → j = k

theorem State.armedContext_eq_none {i : RecIx} {s : State} (h : s.armedContext i = none) {k : CtxIx} {c : MoveContext}
    (hk : s.moves.get k = some c) (index : c.index = i) : c.stage ≠ .armed := by
  intro armed
  have none := List.findSome?_eq_none_iff.mp h k (List.mem_finRange k)
  rw [hk, Option.bind_some, if_pos ⟨index, armed⟩] at none
  cases none

theorem State.startOverlap_moves (m : Word) {s : State} (apart : s.ContextsApart) (e : RecIx × Role) (k : CtxIx) :
    (s.startOverlap m e).moves.get k = (s.moves.get k).map (MoveContext.overlapsBy s.params.overlap m [e]) := by
  obtain ⟨i, role⟩ := e
  cases role with
  | current =>
    have same : MoveContext.overlapsBy s.params.overlap m [(i, .current)] = id := by
      funext c
      simp [MoveContext.overlapsBy]
    rw [same]
    simp [State.startOverlap]
  | target =>
    unfold State.startOverlap
    dsimp only
    split
    · next none =>
      cases hk : s.moves.get k with
      | none => rfl
      | some c =>
        rw [Option.map_some, MoveContext.overlapsBy, if_neg]
        rintro ⟨index, armed⟩
        simp only [List.mem_singleton, Prod.mk.injEq, and_true] at index
        exact State.armedContext_eq_none none hk index armed
    · next j c hj =>
      obtain ⟨hjc, index, armed⟩ := State.armedContext_some hj
      rw [State.postEach_moves, State.setMove_moves, Table.get_set]
      split
      · next e =>
        subst e
        rw [hjc, Option.map_some, MoveContext.overlapsBy, if_pos ⟨by simp [index], armed⟩]
      · next ne =>
        cases hk : s.moves.get k with
        | none => rfl
        | some d =>
          rw [Option.map_some, MoveContext.overlapsBy, if_neg]
          rintro ⟨listed, -⟩
          simp only [List.mem_singleton, Prod.mk.injEq, and_true] at listed
          exact ne (apart j k c d hjc hk (index.trans listed.symm))

theorem State.startOverlap_apart (m : Word) {s : State} (apart : s.ContextsApart) (e : RecIx × Role) :
    (s.startOverlap m e).ContextsApart := by
  intro j k c d hj hk index
  obtain ⟨c', hc', ic, -⟩ := State.moves_of_bare (s := s) (State.startOverlap_bare m s e j) hj
  obtain ⟨d', hd', id', -⟩ := State.moves_of_bare (s := s) (State.startOverlap_bare m s e k) hk
  exact apart j k c' d' hc' hd' (ic.trans (index.trans id'.symm))

theorem State.foldl_startOverlap_moves (m : Word) (l : List (RecIx × Role)) {s : State} (apart : s.ContextsApart)
    (k : CtxIx) : (l.foldl (State.startOverlap m) s).moves.get k =
      (s.moves.get k).map (MoveContext.overlapsBy s.params.overlap m l) := by
  induction l generalizing s with
  | nil =>
    have same : MoveContext.overlapsBy s.params.overlap m [] = id := by
      funext c
      simp [MoveContext.overlapsBy]
    rw [same]
    simp
  | cons e l ih =>
    rw [List.foldl_cons, ih (State.startOverlap_apart m apart e), State.startOverlap_moves m apart,
      State.startOverlap_params, Option.map_map]
    congr 1
    funext c
    simp only [Function.comp, MoveContext.overlapsBy, List.mem_cons, List.not_mem_nil, or_false]
    by_cases armed : c.stage = .armed
    · by_cases he : (c.index, Role.target) = e
      · simp [he, armed]
      · by_cases hl : (c.index, Role.target) ∈ l <;> simp [he, hl, armed]
    · simp [armed]

theorem State.MovesAgree.contextsApart {s : State} (m : s.MovesAgree) : s.ContextsApart :=
  fun _ _ _ _ hc hd e => m.index_inj hc hd e

/-- The contexts after the Move Unit takes its next report (R114). -/
theorem State.moveTakeReport_moves {s : State} (apart : s.ContextsApart) {r : PromotionReport} {rest : List PromotionReport}
    (h : s.reports.move = r :: rest) (k : CtxIx) : s.moveTakeReport.moves.get k =
      (s.moves.get k).map (MoveContext.overlapsBy s.params.overlap r.mark r.promoted) := by
  rw [State.moveTakeReport_of_cons h]
  exact State.foldl_startOverlap_moves r.mark r.promoted (s := { s with reports := { s.reports with move := rest } })
    apart k

theorem State.SetsAgree.moveReportTaken {s : State} (h : s.SetsAgree) (m : s.MovesAgree)
    (once : s.reports.move.length ≤ 1) : s.moveTakeReport.SetsAgree := by
  cases hr : s.reports.move with
  | nil => rw [State.moveTakeReport_of_none hr]; exact h
  | cons r rest =>
    obtain rfl : rest = [] := by
      rw [hr, List.length_cons] at once
      exact List.eq_nil_of_length_eq_zero (by omega)
    unfold State.SetsAgree at h ⊢
    rw [hr] at h
    have phases : s.moveTakeReport.phases = s.phases := funext fun j => by
      rw [State.phases, State.moveTakeReport_map]
      rfl
    rw [(State.moveTakeReport_promotions s).1, (State.moveTakeReport_promotions s).2, hr, List.tail_cons, phases]
    refine h.movesTaken (overlap := s.params.overlap) fun i => ?_
    have res : s.moveTakeReport.reservation i = s.reservation i := by
      rw [State.reservation, State.moveTakeReport_pool]
      rfl
    cases hi : s.reservation i with
    | none => simp [State.standings, res, hi]
    | some a =>
      rw [State.standings_of (res.trans hi), State.standings_of hi, Option.map_some]
      congr 1
      cases hc : s.contextOf a with
      | none =>
        have still : a.state ≠ .moving := fun moving => by
          have pair := m.2 i a hi
          rw [if_pos moving] at pair
          obtain ⟨k, c, ctx, hk, -⟩ := pair
          rw [State.contextOf_eq_some.mpr ⟨moving, ctx, hk⟩] at hc
          cases hc
        rw [State.contextOf_of_not_moving _ still]
        rfl
      | some x =>
        obtain ⟨k, c⟩ := x
        obtain ⟨moving, ctx, hk⟩ := State.contextOf_eq_some.mp hc
        have index := m.contextOf_index hi hc
        have now : s.moveTakeReport.contextOf a =
            some (k, c.overlapsBy s.params.overlap r.mark r.promoted) :=
          State.contextOf_eq_some.mpr ⟨moving, ctx, by rw [State.moveTakeReport_moves m.contextsApart hr, hk]; rfl⟩
        rw [now]
        unfold MoveContext.overlapsBy Standing.overlapsBy
        cases hs : c.stage with
        | armed =>
          simp only [Option.map_some, hs, index]
          split <;> simp_all
        | offered n => simp [hs]
        | overlap n o => simp [hs]

end Sys2Proof.Machine
end

section
/-! PROOFS. Every step keeps slots and records together (R2, R4, R104; O58). -/

namespace Sys2Proof.Machine

/-! ## The promotion reports still to be taken -/

/-- The promotion reports still to be taken are of one mark, and at most one waits at the Move Unit (R17, R89). -/
def State.ReportsOf (m : Word) (s : State) : Prop :=
  (∀ r ∈ s.reports.pool, r.mark = m) ∧ (∀ r ∈ s.reports.move, r.mark = m) ∧ s.reports.move.length ≤ 1

/-- No promotion report comes. -/
def State.ReportsWithin (s t : State) : Prop :=
  t.reports.pool <:+ s.reports.pool ∧ t.reports.move <:+ s.reports.move

theorem State.reportsWithin_of_eq {s t : State} (pool : t.reports.pool = s.reports.pool)
    (move : t.reports.move = s.reports.move) : s.ReportsWithin t :=
  ⟨pool ▸ List.suffix_rfl, move ▸ List.suffix_rfl⟩

theorem State.ReportsOf.within {m : Word} {s t : State} (h : s.ReportsOf m) (w : s.ReportsWithin t) : t.ReportsOf m :=
  ⟨fun r hr => h.1 r (w.1.subset hr), fun r hr => h.2.1 r (w.2.subset hr), Nat.le_trans w.2.length_le h.2.2⟩

theorem State.Act.reportsWithin {s t : State} (a : State.Act s t) : s.ReportsWithin t := by
  cases a with
  | quiet q => exact State.reportsWithin_of_eq q.poolReports q.moveReports
  | begins | reads | beginsPass | advances | enters | leaves | counts | drops | leases =>
    exact State.reportsWithin_of_eq rfl rfl
  | relocates => exact State.reportsWithin_of_eq (by simp) (by simp)
  | releases i a cause releasing hi =>
    exact State.reportsWithin_of_eq (by rw [State.releaseRecord_reports cause releasing hi])
      (by rw [State.releaseRecord_reports cause releasing hi])
  | abandons k c reason stamp mute hk _ =>
    exact State.reportsWithin_of_eq (by rw [State.abandonMove_reports reason stamp mute hk])
      (by rw [State.abandonMove_reports reason stamp mute hk])
  | arms => exact State.reportsWithin_of_eq (by simp) (by simp)
  | cutsOver k c n o m => exact State.reportsWithin_of_eq (by rw [State.cutoverMove_reports]) (by rw [State.cutoverMove_reports])
  | bars => exact State.reportsWithin_of_eq (by simp) (by simp)
  | unbars => exact State.reportsWithin_of_eq (by simp) (by simp)
  | leavesAll p => exact State.reportsWithin_of_eq (by simp) (by simp)
  | countsWaits m => exact State.reportsWithin_of_eq (by simp) (by simp)
  | promotes =>
    refine ⟨?_, ?_⟩
    · rw [(State.poolTakeReport_promotions s).1]
      exact List.tail_suffix _
    · rw [(State.poolTakeReport_promotions s).2]
  | overlaps =>
    refine ⟨?_, ?_⟩
    · rw [(State.moveTakeReport_promotions s).1]
    · rw [(State.moveTakeReport_promotions s).2]
      exact List.tail_suffix _

/-! ## The searches under a change -/

theorem State.SearchesAgree.of_map {s t : State} (h : s.SearchesAgree) (map : t.map = s.map)
    (work : s.engine.work.KeptAs t.engine.work) : t.SearchesAgree :=
  h.congr (fun j hj => by rw [map]; exact hj) work

theorem State.SearchesAgree.of_rewrite {s t : State} (h : s.SearchesAgree) {f : Nat → Slot → Slot}
    (hf : ∀ i, f i .free = .free) (map : t.map.entries = (s.map.rewrite f).entries)
    (work : t.engine.work = s.engine.work) : t.SearchesAgree :=
  h.congr (fun j hj => by
    have e := SlotMap.isFree_rewrite hf s.map hj
    unfold SlotMap.isFree at e ⊢
    rw [map]
    exact e) (.inl work)

theorem giveUpSlot_of_free (guard : Nat) (set : List Run) (i : Nat) : giveUpSlot guard set i .free = .free := by
  unfold giveUpSlot
  split <;> rfl

theorem armSlot_of_free (set : List Run) (i : Nat) : armSlot set i .free = .free := by
  unfold armSlot
  split <;> rfl

theorem unbarSlot_of_free (r : Run) (i : Nat) : unbarSlot r i .free = .free := by
  unfold unbarSlot
  split <;> rfl

theorem State.beginScan_unread (r : Request) (s : State) {sc : Scan} (h : s.beginScan r = some sc) : sc.seen = [] := by
  cases r with
  | reserve a => cases h; rfl
  | relocate a =>
    obtain ⟨x, -, rfl⟩ := Option.map_eq_some_iff.mp h
    rfl
  | _ => cases h

/-! ## Every change -/

theorem State.Act.keeps_sets {s t : State} (a : State.Act s t) (m : s.MovesAgree) {mark : Word} (once : s.ReportsOf mark)
    (h : s.SlotsAgree) : t.SlotsAgree := by
  rw [State.slotsAgree_iff] at h ⊢
  obtain ⟨sets, searches⟩ := h
  cases a with
  | quiet q =>
    exact ⟨sets.kept m q.map q.records q.moves q.poolReports q.moveReports, searches.of_map q.map q.work⟩
  | begins c _ scan =>
    refine ⟨sets.kept m rfl rfl rfl rfl rfl, fun sc hs => Scan.holds_of_nil ?_⟩
    exact State.beginScan_unread _ s (scan ▸ hs)
  | reads c sc hw hs =>
    refine ⟨sets.kept m rfl rfl rfl rfl rfl, fun sc' hs' => ?_⟩
    cases hs'
    unfold State.SearchesAgree at searches
    rw [hw] at searches
    exact (searches sc hs).readNext
  | beginsPass todo rover =>
    exact ⟨sets.kept m rfl rfl rfl rfl rfl, ⟨nofun, .nil, nofun⟩⟩
  | advances p hw =>
    refine ⟨sets.kept m rfl rfl rfl rfl rfl, (State.searchesAgree_of_pass rfl).mpr ?_⟩
    exact State.PassAgrees.advance ((State.searchesAgree_of_pass hw).mp searches)
  | relocates c q k i a set hw hq hn live hk found =>
    unfold State.SearchesAgree at searches
    rw [hw] at searches
    have free : (s.setWork .idle).AllFree set := State.searchResult_free searches found
    have idle : State.SetsAgree (s.setWork .idle) := sets.kept m rfl rfl rfl rfl rfl
    refine ⟨idle.moveBegun (m.of_eq rfl rfl) _ hn live hk free ?_, State.searchesAgree_of_idle (by simp)⟩
    unfold State.firstStage
    by_cases owned : a.owner = c.port
    · exact .inl ⟨decide_eq_true owned, if_pos (decide_eq_true owned)⟩
    · exact .inr ⟨decide_eq_false owned, _, if_neg (by simp [owned])⟩
  | releases i a cause releasing hi =>
    exact ⟨sets.released m cause releasing hi, searches.of_rewrite (giveUpSlot_of_free _ _)
      (by rw [State.releaseRecord_map cause releasing hi, State.releaseClaim])
      (by rw [State.releaseRecord_engine cause releasing hi])⟩
  | abandons k c reason stamp mute hk offered =>
    exact ⟨sets.moveAbandoned m reason stamp mute hk offered, searches.of_rewrite (giveUpSlot_of_free _ _)
      (by rw [State.abandonMove_map reason stamp mute hk]) (by rw [State.abandonMove_engine reason stamp mute hk])⟩
  | arms k c hk offered =>
    exact ⟨sets.moveArmed m hk offered, searches.of_rewrite (armSlot_of_free c.target) (by simp) (by simp)⟩
  | counts k c stage hk counts => exact ⟨sets.moveCounted m hk counts, searches.of_map rfl (.inl rfl)⟩
  | cutsOver k c n o mark hk overlap =>
    obtain ⟨a, ha, -⟩ := m.standing hk
    refine ⟨sets.moveCutOver m mark hk overlap, searches.of_rewrite (f := cutoverSlot s.params.guard a.set c.target)
      (fun _ => rfl) ?_ (by simp)⟩
    rw [State.cutoverMove_map ha]
    show ((s.map.addCarry _).entries.map _) = s.map.entries.map _
    rw [SlotMap.addCarry_entries]
  | drops p =>
    refine ⟨sets.congr (fun i => State.standings_congr m rfl fun k c hk _ => ?_) (fun _ => rfl) rfl rfl,
      searches.of_map rfl (.inl rfl)⟩
    simp only [State.dropRequester, Table.get_map, hk]
    split
    · exact ⟨_, rfl, rfl, rfl⟩
    · exact ⟨c, rfl, rfl, rfl⟩
  | bars r idle => exact ⟨sets.claimed m (barSlot_phase r), State.searchesAgree_of_idle (by simpa using idle)⟩
  | unbars r =>
    exact ⟨sets.claimed m (unbarSlot_phase r), searches.of_rewrite (unbarSlot_of_free r) (by simp) (by simp)⟩
  | leases i l =>
    refine ⟨sets.congr (fun j => State.standings_congr m ?_ fun k c hk _ => ⟨c, hk, rfl, rfl⟩) (fun _ => rfl) rfl rfl,
      searches.of_map rfl (.inl rfl)⟩
    rw [State.reservation_modify (s := s) rfl]
    split
    · rw [Option.map_map]
      rfl
    · rfl
  | enters a p limit _ => exact ⟨sets.kept m rfl rfl rfl rfl rfl, searches.of_map rfl (.inl rfl)⟩
  | leaves e _ => exact ⟨sets.kept m rfl rfl rfl rfl rfl, searches.of_map rfl (.inl rfl)⟩
  | leavesAll p =>
    exact ⟨sets.kept m (by simp) (by simp) (by simp) (by simp) (by simp),
      searches.of_map (by simp) (.inl (State.removePortEntries_work p s))⟩
  | countsWaits mark =>
    exact ⟨sets.kept m (by simp) (by simp) (by simp) (by simp) (by simp), searches.of_map (by simp) (.inl (by simp))⟩
  | promotes =>
    exact ⟨sets.poolReportTaken fun p hp q hq => (once.2.1 q hq).trans (once.1 p hp).symm,
      searches.of_map (by simp) (.inl (by simp))⟩
  | overlaps => exact ⟨sets.moveReportTaken m once.2.2, searches.of_map (by simp) (.inl (by simp))⟩

/-- A run of changes keeps slots and records together, with what that takes. -/
theorem State.Acts.keeps_slots {s t : State} (a : s.Acts t) (m : s.MovesAgree) {mark : Word} (once : s.ReportsOf mark)
    (h : s.SlotsAgree) : t.SlotsAgree := by
  have kept := a.keeps (P := fun u => u.MovesAgree ∧ u.ReportsOf mark ∧ u.SlotsAgree)
    (fun _ _ act ⟨m, once, h⟩ => ⟨act.keeps_moves m, once.within act.reportsWithin, act.keeps_sets m once h⟩)
    ⟨m, once, h⟩
  exact kept.2.2

theorem State.MarksAgree.reportsOf {s : State} (h : s.MarksAgree) : s.ReportsOf s.timing.lastMark := by
  have due := h.dueOnce
  have marks : ∀ {l : List PromotionReport}, (l = [] ∨ ∃ p, l = [⟨s.timing.lastMark, p⟩]) →
      ∀ r ∈ l, r.mark = s.timing.lastMark := by
    rintro l (rfl | ⟨p, rfl⟩) r hr
    · cases hr
    · rw [List.mem_singleton] at hr
      rw [hr]
  refine ⟨marks due.pool, marks due.moves, ?_⟩
  rcases due.moves with e | ⟨p, e⟩ <;> rw [e] <;> simp

/-- The promotion reports still to be taken carry the frame counter (R17, R90). -/
theorem State.MarksAgree.reportsNow {s : State} (h : s.MarksAgree) : s.ReportsOf s.timing.frameCounter := by
  by_cases hs : s.marks.slotMap = []
  · rw [(h.afterLatch hs).counter]
    exact h.reportsOf
  · have b := h.beforeLatch hs
    exact ⟨by rw [b.pool]; exact nofun, by rw [b.moves]; exact nofun, by rw [b.moves]; exact Nat.zero_le _⟩

theorem markSlot_of_free (carried : Nat → Option Port) (i : Nat) : markSlot carried i .free = .free := rfl

theorem State.mapTakeMark_slotsAgree {s : State} (m : s.MovesAgree) (marks : s.MarksAgree) (h : s.SlotsAgree) :
    s.mapTakeMark.SlotsAgree := by
  rw [State.slotsAgree_iff] at h ⊢
  refine ⟨h.1.mapTaken m marks, ?_⟩
  by_cases ht : s.takesMarks = true
  case neg => rw [State.mapTakeMark_of_notTaking (by simpa using ht)]; exact h.2
  cases hm : s.marks.slotMap with
  | nil => rw [State.mapTakeMark_of_none hm]; exact h.2
  | cons mark rest =>
    refine h.2.of_rewrite (markSlot_of_free (s.map.carried mark)) ?_ (State.mapTakeMark_work s)
    rw [State.mapTakeMark_of_cons ht hm, State.mapReaction_map]
    rfl

end Sys2Proof.Machine
end

section
/-! PROOFS. Grants and the whole step keep slots and records together (R4, R59, R68, R77; O58). -/

namespace Sys2Proof.Machine

/-- A trial is dropped, or granted to the head of the FIFO (R77). -/
theorem State.grantTrial_cases (s : State) (x : Trial) : s.grantTrial x = s ∨ ∃ e i rest,
    s.waits.find x.ticket = some e ∧ s.pool.fifo = i :: rest ∧ State.Quiet
      (State.removeEntry e (s.grant i rest e.port e.cls x.set e.lease (some e.ticket) e.search.place)) (s.grantTrial x) := by
  unfold State.grantTrial
  split
  · exact .inl rfl
  · next e he =>
    split
    · split
      · exact .inl rfl
      · next i rest fifo =>
        exact .inr ⟨e, i, rest, he, fifo, (State.post_quiet _ _ _ _ _).trans (State.grantReports_quiet _ _)⟩
    · exact .inl rfl

/-- What the grants of a pass rest on, trial after trial. -/
structure State.Grantable (s : State) (trials : List Trial) : Prop where
  pool : s.PoolAgrees
  moves : s.MovesAgree
  sets : s.SetsAgree
  reports : s.ReportsOf s.timing.frameCounter
  free : ∀ t ∈ trials, s.AllFree t.set
  apart : trials.Pairwise fun t u => ∀ j, ¬ (inSet t.set j = true ∧ inSet u.set j = true)

/-- FREE slots outside a granted set stay FREE. -/
theorem SlotMap.isFree_grant {m : SlotMap} {i : RecIx} {set : List Run} {j : Nat} (h : m.isFree j = true)
    (outside : inSet set j = false) : (m.rewrite (grantSlot i set)).isFree j = true := by
  obtain ⟨lt, e⟩ := (m.isFree_iff j).mp h
  refine ((m.rewrite _).isFree_iff j).mpr ⟨lt, ?_⟩
  rw [SlotMap.rewrite_entries, grantSlot, if_neg (by simp [outside]), e]

theorem State.PoolAgrees.unused {s : State} (h : s.PoolAgrees) {i : RecIx} {rest : List RecIx}
    (fifo : s.pool.fifo = i :: rest) : s.reservation i = none :=
  (h.2.1 i).mp (by rw [fifo]; exact List.mem_cons_self)

theorem State.Grantable.grantTrial {s : State} {x : Trial} {trials : List Trial} (h : s.Grantable (x :: trials)) :
    (s.grantTrial x).Grantable trials := by
  obtain ⟨pool, moves, sets, reports, free, apart⟩ := h
  obtain ⟨apart_x, apart'⟩ := List.pairwise_cons.mp apart
  have whole := State.grantTrial_wholeMoves s x ⟨pool, moves⟩
  rcases State.grantTrial_cases s x with e | ⟨e, i, rest, -, fifo, q⟩
  · rw [e]
    exact ⟨pool, moves, sets, reports, fun t ht => free t (List.mem_cons_of_mem _ ht), apart'⟩
  · have granted := sets.recordGranted moves (rest := rest) e.port e.cls e.lease (some e.ticket) e.search.place
      (pool.unused fifo) (free x List.mem_cons_self) reports.1 reports.2.1
    have grantedMoves := State.grant_movesAgree pool moves fifo e.port e.cls x.set e.lease (some e.ticket) e.search.place
    have left : State.SetsAgree (State.removeEntry e
        (s.grant i rest e.port e.cls x.set e.lease (some e.ticket) e.search.place)) :=
      granted.kept grantedMoves rfl rfl rfl rfl rfl
    have timing : (s.grantTrial x).timing = s.timing := congrArg Prod.fst (State.grantTrial_frameSide s x)
    have map : (s.grantTrial x).map = s.map.rewrite (grantSlot i x.set) :=
      q.map.trans (State.grant_map i rest e.port e.cls x.set e.lease (some e.ticket) e.search.place s)
    refine ⟨whole.1, whole.2, left.kept (grantedMoves.of_eq rfl rfl) q.map q.records q.moves q.poolReports q.moveReports,
      ?_, fun t ht j hj => ?_, apart'⟩
    · rw [timing]
      exact reports.within (State.reportsWithin_of_eq (q.poolReports.trans (by simp [State.grant]))
        (q.moveReports.trans (by simp [State.grant])))
    · rw [map]
      refine SlotMap.isFree_grant (free t (List.mem_cons_of_mem _ ht) j hj) ?_
      by_contra hx
      exact apart_x t ht j ⟨Bool.eq_true_of_not_eq_false hx, hj⟩

theorem State.Grantable.all {s : State} {trials : List Trial} (h : s.Grantable trials) :
    (trials.foldl State.grantTrial s).Grantable [] := by
  induction trials generalizing s with
  | nil => exact h
  | cons x trials ih => exact ih h.grantTrial

theorem State.powerOn_slotsAgree (low : Bool) (right : Nat → Bool) (s : State) : (s.powerOn low right).SlotsAgree := by
  have records (i : RecIx) : (s.powerOn low right).reservation i = none := by
    rw [State.reservation, show (s.powerOn low right).pool.records.get i = ⟨0#8, none⟩ from Table.get_replicate _ i]
  have entries (j : SlotIx) : (s.powerOn low right).phases j = none := by
    rw [State.phases, show (s.powerOn low right).map.entries.get j = .free from Table.get_replicate _ j]
    rfl
  rw [State.slotsAgree_iff]
  refine ⟨⟨fun j i role => ?_, fun i a ha => ?_⟩, State.searchesAgree_of_idle rfl⟩
  · simp [entries, State.standings, records]
  · simp [State.standings, records] at ha

/-- What a command does keeps slots and records together. -/
theorem State.Does.keeps_slots {s t : State} (d : s.Does t) (pool : s.PoolAgrees) (m : s.MovesAgree) (marks : s.MarksAgree)
    (h : s.SlotsAgree) : t.SlotsAgree := by
  have both := h
  rw [State.slotsAgree_iff] at both
  obtain ⟨sets, searches⟩ := both
  cases d with
  | acts a => exact a.keeps_slots m marks.reportsOf h
  | afterMap a =>
    exact a.keeps_slots (State.mapTakeMark_movesAgree m) marks.mapTaken.reportsOf (State.mapTakeMark_slotsAgree m marks h)
  | reserves c a i rest set hw _ fifo found q =>
    unfold State.SearchesAgree at searches
    rw [hw] at searches
    have free : (s.setWork .idle).AllFree set := State.searchResult_free searches found
    have idle : State.SetsAgree (s.setWork .idle) := sets.kept m rfl rfl rfl rfl rfl
    have granted := idle.recordGranted (m.of_eq rfl rfl) (rest := rest) c.port a.cls a.lease none a.search.place
      (pool.unused fifo) free marks.reportsNow.1 marks.reportsNow.2.1
    have grantedMoves : State.MovesAgree ((s.setWork .idle).grant i rest c.port a.cls set a.lease none a.search.place) :=
      State.grant_movesAgree (s := s.setWork .idle) pool m fifo _ _ _ _ _ _
    rw [State.slotsAgree_iff]
    refine ⟨granted.kept grantedMoves q.map q.records q.moves q.poolReports q.moveReports, State.searchesAgree_of_idle ?_⟩
    rcases q.work with e | e | ⟨d, b, e, -⟩
    · rw [e]
      simp [State.grant, State.setWork, State.allocate, State.modPort, State.moveRover]
    · exact e
    · simp [State.grant, State.setWork, State.allocate, State.modPort, State.moveRover] at e
  | completes p hw =>
    have trials := ((State.searchesAgree_of_pass hw).mp searches).finishTrials
    have start : State.Grantable (s.setWork .idle) (s.finishTrials p).trials :=
      ⟨pool, m, sets.kept m rfl rfl rfl rfl rfl, marks.reportsNow, trials.1, trials.2.1⟩
    rw [State.slotsAgree_iff]
    refine ⟨start.all.sets, State.searchesAgree_of_idle ?_⟩
    rw [State.completePass, State.foldl_keeps State.grantTrial (fun u => u.engine.work) State.grantTrial_work]
    rfl
  | powers low right => exact State.powerOn_slotsAgree low right s

/-- Settles O58: every change moves the slots of one record with what the record holds, promotion reports are of the last mark alone,
and a grant takes slots that its search found FREE and that nothing has taken since. -/
theorem slotsStayWithRecords : Obligations.SlotsStayWithRecords := by
  unfold Obligations.SlotsStayWithRecords
  intro s t pool m marks h e
  rcases step_does e with d | ⟨rest, d⟩
  · exact d.keeps_slots pool m marks h
  · exact d.keeps_slots pool m marks h

end Sys2Proof.Machine
end

section
/-! PROOFS. The step, and what every command does with the queue of commands (log 2, log 13). -/

namespace Sys2Proof.Machine

/-! ## One step -/

theorem step_of_cons {s : State} {c : Instr} {rest : List Instr} (h : s.pending = c :: rest) :
    step s = exec c { s with pending := rest } := by
  unfold step
  rw [h]

theorem step_of_nil {s : State} (h : s.pending = []) : step s = .next s.idleStep := by
  unfold step
  rw [h]

theorem State.idleStep_eq (s : State) :
    s.idleStep = { s with engine := { s.engine with work := s.idleStep.engine.work } } := by
  unfold State.idleStep
  split
  · rfl
  · split <;> rfl
  · rfl

theorem Scan.readNext_of_next {sc : Scan} {i : Nat} (free : Nat → Bool) (h : sc.order[sc.seen.length]? = some i) :
    sc.readNext free = { sc with seen := sc.seen ++ [free i] } := by
  unfold Scan.readNext
  rw [List.getElem?_eq_some_iff] at h
  obtain ⟨lt, rfl⟩ := h
  rw [List.drop_eq_getElem_cons lt]

theorem State.idleStep_of_idle {s : State} (h : s.engine.work = .idle) : s.idleStep = s := by
  unfold State.idleStep
  rw [h]

theorem State.idleStep_of_scan {s : State} {c : Command} {sc : Scan} (h : s.engine.work = .command c)
    (hs : c.scan = some sc) :
    s.idleStep = s.setWork (.command { c with scan := some (sc.readNext s.map.isFree) }) := by
  unfold State.idleStep
  rw [h]
  dsimp only
  rw [hs]

/-- Settles O1: on an empty queue the one thing a step does is the engine's idle step. -/
theorem stepRunsFrontCommand : Obligations.StepRunsFrontCommand := by
  refine ⟨fun c rest s h => step_of_cons h, fun s h => ⟨s.idleStep, step_of_nil h, s.idleStep_eq, ?_, ?_⟩⟩
  · exact State.idleStep_of_idle
  · intro c sc i hw hs hi
    rw [State.idleStep_of_scan hw hs, Scan.readNext_of_next _ hi]
    rfl

/-! ## The queue of commands -/

theorem State.complete_pending (pick : Request → Option (Command → State → State))
    (hr : ∀ r run, pick r = some run → ∀ c s, (run c s).pending = s.pending) (s : State) :
    (s.complete pick).pending = s.pending :=
  State.complete_keeps State.pending (fun _ _ => rfl) (fun _ _ _ _ _ => rfl) pick hr s

theorem State.answerLocal_pending (p : Port) (code : Byte) (run : QueuedCommand → State → State)
    (hr : ∀ q s, (run q s).pending = s.pending) (s : State) : (s.answerLocal p code run).pending = s.pending :=
  State.answerLocal_keeps State.pending p code run hr s

@[simp] theorem State.barRun_pending (r : Run) (s : State) : (s.barRun r).pending = s.pending := by
  unfold State.barRun
  rw [State.foldl_keeps _ State.pending (fun s k => State.abandonMove_pending k _ _ _ s), State.claim_pending]

section
variable (c : Command) (s : State)

theorem State.reserveCompletion_pending (a : ReserveArgs) : (s.reserveCompletion a c).pending = s.pending := by
  unfold State.reserveCompletion
  split
  · rfl
  · split
    · rfl
    · split
      · unfold State.reserveNoRoom
        split
        · rfl
        · split <;> rfl
      · rfl
      · simp [State.reserveGrant]

theorem State.releaseCompletion_pending (h : Handle) : (s.releaseCompletion h c).pending = s.pending := by
  unfold State.releaseCompletion
  split
  · rfl
  · split <;> simp

theorem State.forceCompletion_pending (h : Handle) : (s.forceCompletion h c).pending = s.pending := by
  unfold State.forceCompletion
  split <;> simp

theorem State.renewCompletion_pending (h : Handle) (n : Nat) : (s.renewCompletion h n c).pending = s.pending := by
  unfold State.renewCompletion
  split
  · rfl
  · split
    · split <;> rfl
    · rfl

theorem State.queryCompletion_pending (h : Handle) : (s.queryCompletion h c).pending = s.pending := by
  unfold State.queryCompletion
  split <;> rfl

theorem State.cancelCompletion_pending (t : Byte) : (s.cancelCompletion t c).pending = s.pending := by
  unfold State.cancelCompletion
  split
  · rfl
  · split <;> rfl

theorem State.relocateCompletion_pending (q : RelocateArgs) : (s.relocateCompletion q c).pending = s.pending := by
  unfold State.relocateCompletion
  split
  · rfl
  · split
    · rfl
    · split
      · rfl
      · split
        · rfl
        · split
          · rfl
          · unfold State.relocateGrant
            dsimp only
            split <;> simp

theorem State.confirmCompletion_pending (h : Handle) : (s.confirmCompletion h c).pending = s.pending := by
  unfold State.confirmCompletion
  split <;> simp

theorem State.declineCompletion_pending (h : Handle) : (s.declineCompletion h c).pending = s.pending := by
  unfold State.declineCompletion
  split <;> simp

theorem State.setWatchCompletion_pending (a : SetWatchArgs) : (s.setWatchCompletion a c).pending = s.pending := by
  unfold State.setWatchCompletion
  split <;> simp

theorem State.clearWatchCompletion_pending (k : UnitIx) : (s.clearWatchCompletion k c).pending = s.pending := by
  unfold State.clearWatchCompletion
  split
  · rfl
  · split <;> rfl

theorem State.rearmWatchCompletion_pending (k : UnitIx) : (s.rearmWatchCompletion k c).pending = s.pending := by
  unfold State.rearmWatchCompletion
  split
  · rfl
  · split
    · rfl
    · split <;> rfl

theorem State.setPortCompletion_pending (p : Port) (attrs : Attributes) :
    (s.setPortCompletion p attrs c).pending = s.pending := by
  unfold State.setPortCompletion
  dsimp only
  split <;> rfl

theorem State.resetPortCompletion_pending (p : Port) : (s.resetPortCompletion p c).pending = s.pending := by
  unfold State.resetPortCompletion
  dsimp only
  split <;> simp

end

theorem State.takeCommand_pending (p : Port) (q : QueuedCommand) (s : State) :
    (s.takeCommand p q).pending = s.pending := by
  unfold State.takeCommand
  dsimp only
  split
  · rfl
  · split <;> rfl

/-- A completion, from the effect of the one request it reads. -/
theorem State.pending_of_complete {pick : Request → Option (Command → State → State)} {s t : State}
    (h : Host.Outcome.next (φ := Fault) (ρ := Refusal) (s.complete pick) = .next t)
    (hr : ∀ r run, pick r = some run → ∀ c s, (run c s).pending = s.pending) : t.pending = s.pending := by
  cases h
  exact State.complete_pending pick hr s

theorem exec_pending {c : Instr} {s t : State} (h : exec c s = .next t) : t.pending = s.pending := by
  cases c with
  | powerOnReset => cases h; rfl
  | resetRelease straps => cases h; split <;> rfl
  | transferStart p => cases h; rfl
  | faultedTransfer p b => cases h; split <;> rfl
  | commandTransfer p octets rest => cases h; split <;> rfl
  | collectChoice p => cases h; unfold State.chooseResponse; split <;> rfl
  | collectEnd p edges => cases h; split <;> rfl
  | engineTakeCommand =>
    cases h
    split
    · rfl
    · unfold State.engineTake
      split
      · rfl
      · split
        · rfl
        · exact State.takeCommand_pending _ _ s
  | reserve =>
    refine State.pending_of_complete h fun r run hp c s => ?_
    split at hp <;> cases hp
    exact State.reserveCompletion_pending c s _
  | release =>
    refine State.pending_of_complete h fun r run hp c s => ?_
    split at hp <;> cases hp
    exact State.releaseCompletion_pending c s _
  | renew =>
    refine State.pending_of_complete h fun r run hp c s => ?_
    split at hp <;> cases hp
    exact State.renewCompletion_pending c s _ _
  | queryReservation =>
    refine State.pending_of_complete h fun r run hp c s => ?_
    split at hp <;> cases hp
    exact State.queryCompletion_pending c s _
  | listOwned =>
    refine State.pending_of_complete h fun r run hp c s => ?_
    split at hp <;> cases hp
    rfl
  | readMap =>
    refine State.pending_of_complete h fun r run hp c s => ?_
    split at hp <;> cases hp
    rfl
  | cancelWait =>
    refine State.pending_of_complete h fun r run hp c s => ?_
    split at hp <;> cases hp
    exact State.cancelCompletion_pending c s _
  | relocate =>
    refine State.pending_of_complete h fun r run hp c s => ?_
    split at hp <;> cases hp
    exact State.relocateCompletion_pending c s _
  | confirmMove =>
    refine State.pending_of_complete h fun r run hp c s => ?_
    split at hp <;> cases hp
    exact State.confirmCompletion_pending c s _
  | declineMove =>
    refine State.pending_of_complete h fun r run hp c s => ?_
    split at hp <;> cases hp
    exact State.declineCompletion_pending c s _
  | setWatch =>
    refine State.pending_of_complete h fun r run hp c s => ?_
    split at hp <;> cases hp
    exact State.setWatchCompletion_pending c s _
  | clearWatch =>
    refine State.pending_of_complete h fun r run hp c s => ?_
    split at hp <;> cases hp
    exact State.clearWatchCompletion_pending c s _
  | rearmWatch =>
    refine State.pending_of_complete h fun r run hp c s => ?_
    split at hp <;> cases hp
    exact State.rearmWatchCompletion_pending c s _
  | bar =>
    refine State.pending_of_complete h fun r run hp c s => ?_
    split at hp <;> cases hp
    exact State.barRun_pending _ s
  | unbar =>
    refine State.pending_of_complete h fun r run hp c s => ?_
    split at hp <;> cases hp
    exact State.claim_pending _ _ s
  | forceRelease =>
    refine State.pending_of_complete h fun r run hp c s => ?_
    split at hp <;> cases hp
    exact State.forceCompletion_pending c s _
  | setParam =>
    refine State.pending_of_complete h fun r run hp c s => ?_
    split at hp <;> cases hp
    rfl
  | setPort =>
    refine State.pending_of_complete h fun r run hp c s => ?_
    split at hp <;> cases hp
    exact State.setPortCompletion_pending c s _ _
  | resetPort =>
    refine State.pending_of_complete h fun r run hp c s => ?_
    split at hp <;> cases hp
    exact State.resetPortCompletion_pending c s _
  | readParams =>
    refine State.pending_of_complete h fun r run hp c s => ?_
    split at hp <;> cases hp
    rfl
  | fetchEvents p =>
    cases h
    refine State.answerLocal_pending p _ _ (fun q s => ?_) s
    unfold State.fetchAnswer
    split <;> rfl
  | readStatus p =>
    cases h
    refine State.answerLocal_pending p _ _ (fun q s => ?_) s
    unfold State.statusAnswer
    split <;> rfl
  | selfReset p =>
    cases h
    refine State.answerLocal_pending p _ _ (fun q s => ?_) s
    unfold State.selfResetAnswer
    split
    · rw [State.modPort_pending, State.portReset_pending]
    · rfl
  | echo p => cases h; exact State.answerLocal_pending p _ _ (fun _ _ => by exact rfl) s
  | waitPassBegin =>
    cases h
    split
    · rfl
    · unfold State.beginPass
      dsimp only
      split <;> rfl
  | waitPassCompletion =>
    cases h
    split
    · rfl
    · split
      · exact State.foldl_keeps _ State.pending State.grantTrial_pending _ _
      · rfl
      · rfl
  | frameStart =>
    cases h
    split
    · rfl
    · unfold State.acceptFrame
      dsimp only
      split <;> simp
  | syncWatchTimeout => cases h; split <;> simp [State.loseSync]
  | slotEdge => cases h; split <;> simp
  | slotMapFrameReaction => cases h; simp
  | drainComplete j => cases h; split <;> simp
  | promotionReportPool => cases h; split <;> simp
  | promotionReportMove => cases h; split <;> simp
  | leaseCounterReaction => cases h; simp
  | leaseExpiry i => cases h; split <;> simp
  | moveUnitFrameReaction => cases h; simp
  | confirmTimeout k => cases h; split <;> simp
  | cutover k => cases h; split <;> simp
  | waitListFrameReaction => cases h; simp
  | waitExpiry ticket => cases h; split <;> simp
  | watchReport =>
    cases h
    split
    · rfl
    · split <;> simp
  | recordReport =>
    cases h
    split
    · rfl
    · split <;> simp

theorem exec_next (c : Instr) (s : State) : ∃ t, exec c s = .next t := by
  cases c <;> exact ⟨_, rfl⟩

/-- Settles O2: each command's arm is a next state, and `exec_pending` says what becomes of the queue. -/
theorem everyCommandAnswers : Obligations.EveryCommandAnswers := fun c s =>
  (exec_next c s).imp fun _ h => ⟨h, exec_pending h⟩

/-! ## No reaction unless locked -/

theorem State.takesMarks_of_not_locked {s : State} (h : s.timing.sync ≠ .locked) : s.takesMarks = false := by
  simp [State.takesMarks, h]

/-- Settles O46: outside LOCKED no block takes a mark, and the rows that name what comes about inside a reaction are that
reaction or nothing. -/
theorem noReactionUnlessLocked : Obligations.NoReactionUnlessLocked := by
  intro s h
  have no := State.takesMarks_of_not_locked h
  have map := State.mapTakeMark_of_notTaking no
  have lease := State.leaseTakeMark_of_notTaking no
  have move := State.moveTakeMark_of_notTaking no
  have wait := State.waitTakeMark_of_notTaking no
  refine ⟨congrArg _ map, fun j => ?_, congrArg _ lease, fun i => ?_, congrArg _ move, fun k => ?_, fun k => ?_,
    congrArg _ wait, fun ticket => ?_⟩
  · exact congrArg _ ((congrArg (ite _ · s) map).trans (ite_self s))
  · exact congrArg _ ((congrArg (ite _ · s) lease).trans (ite_self s))
  · exact congrArg _ ((congrArg (ite _ · s) move).trans (ite_self s))
  · exact congrArg _ ((congrArg (ite _ · s) move).trans (ite_self s))
  · exact congrArg _ ((congrArg (ite _ · s) wait).trans (ite_self s))

end Sys2Proof.Machine
end

section
/-! PROOFS. Power: the values after reset, RESET low and its return, and what no command does while RESET is low (R144, R146, R189). -/

namespace Sys2Proof.Machine

/-! ## The power-on values -/

theorem State.powerOn_atPowerOn (low : Bool) (right : Nat → Bool) (s : State) :
    (s.powerOn low right).AtPowerOn fun p => right p.val := by
  refine ⟨⟨Table.get_replicate _, rfl, rfl, rfl, Table.get_replicate _, rfl, rfl⟩,
    ⟨Table.get_replicate _, rfl, rfl⟩, rfl, rfl, rfl, rfl, Table.get_replicate _, Table.get_replicate _, rfl, rfl, ?_⟩
  intro p
  rw [State.powerOn_ports]
  exact ⟨rfl, rfl, rfl, rfl, rfl, rfl, rfl, rfl, rfl, rfl, rfl, rfl, rfl⟩

theorem State.powerOn_portsBounded (low : Bool) (right : Nat → Bool) (s : State) : (s.powerOn low right).PortsBounded := by
  intro p
  rw [State.powerOn_ports]
  simp [ClientPort.Bounded, ClientPort.reset]

theorem State.powerOn_commandsAccounted (low : Bool) (right : Nat → Bool) (s : State) :
    (s.powerOn low right).CommandsAccounted := by
  refine ⟨State.engineHoldsHead_of_none fun c => by simp [State.powerOn, Engine.reset], fun p => ?_⟩
  rw [State.powerOn_ports]
  exact ⟨List.nodup_nil, .refl _⟩

theorem State.powerOn_linesAgree (low : Bool) (right : Nat → Bool) (s : State) : (s.powerOn low right).LinesAgree :=
  State.linesAgree_of_none rfl rfl rfl

theorem State.reset_ports (p : Port) : State.reset.ports.get p = ClientPort.reset .none false := by
  simp [State.reset, strapOf, Config.resetStraps]

/-- The state after reset is what the return of RESET makes of it, so what holds at power-on holds in it. -/
theorem State.reset_eq_powerOn : State.reset = State.reset.powerOn false fun _ => false := by
  have ports : State.reset.ports = (State.reset.powerOn false fun _ => false).ports := by
    ext p
    rw [State.powerOn_ports, State.reset_ports]
    rfl
  exact congrArg (fun t => { State.reset with ports := t }) ports

/-- Settles O3: the state after reset is a power-on state. -/
theorem resetValues : Obligations.ResetValues := by
  unfold Obligations.ResetValues
  refine ⟨⟨?_, rfl, rfl, fun p => by rw [State.reset_ports]; rfl⟩, ?_⟩
  · rw [State.reset_eq_powerOn]
    exact State.powerOn_atPowerOn false (fun _ => false) _
  · rw [State.reset_eq_powerOn]
    exact ⟨State.powerOn_countsAgree _ _ _, State.powerOn_poolAgrees _ _ _, State.powerOn_totalsAgree _ _ _,
      State.powerOn_portsBounded _ _ _, State.powerOn_commandsAccounted _ _ _, State.powerOn_linesAgree _ _ _,
      State.powerOn_waitsAgree _ _ _, State.powerOn_movesAgree _ _ _, State.powerOn_marksAgree _ _ _,
      State.powerOn_slotsAgree _ _ _⟩

theorem exec_resetRelease (straps : BitVec 6) {s : State} (h : s.resetLow = true) :
    exec (.resetRelease straps) s = .next (s.powerOn false (strapOf straps)) :=
  congrArg _ (if_pos h)

/-- Settles O4: both edges of RESET put the part at power-on, the rights by the straps at the return. -/
theorem powerOnReset : Obligations.PowerOnReset :=
  ⟨fun s => ⟨_, rfl, rfl, State.powerOn_atPowerOn true (fun _ => false) s⟩,
    fun straps s h => ⟨_, exec_resetRelease straps h, rfl, State.powerOn_atPowerOn false (strapOf straps) s⟩⟩

/-! ## While RESET is low -/

/-- From `s` to `t` nothing changed but links, and those ended or ignored. -/
def State.OnlyLinks (s t : State) : Prop :=
  t = { s with ports := t.ports } ∧
    ∀ p, t.ports.get p = { s.ports.get p with link := (t.ports.get p).link } ∧
      ((t.ports.get p).link = (s.ports.get p).link ∨ (t.ports.get p).link = .none ∨ (t.ports.get p).link = .ignored)

theorem State.onlyLinks_of_eq {s t : State} (h : t = s) : s.OnlyLinks t := by
  subst h
  exact ⟨rfl, fun _ => ⟨rfl, .inl rfl⟩⟩

theorem State.modPort_onlyLinks (p : Port) (f : ClientPort → ClientPort) (s : State)
    (h : ∃ l, (l = .none ∨ l = .ignored) ∧ ∀ c, f c = { c with link := l }) : s.OnlyLinks (s.modPort p f) := by
  obtain ⟨l, hl, hf⟩ := h
  refine ⟨rfl, fun q => ?_⟩
  rw [State.modPort_ports, Table.get_modify]
  split
  · rw [hf]
    exact ⟨rfl, .inr hl⟩
  · exact ⟨rfl, .inl rfl⟩

section
variable {s : State} (low : s.resetLow = true)
include low

theorem State.complete_of_resetLow (pick : Request → Option (Command → State → State)) : s.complete pick = s :=
  if_pos low

theorem State.answerLocal_of_resetLow (p : Port) (code : Byte) (run : QueuedCommand → State → State) :
    s.answerLocal p code run = s :=
  if_pos low

theorem State.takesMarks_of_resetLow : s.takesMarks = false := by
  simp [State.takesMarks, low]

theorem State.endTransfer_of_resetLow (p : Port) (judge : ClientPort → ClientPort) :
    s.endTransfer p judge = s.modPort p fun c => { c with link := .none } := by
  simp [State.endTransfer, low]

theorem State.startTransfer_of_resetLow (p : Port) :
    s.startTransfer p = s.modPort p fun c => { c with link := .ignored } := by
  simp [State.startTransfer, low]

theorem State.endTransfer_onlyLinks (p : Port) (judge : ClientPort → ClientPort) : s.OnlyLinks (s.endTransfer p judge) := by
  rw [State.endTransfer_of_resetLow low]
  exact State.modPort_onlyLinks p _ s ⟨.none, .inl rfl, fun _ => rfl⟩

theorem exec_onlyLinks {c : Instr} {t : State} (h : exec c s = .next t) (power : c ≠ .powerOnReset)
    (release : ∀ straps, c ≠ .resetRelease straps) : s.OnlyLinks t := by
  have idle : s.takesMarks = false := State.takesMarks_of_resetLow low
  cases c with
  | powerOnReset => exact absurd rfl power
  | resetRelease straps => exact absurd rfl (release straps)
  | transferStart p =>
    cases h
    rw [State.startTransfer_of_resetLow low]
    exact State.modPort_onlyLinks p _ s ⟨.ignored, .inr rfl, fun _ => rfl⟩
  | faultedTransfer p b =>
    cases h
    split
    · exact State.onlyLinks_of_eq rfl
    · exact State.endTransfer_onlyLinks low p _
  | commandTransfer p octets rest =>
    cases h
    split
    · exact State.onlyLinks_of_eq rfl
    · exact State.endTransfer_onlyLinks low p _
  | collectChoice p => cases h; exact State.onlyLinks_of_eq (if_pos low)
  | collectEnd p edges =>
    cases h
    rw [if_pos low]
    exact State.modPort_onlyLinks p _ s ⟨.none, .inl rfl, fun _ => rfl⟩
  | engineTakeCommand => cases h; exact State.onlyLinks_of_eq (if_pos (by simp [low]))
  | reserve | release | renew | queryReservation | listOwned | readMap | cancelWait | relocate | confirmMove | declineMove
    | setWatch | clearWatch | rearmWatch | bar | unbar | forceRelease | setParam | setPort | resetPort | readParams =>
    cases h
    exact State.onlyLinks_of_eq (State.complete_of_resetLow low _)
  | fetchEvents p | readStatus p | selfReset p | echo p =>
    cases h
    exact State.onlyLinks_of_eq (State.answerLocal_of_resetLow low p _ _)
  | waitPassBegin => cases h; exact State.onlyLinks_of_eq (if_pos (by simp [low]))
  | waitPassCompletion | frameStart | promotionReportPool | promotionReportMove | watchReport | recordReport =>
    cases h
    exact State.onlyLinks_of_eq (if_pos low)
  | syncWatchTimeout => cases h; exact State.onlyLinks_of_eq (if_neg (by simp [low]))
  | slotEdge => cases h; exact State.onlyLinks_of_eq (if_pos (by simp [low]))
  | slotMapFrameReaction => cases h; exact State.onlyLinks_of_eq (State.mapTakeMark_of_notTaking idle)
  | leaseCounterReaction => cases h; exact State.onlyLinks_of_eq (State.leaseTakeMark_of_notTaking idle)
  | moveUnitFrameReaction => cases h; exact State.onlyLinks_of_eq (State.moveTakeMark_of_notTaking idle)
  | waitListFrameReaction => cases h; exact State.onlyLinks_of_eq (State.waitTakeMark_of_notTaking idle)
  | drainComplete j => cases h; rw [State.mapTakeMark_of_notTaking idle]; exact State.onlyLinks_of_eq (ite_self s)
  | leaseExpiry i => cases h; rw [State.leaseTakeMark_of_notTaking idle]; exact State.onlyLinks_of_eq (ite_self s)
  | confirmTimeout k => cases h; rw [State.moveTakeMark_of_notTaking idle]; exact State.onlyLinks_of_eq (ite_self s)
  | cutover k => cases h; rw [State.moveTakeMark_of_notTaking idle]; exact State.onlyLinks_of_eq (ite_self s)
  | waitExpiry ticket => cases h; rw [State.waitTakeMark_of_notTaking idle]; exact State.onlyLinks_of_eq (ite_self s)

end

/-- Settles O5: each command looks at RESET before it does anything but end or ignore a transfer. -/
theorem nothingHappensInReset : Obligations.NothingHappensInReset := fun _ _ _ low power release h =>
  exec_onlyLinks low h power release

end Sys2Proof.Machine
end

section
/-! PROOFS. Transfers on the links, and the pins (R127 to R137, R141, R142, R146). -/

namespace Sys2Proof.Machine

theorem next_congr {t u : State} (h : t = u) : Host.Outcome.next (φ := Fault) (ρ := Refusal) t = .next u := congrArg _ h

/-- A change of one port is told by what it makes of that port as it stands. -/
theorem State.modPort_congr {p : Port} {f g : ClientPort → ClientPort} {s : State}
    (h : f (s.ports.get p) = g (s.ports.get p)) : s.modPort p f = s.modPort p g := by
  simp only [State.modPort, Table.modify, h]

/-! ## The start and the end of a transfer -/

theorem ClientPort.statusByte_eq (c : ClientPort) :
    c.statusByte = BitVec.ofNat 8 (min 7 c.stored.length * 32 + (if c.events = [] then 0 else 16) +
      min (4 - c.queue.length) (8 - c.stored.length - c.queue.length) * 2 + (if c.lastFaulted then 1 else 0)) := by
  have events : bitAt c.eventPresent 4 = if c.events = [] then 0 else 16 := by
    by_cases h : c.events = [] <;> simp [bitAt, ClientPort.eventPresent, h]
  unfold ClientPort.statusByte byteOf
  rw [events]
  rfl

theorem State.startTransfer_of_high {p : Port} {s : State} (high : s.resetLow = false)
    (h : ∀ st frame b, (s.ports.get p).link ≠ .collecting st frame b) :
    s.startTransfer p = s.modPort p fun c => { c with link := .opened c.statusByte } := by
  refine State.modPort_congr ?_
  rw [high]
  cases hl : (s.ports.get p).link with
  | collecting st frame b => exact absurd hl (h st frame b)
  | none => rfl
  | opened st => rfl
  | ignored => rfl

/-- The link of a transfer that the end of a command transfer judges: none, its fall taken with it, or open. -/
def ClientPort.judges (c : ClientPort) : Prop := c.link = .none ∨ ∃ st, c.link = .opened st

theorem State.endTransfer_of_judges {p : Port} (judge : ClientPort → ClientPort) {s : State} (high : s.resetLow = false)
    (h : (s.ports.get p).judges) : s.endTransfer p judge = s.modPort p fun c => { judge c with link := .none } := by
  refine State.modPort_congr ?_
  dsimp only
  rw [high]
  rcases h with h | ⟨st, h⟩ <;> rw [h] <;> rfl

theorem State.endTransfer_of_ignored {p : Port} (judge : ClientPort → ClientPort) {s : State}
    (h : (s.ports.get p).link = .ignored) : s.endTransfer p judge = s.modPort p fun c => { c with link := .none } := by
  refine State.modPort_congr ?_
  dsimp only
  rw [h]
  exact ite_self _

/-- Settles O6: the fall opens a transfer with the status byte, and a transfer of another type is only counted. -/
theorem transfersOpenAndFault : Obligations.TransfersOpenAndFault := by
  refine ⟨fun p s high h => next_congr ?_, fun p b s high command collect h => next_congr ?_⟩
  · rw [State.startTransfer_of_high high h]
    exact State.modPort_congr (by rw [ClientPort.statusByte_eq])
  · rw [if_neg (by simp [command, collect]), State.endTransfer_of_judges _ high h]
    rfl

/-! ## The judgement of a frame -/

theorem map_packByte_octetOf (bytes : List Byte) : (bytes.map octetOf).map packByte = bytes := by
  simp [Function.comp_def]

/-- The faults of a frame in their order, by the number of its bytes (R130). -/
theorem frameFault_eq (bytes : List Byte) (extra : Nat) :
    frameFault bytes extra =
      if bytes.length < 3 ∨ bytes.length < 5 + (bytes.getD 2 0#8).toNat then some .truncated
      else if extra ≠ 0 ∨ 250 < (bytes.getD 2 0#8).toNat ∨ 5 + (bytes.getD 2 0#8).toNat < bytes.length then some .length
      else if bytes.drop (3 + (bytes.getD 2 0#8).toNat) ≠
          crcBytes (0x5A#8 :: bytes.take (3 + (bytes.getD 2 0#8).toNat)) then some .crc
      else none := by
  match bytes with
  | [] => rfl
  | [_] => rfl
  | [_, _] => rfl
  | a :: b :: len :: rest =>
    have whole : ¬ (a :: b :: len :: rest).length < 3 := by simp
    unfold frameFault
    simp only [whole, false_or, Config.maxBody, show (a :: b :: len :: rest).getD 2 0#8 = len from rfl]
    by_cases few : (a :: b :: len :: rest).length < 5 + len.toNat
    · simp only [few, if_true, ite_self]
    · simp only [few, if_false]
      by_cases he : extra = 0
      · simp only [he, ne_eq, not_true, if_false, false_or]
        congr
      · simp only [he, ne_eq, not_false_eq_true, if_true, true_or]

theorem ClientPort.refuse_eq (tag : Byte) (status : Status) (body : List Byte) (c : ClientPort) :
    c.refuse tag status body =
      { c with
        stored := if c.stored.length + c.queue.length < 8 then c.stored ++ [⟨tag, status, body, false⟩] else c.stored
        dropped := if c.stored.length + c.queue.length < 8 then c.dropped else min 255 (c.dropped + 1) } := by
  have room : 0 < c.freePlaces ↔ c.stored.length + c.queue.length < 8 := by
    unfold ClientPort.freePlaces Config.responsePlaces
    omega
  unfold ClientPort.refuse
  simp only [room]
  split <;> rfl

theorem execCommandTransfer_of_judges {p : Port} {bytes : List Byte} {tail : List Bool} {s : State}
    (high : s.resetLow = false) (part : tail.length < 8) (h : (s.ports.get p).judges) :
    exec (.commandTransfer p (bytes.map octetOf) tail) s =
      .next (s.modPort p fun c => { c.judgeFrame bytes tail.length with link := .none }) := by
  refine next_congr ?_
  rw [if_neg (Nat.not_le.mpr part), map_packByte_octetOf, State.endTransfer_of_judges _ high h]

theorem ClientPort.judgeFrame_of_fault {bytes : List Byte} {extra : Nat} {cause : LinkCause} (c : ClientPort)
    (h : frameFault bytes extra = some cause) :
    c.judgeFrame bytes extra = c.countFault.refuse 255#8 .linkFault [cause.code] := by
  unfold ClientPort.judgeFrame
  rw [h]

/-- Settles O7: the cause is the first of `frameFault_eq` that holds, and a faulted frame is counted and refused. -/
theorem faultedFrameRefused : Obligations.FaultedFrameRefused := by
  intro p bytes tail s high part h
  have faulted (cause : LinkCause) (hf : frameFault bytes tail.length = some cause) :
      exec (.commandTransfer p (bytes.map octetOf) tail) s = .next (s.modPort p fun c =>
        { c with
          link := .none
          faultCount := min 65535 (c.faultCount + 1)
          lastFaulted := true
          stored := if c.stored.length + c.queue.length < 8
            then c.stored ++ [⟨255#8, .linkFault, [cause.code], false⟩] else c.stored
          dropped := if c.stored.length + c.queue.length < 8 then c.dropped else min 255 (c.dropped + 1) }) := by
    rw [execCommandTransfer_of_judges high part h]
    refine next_congr (State.modPort_congr ?_)
    rw [ClientPort.judgeFrame_of_fault _ hf, ClientPort.refuse_eq]
    rfl
  have fault := frameFault_eq bytes tail.length
  refine ⟨fun few => faulted .truncated ?_, fun few many => faulted .length ?_, fun few whole many crc =>
    faulted .crc ?_⟩
  · rw [fault, if_pos (by omega)]
  · rw [fault, if_neg (by omega), if_pos ?_]
    rcases many with h | h
    · exact .inl (by simpa using h)
    · omega
  · rw [fault, if_neg (by omega), if_neg (by rw [whole, List.length_nil]; omega)]
    exact if_pos crc

theorem ClientPort.judgeFrame_of_sound {tag code len : Byte} {body : List Byte} (c : ClientPort)
    (hl : body.length = len.toNat) (most : len.toNat ≤ 250) :
    c.judgeFrame ((tag :: code :: len :: body) ++ crcBytes (0x5A#8 :: tag :: code :: len :: body)) 0 =
      ClientPort.accept tag code body { c with lastFaulted := false } := by
  have crc : (crcBytes (0x5A#8 :: tag :: code :: len :: body)).length = 2 := rfl
  have sound : frameFault ((tag :: code :: len :: body) ++ crcBytes (0x5A#8 :: tag :: code :: len :: body)) 0 = none := by
    rw [frameFault_eq]
    have third : (((tag :: code :: len :: body) ++ crcBytes (0x5A#8 :: tag :: code :: len :: body)).getD 2 0#8) = len := rfl
    have whole : (tag :: code :: len :: body).length = 3 + len.toNat := by simp only [List.length_cons, hl]; omega
    rw [third, if_neg (by rw [List.length_append, crc, whole]; omega),
      if_neg (by rw [List.length_append, crc, whole]; omega), List.drop_left' whole, List.take_left' whole, if_neg (by simp)]
  unfold ClientPort.judgeFrame
  rw [sound]
  simp only [List.cons_append, List.take_left' hl]

/-- Settles O8: a sound frame passes the checks of acceptance in their order. -/
theorem soundFrameJudged : Obligations.SoundFrameJudged := by
  intro p tag code len body s high h hl most
  dsimp only
  have judged (d : ClientPort)
      (hd : ClientPort.accept tag code body { s.ports.get p with lastFaulted := false } = d) (f : ClientPort → ClientPort)
      (hf : f (s.ports.get p) = { d with link := .none }) :
      exec (.commandTransfer p (((tag :: code :: len :: body) ++ crcBytes (0x5A#8 :: tag :: code :: len :: body)).map
        octetOf) []) s = .next (s.modPort p f) := by
    rw [execCommandTransfer_of_judges high (by decide) h]
    refine next_congr (State.modPort_congr ?_)
    rw [List.length_nil, ClientPort.judgeFrame_of_sound _ hl most, hd, hf]
  have bad : tag = 255#8 ∨ (s.ports.get p).inFlight.contains tag = true ↔ tag = 255#8 ∨ tag ∈ (s.ports.get p).inFlight := by
    rw [List.contains_iff_mem]
  refine ⟨fun t => judged _ (if_pos (bad.mpr t)) _ ?_, fun notAll notIn full => judged _ ((if_neg ?_).trans (if_pos ?_)) _ ?_,
    fun notAll notIn room places => judged _ ((if_neg ?_).trans (if_neg ?_)) _ rfl⟩
  · rw [ClientPort.refuse_eq]
  · rw [bad]; exact not_or.mpr ⟨notAll, notIn⟩
  · unfold ClientPort.freePlaces Config.responsePlaces Config.queueDepth
    dsimp only
    omega
  · rw [ClientPort.refuse_eq]
  · rw [bad]; exact not_or.mpr ⟨notAll, notIn⟩
  · unfold ClientPort.freePlaces Config.responsePlaces Config.queueDepth
    dsimp only
    omega

/-! ## Collects -/

theorem State.chooseResponse_of_judges {p : Port} {s : State} {st : Byte} (high : s.resetLow = false)
    (h : (s.ports.get p).link = .opened st ∨ (s.ports.get p).link = .none ∧ st = (s.ports.get p).statusByte) :
    s.chooseResponse p = s.modPort p fun c => { c with link := .collecting st c.chosen.1 c.chosen.2 } := by
  unfold State.chooseResponse
  rw [high]
  refine State.modPort_congr ?_
  rcases h with h | ⟨h, rfl⟩ <;> rw [h]

theorem ClientPort.chosen_of_nil {c : ClientPort} (h : c.stored = []) : c.chosen = (emptyFrame, false) := by
  unfold ClientPort.chosen
  rw [h]

theorem ClientPort.chosen_of_cons {c : ClientPort} {r : Response} {rest : List Response} (h : c.stored = r :: rest) :
    c.chosen = (frameOf r.tag r.status r.body, true) := by
  unfold ClientPort.chosen
  rw [h]

theorem ClientPort.removeOldest_of_cons {c : ClientPort} {r : Response} {rest : List Response} (h : c.stored = r :: rest) :
    c.removeOldest = { c with
      stored := rest
      inFlight := if r.answers then c.inFlight.filter fun t => t ≠ r.tag else c.inFlight } := by
  unfold ClientPort.removeOldest
  rw [h]

theorem ClientPort.endCollect_of_collecting {c : ClientPort} {edges : Nat} {st : Byte} {frame : List Byte} {b : Bool}
    (h : c.link = .collecting st frame b) (type : 8 ≤ edges) :
    c.endCollect edges = { (if b && decide (8 * (1 + frame.length) ≤ edges) then c.removeOldest else c) with
      link := .none, lastFaulted := false } := by
  unfold ClientPort.endCollect
  rw [h]
  exact if_neg (Nat.not_lt.mpr type)

theorem exec_collectEnd_of_high (p : Port) (edges : Nat) {s : State} (high : s.resetLow = false) :
    exec (.collectEnd p edges) s = .next (s.modPort p (ClientPort.endCollect edges)) :=
  next_congr (if_neg (by simp [high]))

/-- Settles O9: the choice fixes the frame of the oldest response, and the end removes it where its last bit was taken. -/
theorem collectTakesOldest : Obligations.CollectTakesOldest := by
  refine ⟨fun p s st high link => ⟨fun none => ?_, fun r rest some => ?_⟩,
    fun p edges s st frame b high type link => ⟨fun short => ?_, fun r rest stored hb long => ?_⟩⟩
  · refine next_congr ((State.chooseResponse_of_judges high link).trans (State.modPort_congr ?_))
    rw [ClientPort.chosen_of_nil none]
    rfl
  · refine next_congr ((State.chooseResponse_of_judges high link).trans (State.modPort_congr ?_))
    rw [ClientPort.chosen_of_cons some]
    rfl
  · rw [exec_collectEnd_of_high p edges high]
    refine next_congr (State.modPort_congr ?_)
    rw [ClientPort.endCollect_of_collecting link type, if_neg]
    rcases short with h | h
    · simp [h]
    · simp [Nat.not_le.mpr h]
  · rw [exec_collectEnd_of_high p edges high]
    refine next_congr (State.modPort_congr ?_)
    rw [ClientPort.endCollect_of_collecting link type, if_pos (by simp [hb, long]), ClientPort.removeOldest_of_cons stored]

/-! ## The pins -/

theorem BitVec.getLsbD_eq_testBit_div (b : Byte) (k : Nat) : b.getLsbD k = decide (b.toNat / 2 ^ k % 2 = 1) := by
  rw [BitVec.getLsbD, Nat.testBit_eq_decide_div_mod_eq]

theorem State.attn_iff (p : Port) (s : State) :
    s.attn p = true ↔ (s.ports.get p).stored ≠ [] ∨ (s.ports.get p).events ≠ [] := by
  simp [State.attn]

theorem State.doByte_of_low {p : Port} {s : State} (low : s.resetLow = true) (link : (s.ports.get p).link = .none ∨
    (s.ports.get p).link = .ignored) (k : Nat) : s.doByte p k = none := by
  unfold State.doByte
  rcases link with h | h <;> rw [h]
  exact if_pos low

theorem Link.underReset_eq (l : Link) : l.underReset = if l = .none then .none else .ignored := by
  cases l <;> rfl

/-- Settles O11: each pin is read off the port as it stands. -/
theorem pinsFollowPort : Obligations.PinsFollowPort := by
  refine ⟨fun p s => ⟨State.attn_iff p s, ⟨_, rfl, ?_, fun k => State.doByte_of_low rfl ?_ k⟩, fun h k => ?_, fun st h => ?_,
    fun st frame b h => ?_, fun k => ?_⟩, packByte_octetOf⟩
  · unfold State.attn
    rw [State.powerOn_ports]
    rfl
  · rw [State.powerOn_ports]
    show (s.ports.get p).link.underReset = _ ∨ (s.ports.get p).link.underReset = _
    rw [Link.underReset_eq]
    split
    · exact .inl rfl
    · exact .inr rfl
  · unfold State.doByte
    rw [h]
  · unfold State.doByte
    rw [h]
    exact ⟨rfl, fun k => rfl⟩
  · unfold State.doByte
    rw [h]
    refine ⟨rfl, fun k x hx => ?_, fun k hk => ?_⟩
    · simp [hx]
    · simp [List.getElem?_eq_none hk]
  · unfold State.doBit
    exact congrArg (fun f => Option.map f _) (funext fun b => BitVec.getLsbD_eq_testBit_div b _)

end Sys2Proof.Machine
end

section
/-! PROOFS. The engine takes a command, and completions that only answer (R47, R51, R54, R56, R106, R107, R174). -/

namespace Sys2Proof.Machine

theorem Table.modify_modify {α : Type} {n : Nat} (t : Table α n) (i : Fin n) (f g : α → α) :
    (t.modify i f).modify i g = t.modify i fun a => g (f a) := by
  ext j
  simp only [Table.get_modify]
  split <;> rfl

theorem Table.modify_congr {α : Type} {n : Nat} {t : Table α n} {i : Fin n} {f g : α → α} (h : f (t.get i) = g (t.get i)) :
    t.modify i f = t.modify i g := by
  simp only [Table.modify, h]

/-! ## The next port -/

/-- How far a port stands behind the round-robin position. -/
def Port.behind (pos p : Port) : Nat := (p.val + 5 - pos.val) % 6

/-- The round-robin order lists the ports by their distance from the position. -/
theorem roundRobin_split (pos p : Port) : ∃ before after, roundRobin pos = before ++ p :: after ∧
    ∀ o ∈ before, Port.behind pos o < Port.behind pos p := by
  have split : ∀ pos p : Port, roundRobin pos = (roundRobin pos).takeWhile (fun o => o ≠ p) ++
      p :: ((roundRobin pos).dropWhile fun o => o ≠ p).tail ∧
      ∀ o ∈ (roundRobin pos).takeWhile (fun o => o ≠ p), Port.behind pos o < Port.behind pos p := by decide
  exact ⟨_, _, split pos p⟩

theorem State.nextPort_eq {p : Port} {s : State} (eligible : (s.ports.get p).eligible = true)
    (first : ∀ o, (s.ports.get o).eligible = true → Port.behind s.engine.rrPos p ≤ Port.behind s.engine.rrPos o) :
    s.nextPort = some p := by
  obtain ⟨before, after, order, nearer⟩ := roundRobin_split s.engine.rrPos p
  unfold State.nextPort
  rw [List.find?_eq_some_iff_append]
  refine ⟨eligible, before, after, order, fun o ho => ?_⟩
  rw [Bool.not_eq_true', Bool.eq_false_iff]
  exact fun e => Nat.not_le.mpr (nearer o ho) (first o e)

/-! ## The taking of a command -/

theorem State.permits_congr {s t : State} (p : Port) (r : Request) (attrs : (t.ports.get p).attrs = (s.ports.get p).attrs)
    (admin : (t.ports.get p).admin = (s.ports.get p).admin) : t.permits p r = s.permits p r := by
  unfold State.permits
  dsimp only
  rw [attrs, admin]

theorem ClientPort.markTaken_rights (c : ClientPort) : c.markTaken.attrs = c.attrs ∧ c.markTaken.admin = c.admin := by
  unfold ClientPort.markTaken
  split <;> exact ⟨rfl, rfl⟩

/-- The part with the head command of port `p` marked as taken and the position at that port. -/
def State.taking (p : Port) (s : State) : State :=
  State.modPort p ClientPort.markTaken { s with engine := { s.engine with rrPos := p } }

theorem State.taking_rights (p : Port) (s : State) :
    ((s.taking p).ports.get p).attrs = (s.ports.get p).attrs ∧ ((s.taking p).ports.get p).admin = (s.ports.get p).admin := by
  unfold State.taking
  rw [State.modPort_ports, Table.get_modify_self]
  exact ClientPort.markTaken_rights _

theorem State.taking_permits (p : Port) (r : Request) (s : State) : (s.taking p).permits p r = s.permits p r :=
  State.permits_congr p r (State.taking_rights p s).1 (State.taking_rights p s).2

theorem State.taking_mayMove (p : Port) (a : Reservation) (s : State) :
    (s.taking p).mayMove p a = (decide (a.owner = p) || (s.ports.get p).admin) := by
  unfold State.mayMove
  rw [(State.taking_rights p s).2]

theorem State.taking_lookup (p : Port) (h : Handle) (s : State) : (s.taking p).lookup h = s.lookup h := rfl

theorem State.takeCommand_refused {p : Port} {q : QueuedCommand} {st : Status} {s : State}
    (h : readRequest q.code q.body = .error st ∨
      ∃ r, readRequest q.code q.body = .ok r ∧ (s.taking p).answerAtTaking p r = some st) :
    s.takeCommand p q = (s.taking p).answer p q.tag st [] := by
  unfold State.takeCommand
  dsimp only
  rcases h with h | ⟨r, h, ha⟩
  · rw [h]
    rfl
  · rw [h]
    dsimp only
    rw [show State.answerAtTaking p r (State.modPort p ClientPort.markTaken
      { s with engine := { s.engine with rrPos := p } }) = some st from ha]
    rfl

theorem State.takeCommand_begun {p : Port} {q : QueuedCommand} {r : Request} {s : State}
    (h : readRequest q.code q.body = .ok r) (ha : (s.taking p).answerAtTaking p r = none) :
    s.takeCommand p q = (s.taking p).setWork (.command ⟨p, q.tag, r, false, (s.taking p).beginScan r⟩) := by
  unfold State.takeCommand
  dsimp only
  rw [h]
  dsimp only
  rw [show State.answerAtTaking p r (State.modPort p ClientPort.markTaken
    { s with engine := { s.engine with rrPos := p } }) = none from ha]
  rfl

theorem State.answerAtTaking_of_not_permitted {p : Port} {r : Request} {s : State} (h : s.permits p r = false) :
    (s.taking p).answerAtTaking p r = some .notPermitted := by
  unfold State.answerAtTaking
  rw [State.taking_permits, h]
  rfl

theorem State.answerAtTaking_of_relocate {p : Port} {a : RelocateArgs} {s : State} :
    (s.taking p).answerAtTaking p (.relocate a) = (s.taking p).relocateAtTaking p a := rfl

theorem State.answerAtTaking_eq_none {p : Port} {r : Request} {s : State} (permitted : s.permits p r = true)
    (h : ∀ a, r = .relocate a → (s.taking p).relocateAtTaking p a = none) : (s.taking p).answerAtTaking p r = none := by
  unfold State.answerAtTaking
  rw [State.taking_permits, permitted]
  cases r with
  | relocate a => exact h a rfl
  | _ => rfl

theorem State.relocateAtTaking_of_stale {p : Port} {a : RelocateArgs} {s : State} (h : s.Stale a.handle) :
    (s.taking p).relocateAtTaking p a = some .badHandle := by
  unfold State.relocateAtTaking
  rw [State.taking_lookup, State.lookup_of_stale h]

/-- The checks that read the record of a RELOCATE, in their order (R106). -/
theorem State.relocateAtTaking_of_names {p : Port} {a : RelocateArgs} {i : RecIx} {b : Reservation} {s : State}
    (h : s.Names a.handle i b) : (s.taking p).relocateAtTaking p a =
      if b.state ≠ .live then some (if decide (b.owner = p) || (s.ports.get p).admin then .wrongState else .notOwner)
      else if (a.search (setTotal b.set)).fits then none
      else some (if decide (b.owner = p) || (s.ports.get p).admin then .badArgument else .notOwner) := by
  unfold State.relocateAtTaking
  rw [State.taking_lookup, State.lookup_of_names h]
  dsimp only
  rw [State.taking_mayMove]

section
variable {s : State} {p : Port} {q : QueuedCommand} {rest : List QueuedCommand} (high : s.resetLow = false)
  (idle : s.engine.work = .idle) (noPass : s.engine.waitReq = false) (queue : (s.ports.get p).queue = q :: rest)
  (next : s.nextPort = some p)
include high idle noPass queue next

theorem exec_engineTakeCommand_eq : exec .engineTakeCommand s = .next (s.takeCommand p q) := by
  refine next_congr ?_
  rw [if_neg (by simp [high, idle, noPass])]
  unfold State.engineTake
  rw [next]
  dsimp only
  rw [queue]

theorem exec_engineTakeCommand_refused {st : Status} (h : readRequest q.code q.body = .error st ∨
      ∃ r, readRequest q.code q.body = .ok r ∧ (s.taking p).answerAtTaking p r = some st) :
    exec .engineTakeCommand s = .next { s with
      engine := { s.engine with rrPos := p }
      ports := s.ports.modify p fun c => { c with queue := rest, stored := c.stored ++ [⟨q.tag, st, [], true⟩] } } := by
  rw [exec_engineTakeCommand_eq high idle noPass queue next, State.takeCommand_refused h]
  have ports : (s.ports.modify p ClientPort.markTaken).modify p (ClientPort.answer q.tag st []) =
      s.ports.modify p fun c => { c with queue := rest, stored := c.stored ++ [⟨q.tag, st, [], true⟩] } := by
    rw [Table.modify_modify]
    refine Table.modify_congr ?_
    rw [ClientPort.markTaken_of_cons queue]
    rfl
  exact congrArg (fun ports => Host.Outcome.next { s with engine := { s.engine with rrPos := p }, ports := ports }) ports

end

/-- Settles O14: the first eligible port after the position is `nextPort`, and a command that passes its checks stays with its search. -/
theorem engineTakesNextPort : Obligations.EngineTakesNextPort := by
  intro s p q rest r high idle noPass queue eligible first read permitted checks
  have none : (s.taking p).answerAtTaking p r = none := by
    refine State.answerAtTaking_eq_none permitted fun a ha => ?_
    obtain ⟨i, b, names, live, fits⟩ := checks a ha
    rw [State.relocateAtTaking_of_names names, if_neg (not_not.mpr live)]
    exact if_pos fits
  refine ⟨(s.taking p).beginScan r, ?_, fun a ha => by subst ha; rfl, fun a i b ha names => ?_, fun reserve relocate => ?_⟩
  · rw [exec_engineTakeCommand_eq high idle noPass queue (State.nextPort_eq eligible first), State.takeCommand_begun read none]
    have ports : s.ports.modify p ClientPort.markTaken =
        s.ports.modify p fun c => { c with queue := { q with taken := true } :: rest } :=
      Table.modify_congr (ClientPort.markTaken_of_cons queue)
    rw [← ports, ← noPass]
    rfl
  · subst ha
    show State.relocateScan a (s.taking p) = _
    unfold State.relocateScan
    rw [State.taking_lookup, State.lookup_of_names names]
    rfl
  · cases r with
    | reserve a => exact absurd rfl (reserve a)
    | relocate a => exact absurd rfl (relocate a)
    | _ => rfl

/-- Settles O15: the checks at the taking, in their order, and the answer that each gives at once. -/
theorem engineRefusesAtTaking : Obligations.EngineRefusesAtTaking := by
  intro s p q rest high idle noPass queue eligible first
  have next := State.nextPort_eq eligible first
  have refused {st : Status} := exec_engineTakeCommand_refused (st := st) high idle noPass queue next
  refine ⟨fun st h => refused (.inl h), fun r read => ⟨fun h => refused (.inr ⟨r, read, ?_⟩), ?_⟩⟩
  · exact State.answerAtTaking_of_not_permitted h
  · rintro a rfl
    have reads (st : Status) (h : (s.taking p).relocateAtTaking p a = some st) := refused (.inr ⟨_, read, h⟩)
    refine ⟨fun stale => reads _ (State.relocateAtTaking_of_stale stale), fun i b names => ?_⟩
    have mine : b.owner = p ∨ (s.ports.get p).admin = true ↔
        (decide (b.owner = p) || (s.ports.get p).admin) = true := by simp
    have taking := State.relocateAtTaking_of_names (p := p) names
    refine ⟨fun unfit other => reads _ (taking.trans ?_), fun state owner => reads _ (taking.trans ?_),
      fun live fits owner => reads _ (taking.trans ?_)⟩
    · rw [if_neg (mine.not.mp other), if_neg (mine.not.mp other)]
      by_cases live : b.state = .live
      · rw [if_neg (not_not.mpr live)]
        exact if_neg (by rw [show (a.search (setTotal b.set)).fits = false from unfit.resolve_left (not_not.mpr live)]; simp)
      · exact if_pos live
    · rw [if_pos state, if_pos (mine.mp owner)]
    · rw [if_neg (not_not.mpr live), if_pos (mine.mp owner)]
      exact if_neg (by rw [show (a.search (setTotal b.set)).fits = false from fits]; simp)

/-! ## A completion of a command withdrawn or not permitted -/

theorem exec_completion (r : Request) (s : State) : ∃ (pick : Request → Option (Command → State → State))
    (run : Command → State → State), pick r = some run ∧ exec r.completion s = .next (s.complete pick) := by
  cases r <;> exact ⟨_, _, rfl, rfl⟩

theorem Request.forbidden_iff (p : Port) (r : Request) (s : State) : r.Forbidden (s.ports.get p) ↔ s.permits p r = false := by
  cases r with
  | reserve a => simp [Request.Forbidden, State.permits, Classical.or_iff_not_imp_left]
  | bar | unbar | forceRelease | setParam | setPort | resetPort | readParams => exact Iff.rfl
  | _ => exact iff_of_false id nofun

theorem State.complete_of_command {c : Command} {pick : Request → Option (Command → State → State)}
    {run : Command → State → State} {s : State} (high : s.resetLow = false) (work : s.engine.work = .command c)
    (hp : pick c.req = some run) : s.complete pick = s.finish c (run c) := by
  unfold State.complete
  rw [high, work]
  dsimp only
  rw [hp]
  rfl

/-- Settles O16: a completion looks at the withdrawal, then at the right, before it runs. -/
theorem withdrawnOrNotPermitted : Obligations.WithdrawnOrNotPermitted := by
  intro c s high work
  obtain ⟨pick, run, hp, he⟩ := exec_completion c.req s
  rw [he, State.complete_of_command high work hp]
  refine ⟨fun withdrawn => next_congr (if_pos withdrawn), fun kept forbidden queue => next_congr ?_⟩
  have denied : (s.permits c.port c.req) = false := (Request.forbidden_iff c.port c.req s).mp forbidden
  unfold State.finish
  rw [kept, denied]
  exact State.answer_setWork_idle c.port c.tag .notPermitted [] s queue

end Sys2Proof.Machine
end

section
/-! PROOFS. Completions that answer from the records, the contexts, the Wait List and the units, and change one entry at most
(R39, R40, R82, R107, R110, R111, R168, R169). -/

namespace Sys2Proof.Machine

/-! ## A completion that changes something beside the ports -/

/-- An answer over a state whose ports are those of `s`, as a change of that state's ports. -/
theorem State.answer_of_ports {s t : State} {p : Port} (tag : Byte) (status : Status) (body : List Byte)
    (ports : t.ports = s.ports) (queue : (s.ports.get p).queue ≠ []) :
    t.answer p tag status body = { t with ports := (s.answered p tag status body).ports } := by
  have answered : s.ports.modify p (ClientPort.answer tag status body) = s.ports.modify p fun c =>
      { c with queue := c.queue.tail, stored := c.stored ++ [⟨tag, status, body, true⟩] } :=
    Table.modify_congr (ClientPort.answer_of_ne tag status body queue)
  unfold State.answer State.modPort
  rw [ports, answered]
  rfl

/-- The head of the port's queue that an engaged command is. -/
theorem State.Engaged.queue {p : Port} {tag : Byte} {req : Request} {scan : Option Scan} {s : State}
    (h : s.Engaged p tag req scan) : (s.ports.get p).queue ≠ [] := h.2.2.2

theorem State.Engaged.high {p : Port} {tag : Byte} {req : Request} {scan : Option Scan} {s : State}
    (h : s.Engaged p tag req scan) : s.resetLow = false := h.1

theorem State.lookup_setWork (h : Handle) (w : Work) (s : State) : (s.setWork w).lookup h = s.lookup h := rfl

/-! ## Completions on a record -/

section
variable {h : Handle} {i : RecIx} {a : Reservation} {s : State} (c : Command) (names : s.Names h i a)
include names

theorem State.releaseCompletion_of_other (other : a.owner ≠ c.port) :
    s.releaseCompletion h c = s.answer c.port c.tag .notOwner [] := by
  rw [State.releaseCompletion, State.lookup_of_names names]
  exact if_neg other

theorem State.renewCompletion_of_other (n : Nat) (other : a.owner ≠ c.port) :
    s.renewCompletion h n c = s.answer c.port c.tag .notOwner [] := by
  rw [State.renewCompletion, State.lookup_of_names names]
  exact if_neg other

theorem State.renewCompletion_of_unleased (n : Nat) (own : a.owner = c.port) (unleased : a.lease = none) :
    s.renewCompletion h n c = s.answer c.port c.tag .wrongState [] := by
  rw [State.renewCompletion, State.lookup_of_names names]
  dsimp only
  rw [if_pos own, unleased]

theorem State.renewCompletion_of_leased (n : Nat) (own : a.owner = c.port) {l : Lease} (leased : a.lease = some l) :
    s.renewCompletion h n c = State.answer c.port c.tag .ok (be16 (l.renewed n).length ++ be16 (l.renewed n).remaining)
      (s.modReservation i fun r => { r with lease := some (l.renewed n) }) := by
  rw [State.renewCompletion, State.lookup_of_names names]
  dsimp only
  rw [if_pos own, leased]

theorem State.ownOffer_of_other {p : Port} (other : a.owner ≠ p) : s.ownOffer h p = .error .notOwner := by
  rw [State.ownOffer, State.lookup_of_names names]
  exact if_neg other

/-- With no OFFERED move of its own record a port has no offer to answer (R110, R111). -/
theorem State.ownOffer_of_no_offer {p : Port} (own : a.owner = p)
    (no : ∀ k c n, ¬ (a.state = .moving ∧ a.context = some k ∧ s.moves.get k = some c ∧ c.stage = .offered n)) :
    s.ownOffer h p = .error .wrongState := by
  rw [State.ownOffer, State.lookup_of_names names]
  dsimp only
  rw [if_pos own]
  cases hc : s.contextOf a with
  | none => rfl
  | some x =>
    obtain ⟨k, m⟩ := x
    obtain ⟨moving, context, get⟩ := State.contextOf_eq_some.mp hc
    have offered : m.isOffered = false := by
      unfold MoveContext.isOffered
      cases hs : m.stage with
      | offered n => exact absurd ⟨moving, context, get, hs⟩ (no k m n)
      | armed => rfl
      | overlap n o => rfl
    dsimp only
    rw [offered]
    rfl

theorem State.ownOffer_of_offer {p : Port} (own : a.owner = p) {k : CtxIx} {m : MoveContext} {n : Nat}
    (moving : a.state = .moving) (context : a.context = some k) (get : s.moves.get k = some m)
    (offered : m.stage = .offered n) : s.ownOffer h p = .ok (k, m) := by
  rw [State.ownOffer, State.lookup_of_names names]
  dsimp only
  rw [if_pos own, State.contextOf_eq_some.mpr ⟨moving, context, get⟩]
  dsimp only
  rw [MoveContext.isOffered, offered]
  rfl

theorem State.relocateCompletion_of_names {q : RelocateArgs} (hq : q.handle = h) :
    s.relocateCompletion q c =
      if !s.mayMove c.port a then s.answer c.port c.tag .notOwner []
      else if a.state ≠ .live then s.answer c.port c.tag .wrongState []
      else
        match s.freeContext with
        | none => s.answer c.port c.tag .noMoveContext []
        | some k =>
          match s.searchResult c (q.search (setTotal a.set)) with
          | none => s.answer c.port c.tag .noRoom []
          | some set => s.relocateGrant q c k i a set := by
  subst hq
  rw [State.relocateCompletion, State.lookup_of_names names] <;> rfl

end

theorem State.confirmCompletion_of_error {h : Handle} {st : Status} {c : Command} {s : State}
    (e : s.ownOffer h c.port = .error st) : s.confirmCompletion h c = s.answer c.port c.tag st [] := by
  rw [State.confirmCompletion, e]

theorem State.declineCompletion_of_error {h : Handle} {st : Status} {c : Command} {s : State}
    (e : s.ownOffer h c.port = .error st) : s.declineCompletion h c = s.answer c.port c.tag st [] := by
  rw [State.declineCompletion, e]

/-- The handle names the record still when the engine has put its command down. -/
theorem State.Names.setWork {h : Handle} {i : RecIx} {a : Reservation} {s : State} (n : s.Names h i a) (w : Work) :
    (s.setWork w).Names h i a := n

theorem State.mayMove_iff (p : Port) (a : Reservation) (s : State) :
    s.mayMove p a = true ↔ a.owner = p ∨ (s.ports.get p).admin = true := by
  simp [State.mayMove]

/-- Settles O20: each completion reads the owner of the record before anything else of it. -/
theorem notOwnerRefused : Obligations.NotOwnerRefused := by
  intro p tag h i a scan s names other outcome
  have idle := names.setWork .idle
  refine ⟨?release, ?renew, ?confirm, ?decline, ?relocate⟩
  case release =>
    exact fun e => congrArg _ (State.complete_eq_answered e rfl (State.releaseCompletion_of_other _ idle other))
  case renew =>
    exact fun n e => congrArg _ (State.complete_eq_answered e rfl (State.renewCompletion_of_other _ idle n other))
  case confirm =>
    exact fun e => congrArg _ (State.complete_eq_answered e rfl
      (State.confirmCompletion_of_error (State.ownOffer_of_other idle other)))
  case decline =>
    exact fun e => congrArg _ (State.complete_eq_answered e rfl
      (State.declineCompletion_of_error (State.ownOffer_of_other idle other)))
  case relocate =>
    intro q hq admin e
    have no : (s.setWork .idle).mayMove p a = false := by simp [State.mayMove, other, admin]
    refine congrArg _ (State.complete_eq_answered e rfl ?_)
    rw [State.relocateCompletion_of_names _ idle hq, no]
    rfl

/-- Settles O22: a renewal of an own leased record writes its lease. -/
theorem renewSetsLease : Obligations.RenewSetsLease := by
  intro p tag h n scan s e
  refine ⟨fun stale => congrArg _ (State.complete_eq_answered e rfl
      (State.renewCompletion_of_stale _ n ((State.stale_setWork h .idle s).mpr stale))), fun i a names => ?_⟩
  have idle := names.setWork .idle
  refine ⟨fun other => congrArg _ (State.complete_eq_answered e rfl (State.renewCompletion_of_other _ idle n other)),
    fun own unleased => congrArg _ (State.complete_eq_answered e rfl
      (State.renewCompletion_of_unleased _ idle n own unleased)), fun l own leased => next_congr ?_⟩
  obtain ⟨_, alloc, gen⟩ := names
  have records : s.pool.records.modify i (fun r => { r with alloc := r.alloc.map fun b => { b with lease := some (l.renewed n) } })
      = s.pool.records.set i ⟨h.gen, some { a with lease := some (l.renewed n) }⟩ := by
    rw [Table.modify_eq_set, alloc, gen]
    rfl
  rw [State.complete_of_engaged e _ (State.renewCompletion h n) rfl, State.renewCompletion_of_leased _ idle n own leased]
  refine Eq.trans (State.answer_of_ports (s := s) _ _ _ rfl e.queue) ?_
  exact congrArg (fun records => { s.answered p tag .ok (be16 (l.renewed n).length ++ be16 (l.renewed n).remaining) with
    pool := { s.pool with records := records } }) records

/-! ## Refusals of RELOCATE -/

theorem State.freeContext_eq_none {s : State} (h : ∀ k, s.moves.get k ≠ none) : s.freeContext = none := by
  rw [State.freeContext, List.find?_eq_none]
  exact fun k _ => by simpa using h k

theorem State.freeContext_eq_some {k : CtxIx} {s : State} (free : s.moves.get k = none)
    (lowest : ∀ j, j < k → s.moves.get j ≠ none) : s.freeContext = some k := by
  rw [State.freeContext, List.find?_eq_some_iff_getElem]
  refine ⟨by simpa using free, k.val, by simp [allContexts], by simp [allContexts], fun j hj => ?_⟩
  have := lowest ⟨j, by omega⟩ hj
  simpa [allContexts] using this

theorem State.exists_freeContext {s : State} (h : ∃ k, s.moves.get k = none) : ∃ k, s.freeContext = some k := by
  obtain ⟨k, hk⟩ := h
  rw [State.freeContext, ← Option.isSome_iff_exists, List.find?_isSome]
  exact ⟨k, List.mem_finRange k, by simpa using hk⟩

/-- Settles O32: state, context and room are read in this order, and a refusal at any of them only answers. -/
theorem relocateRefused : Obligations.RelocateRefused := by
  intro p tag q scan s i a e names mine outcome search
  have idle := names.setWork .idle
  have may : (s.setWork .idle).mayMove p a = true := (State.mayMove_iff p a s).mpr mine
  have completion := State.relocateCompletion_of_names ⟨p, tag, .relocate q, false, scan⟩ idle rfl
  dsimp only at completion
  rw [may] at completion
  refine ⟨fun state => congrArg _ (State.complete_eq_answered e rfl (completion.trans ?_)),
    fun live full => congrArg _ (State.complete_eq_answered e rfl (completion.trans ?_)),
    fun live free room => congrArg _ (State.complete_eq_answered e rfl (completion.trans ?_))⟩
  · exact if_pos state
  · rw [State.freeContext_eq_none (s := s.setWork .idle) full]
    exact if_neg (not_not.mpr live)
  · obtain ⟨k, hk⟩ := State.exists_freeContext (s := s.setWork .idle) free
    have none : (s.setWork .idle).searchResult ⟨p, tag, .relocate q, false, scan⟩ (q.search (setTotal a.set)) = none := room
    rw [hk]
    dsimp only
    rw [none]
    exact if_neg (not_not.mpr live)

/-! ## Watch units -/

theorem unitBody_eq (k : UnitIx) (result : Bool) : unitBody k result = [BitVec.ofNat 8 k.val, if result then 1#8 else 0#8] := by
  cases result <;> rfl

/-- Settles O38: both commands read the unit and its owner, and change that unit alone. -/
theorem clearAndRearmWatch : Obligations.ClearAndRearmWatch := by
  intro p tag k scan s
  refine ⟨fun e => ⟨fun free => congrArg _ (State.complete_eq_answered e rfl ?_), fun w hw => ⟨fun other =>
      congrArg _ (State.complete_eq_answered e rfl ?_), fun own => next_congr ?_⟩⟩,
    fun e => ⟨fun free => congrArg _ (State.complete_eq_answered e rfl ?_), fun w hw => ⟨fun other =>
      congrArg _ (State.complete_eq_answered e rfl ?_), fun own armed => congrArg _ (State.complete_eq_answered e rfl ?_),
      fun own held => next_congr ?_⟩⟩⟩
  · rw [State.clearWatchCompletion, State.setWork_units, free]
  · rw [State.clearWatchCompletion, State.setWork_units, hw]
    exact if_neg other
  · rw [State.complete_of_engaged e _ (State.clearWatchCompletion k) rfl, State.clearWatchCompletion, State.setWork_units, hw]
    dsimp only
    rw [if_pos own, unitBody_eq]
    exact State.answer_of_ports (s := s) _ _ _ rfl e.queue
  · rw [State.rearmWatchCompletion, State.setWork_units, free]
  · rw [State.rearmWatchCompletion, State.setWork_units, hw]
    exact if_pos other
  · rw [State.rearmWatchCompletion, State.setWork_units, hw]
    dsimp only
    rw [if_neg (not_not.mpr own), if_pos armed]
  · rw [State.complete_of_engaged e _ (State.rearmWatchCompletion k) rfl, State.rearmWatchCompletion, State.setWork_units, hw]
    dsimp only
    rw [if_neg (not_not.mpr own), if_neg (by simp [held]), unitBody_eq]
    exact State.answer_of_ports (s := s) _ _ _ rfl e.queue

/-! ## The Wait List -/

theorem WaitList.find_eq_none {ticket : Byte} {w : WaitList} (h : ∀ e ∈ w.entries, e.ticket ≠ ticket) :
    w.find ticket = none := by
  rw [WaitList.find, List.find?_eq_none]
  exact fun e he => by simpa using h e he

/-- With distinct tickets a ticket finds the entry that holds it (R71). -/
theorem WaitList.find_eq_some {w : WaitList} (distinct : (w.entries.map WaitEntry.ticket).Nodup) {e : WaitEntry}
    (he : e ∈ w.entries) : w.find e.ticket = some e := by
  cases h : w.find e.ticket with
  | none =>
    rw [WaitList.find, List.find?_eq_none] at h
    exact absurd (h e he) (by simp)
  | some x =>
    have ticket : x.ticket = e.ticket := by simpa using List.find?_some h
    rw [eq_of_ticket_eq distinct (List.mem_of_find?_eq_some h) he ticket]

/-- Settles O26: the ticket finds its entry, and the owner's entry leaves. -/
theorem cancelWaitRemovesEntry : Obligations.CancelWaitRemovesEntry := by
  intro p tag ticket scan s e distinct
  refine ⟨fun none => congrArg _ (State.complete_eq_answered e rfl ?_), ?_⟩
  · rw [State.cancelCompletion, State.setWork_waits, WaitList.find_eq_none none]
  · rintro x hx rfl
    have found := WaitList.find_eq_some distinct hx
    refine ⟨fun other => congrArg _ (State.complete_eq_answered e rfl ?_), fun own => next_congr ?_⟩
    · rw [State.cancelCompletion, State.setWork_waits, found]
      exact if_neg other
    · rw [State.complete_of_engaged e _ (State.cancelCompletion x.ticket) rfl, State.cancelCompletion, State.setWork_waits,
        found]
      dsimp only
      subst own
      have ports : (s.ports.modify x.port fun c => { c with promised := c.promised - x.search.n }).modify x.port
          (ClientPort.answer tag .ok (x.ticket :: byteOf x.search.n :: be16 (x.remaining.getD 0))) =
          s.ports.modify x.port fun c => { c with
            promised := c.promised - x.search.n
            queue := c.queue.tail
            stored := c.stored ++ [⟨tag, .ok, x.ticket :: byteOf x.search.n :: be16 (x.remaining.getD 0), true⟩] } := by
        rw [Table.modify_modify]
        refine Table.modify_congr ?_
        rw [ClientPort.answer_of_ne _ _ _ (by exact e.queue)]
      rw [if_pos rfl]
      exact congrArg (fun ports => { s with
        engine := { s.engine with work := .idle, waitReq := true }
        waits := { s.waits with entries := s.waits.entries.filter fun y => y.ticket ≠ x.ticket }
        ports := ports }) ports

/-! ## The beginning of a pass -/

theorem exec_waitPassBegin_eq {s : State} (high : s.resetLow = false) (idle : s.engine.work = .idle)
    (asked : s.engine.waitReq = true) : exec .waitPassBegin s = .next s.beginPass :=
  next_congr (if_neg (by simp [high, idle, asked]))

theorem serviceOrder_eq_nil (es : List WaitEntry) : serviceOrder es = [] ↔ es = [] :=
  ⟨fun h => (h ▸ serviceOrder_perm es).nil_eq.symm ▸ rfl, fun h => by subst h; rfl⟩

theorem State.beginPass_of_nil {s : State} (idle : s.engine.work = .idle) (h : s.passEntries = []) :
    s.beginPass = { s with engine := { s.engine with waitReq := false, work := .idle } } := by
  unfold State.beginPass
  rw [h, ← idle]

theorem State.beginPass_of_entries {s : State} (h : s.passEntries ≠ []) :
    s.beginPass = { s with engine := { s.engine with
      waitReq := false, work := .pass ⟨s.passEntries.map WaitEntry.ticket, none, [], s.engine.rover⟩ } } := by
  unfold State.beginPass
  cases hp : s.passEntries with
  | nil => exact absurd hp h
  | cons e es => rfl

/-- Settles O27: the entries to be tried are those of the policy, in service order. -/
theorem passBegins : Obligations.PassBegins := by
  intro s high idle asked
  dsimp only
  rw [exec_waitPassBegin_eq high idle asked]
  have order : ∀ es : List WaitEntry, (es.filter (fun e => e.cls = .urgent) ++ es.filter (fun e => e.cls = .normal) ++
    es.filter fun e => e.cls = .bulk) = serviceOrder es := fun _ => rfl
  rw [order]
  refine ⟨fun none => next_congr (State.beginPass_of_nil idle ?_), fun some fit => next_congr ?_,
    fun some strict => next_congr ?_⟩
  · rw [State.passEntries, (serviceOrder_eq_nil _).mpr none]
    split <;> rfl
  · have entries : s.passEntries = serviceOrder s.waits.entries := by rw [State.passEntries, fit]
    rw [State.beginPass_of_entries (by rwa [entries, Ne, serviceOrder_eq_nil]), entries]
  · have entries : s.passEntries = (serviceOrder s.waits.entries).take 1 := by rw [State.passEntries, strict]
    rw [State.beginPass_of_entries (by
      rwa [entries, Ne, List.take_eq_nil_iff, or_iff_right (by decide), serviceOrder_eq_nil]), entries, List.map_take]

end Sys2Proof.Machine
end

section
/-! PROOFS. Commands that read, that set parameters and attributes, that a port answers itself, and UNBAR
(R13, R22, R41, R42, R138 to R140, R154, R177, R179, R181, R182). -/

namespace Sys2Proof.Machine

/-! ## Bytes of answers -/

theorem attrBytes_eq (a : Attributes) : attrBytes a =
    be16 a.slotQuota ++ [BitVec.ofNat 8 a.recordQuota, if a.policy = .retain then 1#8 else 0#8,
      BitVec.ofNat 8 ((if a.urgent then 4 else 0) + (if a.unleased then 2 else 0) + (if a.notices then 1 else 0))] := by
  unfold attrBytes
  cases a.policy <;> rfl

theorem byteOf_bitAt_zero (b : Bool) : byteOf (bitAt b 0) = if b then 1#8 else 0#8 := by
  cases b <;> rfl

/-! ## Commands that read -/

theorem State.queryCompletion_of_names {h : Handle} {i : RecIx} {a : Reservation} {s : State} (c : Command)
    (names : s.Names h i a) : s.queryCompletion h c = s.answer c.port c.tag .ok (s.queryBody h a) := by
  rw [State.queryCompletion, State.lookup_of_names names]

theorem leaseFlags_eq (a : Reservation) :
    bitAt a.ticket.isSome 2 + bitAt (a.lease.any Lease.warned) 1 + bitAt a.lease.isSome 0 =
      (if a.ticket.isSome then 4 else 0) + (match a.lease with
        | some l => (if l.warned then 2 else 0) + 1
        | none => 0) := by
  rw [Nat.add_assoc]
  cases a.lease <;> rfl

theorem moveBytes_eq (ctx : Option (CtxIx × MoveContext)) : moveBytes ctx =
    match ctx with
      | some (k, c) => BitVec.ofNat 8 k.val :: (match c.stage with
          | .offered n => 0#8 :: be16 n
          | .armed => [1#8, 0#8, 0#8]
          | .overlap n _ => 2#8 :: be16 n)
      | none => [0xFF#8, 0xFF#8, 0#8, 0#8] := by
  cases ctx with
  | none => rfl
  | some x =>
    obtain ⟨k, c⟩ := x
    dsimp only [moveBytes]
    cases c.stage <;> rfl

theorem continuation_eq (owned : List RecIx) : continuation owned =
    if owned.length ≤ 48 then 0xFF#8 else BitVec.ofNat 8 (((owned.take 48).getLast?.elim 0 fun i => i.val + 1)) := by
  unfold continuation
  split
  · next few => exact (if_pos few).symm
  · next many =>
    have some : owned.take 48 ≠ [] := by
      rw [Ne, List.take_eq_nil_iff, or_iff_right (by decide)]
      rintro rfl
      exact many (Nat.zero_le _)
    rw [if_neg (by exact many)]
    have last := List.getLast?_eq_some_getLast some
    rw [show Config.listLimit = 48 from rfl, last]
    rfl

/-- The item of a slot by its state (R22). -/
theorem slotItem_eq (e : Slot) : slotItem e = match e with
    | .free => [0x00#8, 0xFF#8]
    | .held i role _ b => [BitVec.ofNat 8 (32 + (if role = .current then 8 else 16) + (if b then 4 else 0)),
        BitVec.ofNat 8 i.val]
    | .live i role b => [BitVec.ofNat 8 (64 + (if role = .current then 8 else 16) + (if b then 4 else 0)),
        BitVec.ofNat 8 i.val]
    | .draining _ b => [BitVec.ofNat 8 (96 + (if b then 4 else 0)), 0xFF#8]
    | .barred => [0x80#8, 0xFF#8] := by
  cases e with
  | free => rfl
  | held i role armed b => cases role <;> rfl
  | live i role b => cases role <;> rfl
  | draining n b => rfl
  | barred => rfl

theorem SlotMap.entriesOf_length {r : Run} (m : SlotMap) (inside : r.first + r.len ≤ 512) :
    (m.entriesOf r).length = r.len := by
  rw [SlotMap.entriesOf, List.length_take, List.length_drop, m.entries.size]
  omega

theorem SlotMap.entriesOf_getElem? {r : Run} {k : Nat} (m : SlotMap) (hk : k < r.len) (hs : r.first + k < 512) :
    (m.entriesOf r)[k]? = some (m.entries.get ⟨r.first + k, hs⟩) := by
  rw [SlotMap.entriesOf, List.getElem?_take_of_lt hk, List.getElem?_drop, List.getElem?_eq_getElem (by rw [m.entries.size]; exact hs)]
  rfl

/-- Settles O23: the three commands answer from the tables as they stand, byte by byte. -/
theorem readingCommandsAnswer : Obligations.ReadingCommandsAnswer := by
  refine ⟨fun p tag h i a scan s names e => ?_, fun p tag start scan s e => ?_, fun p tag r scan s inside e => ?_⟩
  · refine congrArg _ (State.complete_eq_answered e rfl ?_)
    rw [State.queryCompletion_of_names _ (names.setWork .idle)]
    refine congrArg (State.answer p tag .ok · (s.setWork .idle)) ?_
    show State.queryBody h a s = _
    unfold State.queryBody
    rw [leaseFlags_eq, moveBytes_eq]
    cases a.lease with
    | none =>
      simp only [Handle.bytes, byteOf, be16, List.append_assoc, List.cons_append, List.nil_append]
      rfl
    | some l =>
      simp only [Handle.bytes, byteOf, be16, List.append_assoc, List.cons_append, List.nil_append]
      rfl
  · refine congrArg _ (State.complete_eq_answered e rfl ?_)
    refine congrArg (State.answer p tag .ok · (s.setWork .idle)) ?_
    show State.listBody p start s = _
    unfold State.listBody
    dsimp only
    rw [continuation_eq]
    rfl
  · refine ⟨(s.map.entriesOf r).map slotItem, by rw [List.length_map, s.map.entriesOf_length inside], fun k hs hk => ?_,
      congrArg _ (State.complete_eq_answered e rfl ?_)⟩
    · rw [List.getElem?_map, s.map.entriesOf_getElem? hk hs, Option.map_some, slotItem_eq] <;> rfl
    · refine congrArg (State.answer p tag .ok · (s.setWork .idle)) ?_
      rw [← List.flatMap_def]
      rfl

/-! ## Parameters and ports -/

theorem ParamName.code_of_ranges {name : ParamName} {id : Byte} {v : Nat} (h : name.Ranges id v) : name.code = id := by
  cases name <;> exact h.1.symm

theorem allPorts_toList {α : Type} (t : Table α 6) : t.toList = [t.get 0, t.get 1, t.get 2, t.get 3, t.get 4, t.get 5] := by
  rw [Table.toList_eq_map_get]
  rfl

theorem portBlock_eq (c : ClientPort) : byteOf (bitAt c.admin 0) :: attrBytes c.attrs =
    [if c.admin then 1#8 else 0#8] ++ be16 c.attrs.slotQuota ++ [BitVec.ofNat 8 c.attrs.recordQuota,
      if c.attrs.policy = .retain then 1#8 else 0#8,
      BitVec.ofNat 8 ((if c.attrs.urgent then 4 else 0) + (if c.attrs.unleased then 2 else 0) +
        (if c.attrs.notices then 1 else 0))] := by
  rw [byteOf_bitAt_zero, attrBytes_eq]
  rfl

/-- Settles O40: each command changes what it names and answers with it. -/
theorem configurationCommands : Obligations.ConfigurationCommands := by
  refine ⟨fun p tag name id v scan s ranges e => ?_, fun p tag scan s e => ?_, fun p q tag attrs scan s e => ?_⟩
  · refine next_congr ?_
    rw [State.complete_of_engaged e _ (State.setParamCompletion name v) rfl]
    unfold State.setParamCompletion
    refine Eq.trans (State.answer_of_ports (s := s) _ _ _ rfl e.queue) ?_
    rw [ParamName.code_of_ranges ranges]
    cases name with
    | waitPolicy =>
      have code : s.params.waitPolicy.code = if s.params.waitPolicy = .strict then 0 else 1 := by
        cases s.params.waitPolicy <;> rfl
      rw [← code]
      rfl
    | _ => rfl
  · refine congrArg _ (State.complete_eq_answered e rfl ?_)
    refine congrArg (State.answer p tag .ok · (s.setWork .idle)) ?_
    have policy : byteOf s.params.waitPolicy.code = if s.params.waitPolicy = .fit then 1#8 else 0#8 := by
      cases s.params.waitPolicy <;> rfl
    show s.paramsBody = _
    unfold State.paramsBody
    dsimp only
    rw [policy, allPorts_toList]
    simp only [List.flatMap_cons, List.flatMap_nil, portBlock_eq]
    simp only [byteOf, List.append_assoc, List.append_nil]
  · refine next_congr ?_
    rw [State.complete_of_engaged e _ (State.setPortCompletion q attrs) rfl, State.setPortCompletion]
    have queue : ((s.modPort q fun c => { c with attrs := attrs }).ports.get p).queue ≠ [] := by
      rw [State.modPort_ports, Table.get_modify]
      split <;> exact e.queue
    refine Eq.trans (State.answer_of_ports (s := s.modPort q fun c => { c with attrs := attrs }) _ _ _ ?_ queue) ?_
    · split <;> rfl
    · rw [attrBytes_eq]
      have raised : raisesQuota ((s.setWork .idle).ports.get q).attrs attrs =
          (decide ((s.ports.get q).attrs.slotQuota < attrs.slotQuota) ||
            decide ((s.ports.get q).attrs.recordQuota < attrs.recordQuota)) := rfl
      rw [raised]
      cases (decide ((s.ports.get q).attrs.slotQuota < attrs.slotQuota) ||
            decide ((s.ports.get q).attrs.recordQuota < attrs.recordQuota)) with
      | false => rw [Bool.or_false]; rfl
      | true => rw [Bool.or_true]; rfl

/-! ## What a port answers itself -/

section
variable {p : Port} {q : QueuedCommand} {rest : List QueuedCommand} {s : State} (high : s.resetLow = false)
  (queue : (s.ports.get p).queue = q :: rest)

include queue in
theorem State.answer_of_cons (tag : Byte) (status : Status) (body : List Byte) :
    s.answer p tag status body = s.modPort p fun c =>
      { c with queue := rest, stored := c.stored ++ [⟨tag, status, body, true⟩] } := by
  refine State.modPort_congr ?_
  rw [ClientPort.answer, queue]

include high queue in
theorem State.answerLocal_of_head {code : Byte} (run : QueuedCommand → State → State) (hc : q.code = code) :
    s.answerLocal p code run = run q s := by
  unfold State.answerLocal
  rw [high, queue]
  exact if_pos hc

end

theorem readMaxCount_eq_none {body : List Byte} (h : ∀ n : Byte, body = [n] → n.toNat = 0 ∨ 16 < n.toNat) :
    readMaxCount body = none := by
  unfold readMaxCount
  split
  · next n => exact if_neg (by have := h n rfl; omega)
  · rfl

theorem State.contextsInUse_eq (s : State) :
    s.contextsInUse = (List.finRange 4).countP fun k => decide (s.moves.get k ≠ none) := by
  rw [State.contextsInUse, Table.countP_toList]
  refine List.countP_congr fun k _ => ?_
  simp [Option.isSome_iff_ne_none]

/-- Settles O44: the head command is answered by the port alone. -/
theorem portLocalCommandsAnswer : Obligations.PortLocalCommandsAnswer := by
  refine ⟨fun p q rest s high queue code => ⟨fun n body low most => next_congr ?_, fun bad => next_congr ?_⟩,
    fun p q rest s high queue => ⟨fun code => next_congr ?_, fun code some => next_congr ?_, fun code none => next_congr ?_⟩⟩
  · rw [State.answerLocal_of_head high queue _ (by exact code), State.fetchAnswer, body]
    have count : readMaxCount [n] = some n.toNat := if_pos ⟨low, most⟩
    rw [count]
    dsimp only
    have fetched : ((s.modPort p (ClientPort.fetch n.toNat)).ports.get p).queue = q :: rest := by
      rw [State.modPort_ports, Table.get_modify_self]
      exact queue
    rw [State.answer_of_cons fetched]
    unfold State.modPort
    refine congrArg (fun ports => { s with ports := ports }) ((Table.modify_modify _ _ _ _).trans (Table.modify_congr ?_))
    rfl
  · rw [State.answerLocal_of_head high queue _ (by exact code), State.fetchAnswer, readMaxCount_eq_none bad]
    exact State.answer_of_cons queue _ _ _
  · rw [State.answerLocal_of_head high queue _ (by exact code)]
    exact State.answer_of_cons queue _ _ _
  · rw [State.answerLocal_of_head high queue _ (by exact code), State.statusAnswer]
    cases hb : q.body with
    | nil => exact absurd hb some
    | cons b bs => exact State.answer_of_cons queue _ _ _
  · rw [State.answerLocal_of_head high queue _ (by exact code), State.statusAnswer, none]
    dsimp only
    have body : s.statusBody p = [s.timing.sync.code] ++ be16 s.timing.frameCounter.toNat ++ be16 s.map.freeCount ++
        be16 s.map.barredCount ++ be16 s.map.drainingCount ++
        [BitVec.ofNat 8 s.pool.fifo.length, BitVec.ofNat 8 s.waits.entries.length,
          BitVec.ofNat 8 ((List.finRange 4).countP fun k => decide (s.moves.get k ≠ Option.none))] ++
        be16 s.timing.errorCount ++ be16 (s.ports.get p).ownedSlots ++ [BitVec.ofNat 8 (s.ports.get p).ownedRecords] ++
        be16 (s.ports.get p).promised ++ [BitVec.ofNat 8 (s.ports.get p).dropped] ++ be16 (s.ports.get p).faultCount ++
        [BitVec.ofNat 8 (s.ports.get p).lost, if (s.ports.get p).admin then 1#8 else 0#8] ++
        be16 (s.ports.get p).attrs.slotQuota ++ [BitVec.ofNat 8 (s.ports.get p).attrs.recordQuota,
          if (s.ports.get p).attrs.policy = .retain then 1#8 else 0#8,
          BitVec.ofNat 8 ((if (s.ports.get p).attrs.urgent then 4 else 0) + (if (s.ports.get p).attrs.unleased then 2 else 0) +
            (if (s.ports.get p).attrs.notices then 1 else 0))] := by
      unfold State.statusBody
      dsimp only
      rw [State.contextsInUse_eq, byteOf_bitAt_zero, attrBytes_eq]
      simp only [byteOf, State.freeRecords, List.append_assoc, List.cons_append, List.nil_append]
    rw [State.answer_of_cons queue, body]

/-! ## Claims and the watch report -/

theorem List.filterMap_ite_some {α β : Type} (p : α → Prop) [DecidablePred p] (g : α → β) (l : List α) :
    (l.filterMap fun a => if p a then none else some (g a)) = (l.filter fun a => decide (¬ p a)).map g := by
  induction l with
  | nil => rfl
  | cons a l ih =>
    rw [List.filterMap_cons, List.filter_cons]
    by_cases h : p a <;> simp [h, ih]

/-- The report that a claim hands is the one due between the entries before and after it (R20). -/
theorem SlotMap.report_changes (m : SlotMap) (f : Nat → Slot → Slot) :
    (if (m.changes f).isEmpty then [] else [Report.slots (m.changes f)]) =
      slotReport m.entries.get (m.rewrite f).entries.get := by
  have changes : m.changes f = ((List.finRange 512).filter fun j =>
      decide ((m.entries.get j).state ≠ ((m.rewrite f).entries.get j).state)).map fun j =>
      ⟨j.val, (m.entries.get j).state, ((m.rewrite f).entries.get j).state⟩ := by
    rw [SlotMap.changes_eq]
    simp only [SlotMap.rewrite_entries]
    exact List.filterMap_ite_some _ _ _
  rw [changes, List.isEmpty_map]
  unfold slotReport
  simp only [List.isEmpty_iff]

/-! ## UNBAR -/

theorem SlotMap.entriesOf_countP (r : Run) (m : SlotMap) (P : Slot → Bool) :
    (m.entriesOf r).countP P = (List.finRange 512).countP fun j => r.has j.val && P (m.entries.get j) := by
  have window : ∀ (l : List Slot) (i : Nat), ((l.drop (r.first - i)).take (r.len - (i - r.first))).countP P =
      (mapFrom (fun j e => r.has j && P e) i l).countP id := by
    intro l
    induction l with
    | nil => intro i; simp [mapFrom]
    | cons e l ih =>
      intro i
      rw [mapFrom, List.countP_cons, ← ih (i + 1)]
      by_cases before : i < r.first
      · have no : r.has i = false := by simp [Run.has, before]
        obtain ⟨d, hd⟩ : ∃ d, r.first - i = d + 1 := ⟨r.first - i - 1, by omega⟩
        have tail : r.first - (i + 1) = d := by omega
        rw [hd, tail, List.drop_succ_cons, no, show i - r.first = i + 1 - r.first by omega]
        simp
      · have start : r.first - i = 0 := by omega
        have start' : r.first - (i + 1) = 0 := by omega
        rw [start, start', List.drop_zero, List.drop_zero]
        by_cases inside : i < r.first + r.len
        · obtain ⟨d, hd⟩ : ∃ d, r.len - (i - r.first) = d + 1 := ⟨r.len - (i - r.first) - 1, by omega⟩
          have tail : r.len - (i + 1 - r.first) = d := by omega
          have yes : r.has i = true := by simp [Run.has]; omega
          rw [hd, tail, List.take_succ_cons, List.countP_cons, yes]
          rfl
        · have no : r.has i = false := by simp [Run.has]; omega
          rw [show r.len - (i - r.first) = 0 by omega, show r.len - (i + 1 - r.first) = 0 by omega, no]
          simp
  have start := window m.entries.toList 0
  rw [Nat.sub_zero, Nat.zero_sub, Nat.sub_zero, Table.mapFrom_toList, List.countP_map] at start
  exact start

theorem State.unbarCompletion_map (r : Run) (c : Command) (s : State) :
    (s.unbarCompletion r c).map = s.map.rewrite (unbarSlot r) := State.claim_map none _ s

theorem State.unbarCompletion_engine (r : Run) (c : Command) (s : State) :
    (s.unbarCompletion r c).engine = { s.engine with waitReq := true } := by
  show { (s.claim none (unbarSlot r)).engine with waitReq := true } = _
  rw [State.claim_engine]

theorem State.unbarCompletion_reports (r : Run) (c : Command) (s : State) : (s.unbarCompletion r c).reports =
    { s.reports with watch := s.reports.watch ++ slotReport s.map.entries.get (s.unbarCompletion r c).map.entries.get } := by
  show (s.claim none (unbarSlot r)).reports = _
  rw [State.claim_reports, SlotMap.report_changes, State.unbarCompletion_map]

theorem SlotMap.barCounts_eq (r : Run) (m : SlotMap) : m.barCounts r =
    [BitVec.ofNat 8 ((List.finRange 512).countP fun j => r.has j.val && decide ((m.entries.get j).state = .barred)),
      BitVec.ofNat 8 ((List.finRange 512).countP fun j => r.has j.val && (m.entries.get j).barPending)] := by
  rw [SlotMap.barCounts, SlotMap.entriesOf_countP, SlotMap.entriesOf_countP]
  rfl

/-- Settles O25: the claim frees the run, hands its report and completes no bar. -/
theorem unbarFreesRun : Obligations.UnbarFreesRun := by
  intro p tag r scan s e
  dsimp only
  refine ⟨_, next_congr (State.complete_of_engaged e _ (State.unbarCompletion r) rfl), fun j => ?_,
    State.unbarCompletion_engine r _ _, ?_, State.unbarCompletion_reports r _ _, ?_⟩
  · rw [State.unbarCompletion_map, SlotMap.rewrite_entries]
    refine if_congr Iff.rfl ?_ rfl
    rw [State.setWork_map]
    cases s.map.entries.get j <;> rfl
  · have ports : (((s.setWork .idle).claim none (unbarSlot r)).requestPass).ports = s.ports :=
      State.claim_ports_of_no_bar none _ _ (unbarSlot_no_bar r _)
    unfold State.unbarCompletion
    dsimp only
    rw [State.answer_of_ports _ _ _ ports e.queue, SlotMap.barCounts_eq]
    rfl
  · have frame := State.claim_timing none (unbarSlot r) (s.setWork .idle)
    refine ⟨⟨?_, ?_, frame⟩, ?_, State.claim_pool _ _ _, State.claim_waits _ _ _, State.claim_marks _ _ _,
      State.claim_moves _ _ _, State.claim_units _ _ _, State.claim_params _ _ _,
      (State.claim_resetLow none (unbarSlot r) (s.setWork .idle)).trans e.high⟩ <;>
    rw [State.unbarCompletion_map] <;> rfl

end Sys2Proof.Machine
end

section
/-! PROOFS. RESERVE and the grants of a pass (R20, R29 to R33, R57 to R60, R71 to R73, R77). -/

namespace Sys2Proof.Machine

/-! ## The checks -/

theorem quotaCheck_iff (c : ClientPort) (n : Nat) : quotaCheck c n = true ↔
    c.ownedSlots + c.promised + n ≤ c.attrs.slotQuota ∧ c.ownedRecords + 1 ≤ c.attrs.recordQuota := by
  simp [quotaCheck]

theorem poolCheck_iff (cls : ResClass) (free floor : Nat) : poolCheck cls free floor = true ↔
    free ≠ 0 ∧ (cls = .urgent ∨ floor < free) := by
  simp [poolCheck]

theorem roverMoved_eq (place : Placement) (set : List Run) (p : Nat) : roverMoved place set p =
    match place with
      | .atRuns _ => p
      | _ => roverAfter set p := by
  cases place <;> rfl

/-! ## A grant and its reports -/

section
variable (i : RecIx) (rest : List RecIx) (owner : Port) (cls : ResClass) (set : List Run) (lease : Nat)
  (ticket : Option Byte) (place : Placement) (s : State)

/-- A grant hands the watch report due between the entries before and after it (R20). -/
theorem State.grant_slotReport : (s.grant i rest owner cls set lease ticket place).reports = { s.reports with
    watch := s.reports.watch ++ slotReport s.map.entries.get (s.map.rewrite (grantSlot i set)).entries.get } := by
  rw [State.grant_reports, SlotMap.report_changes]

/-- A grant raises the owner's holdings and touches no port else (R33). -/
theorem State.grant_ports_get (q : Port) : (s.grant i rest owner cls set lease ticket place).ports.get q =
    { s.ports.get q with
      ownedSlots := if owner = q then (s.ports.get q).ownedSlots + setTotal set else (s.ports.get q).ownedSlots
      ownedRecords := if owner = q then (s.ports.get q).ownedRecords + 1 else (s.ports.get q).ownedRecords } := by
  rw [State.grant_ports, Table.get_modify]
  split <;> rfl

end

/-! ## RESERVE -/

section
variable {a : ReserveArgs} {c : Command} {s : State}

theorem State.reserveCompletion_over_quota (h : quotaCheck (s.ports.get c.port) a.search.n = false) :
    s.reserveCompletion a c = s.answer c.port c.tag .quotaExceeded [] := by
  rw [State.reserveCompletion, h]
  rfl

theorem State.reserveCompletion_no_pool (quota : quotaCheck (s.ports.get c.port) a.search.n = true)
    (h : poolCheck a.cls s.freeRecords s.params.poolFloor = false) :
    s.reserveCompletion a c = s.answer c.port c.tag .poolExhausted [] := by
  rw [State.reserveCompletion, quota, h]
  rfl

variable (quota : quotaCheck (s.ports.get c.port) a.search.n = true)
  (pool : poolCheck a.cls s.freeRecords s.params.poolFloor = true)
include quota pool

theorem State.reserveCompletion_no_room (h : s.searchResult c a.search = none) :
    s.reserveCompletion a c = s.reserveNoRoom a c := by
  rw [State.reserveCompletion, quota, pool, h]
  rfl

theorem State.reserveCompletion_granted {set : List Run} {i : RecIx} {rest : List RecIx}
    (h : s.searchResult c a.search = some set) (fifo : s.pool.fifo = i :: rest) :
    s.reserveCompletion a c = s.reserveGrant a c set i rest := by
  rw [State.reserveCompletion, quota, pool, h, fifo]
  rfl

end

theorem WaitList.hasRoom_iff (p : Port) (w : WaitList) : w.hasRoom p = true ↔
    w.entries.length < 24 ∧ w.entries.countP (fun e => e.port = p) < 8 := by
  rw [WaitList.hasRoom, Bool.and_eq_true, decide_eq_true_iff, decide_eq_true_iff]
  rfl

/-- The ticket issued next is free, and every ticket before it in turn is held (R71). -/
theorem WaitList.nextTicket_spec {w : WaitList} (few : w.entries.length < 24) :
    (∀ e ∈ w.entries, e.ticket ≠ w.nextTicket) ∧
      ∀ u : Byte, (u - (w.lastTicket + 1#8)).toNat < (w.nextTicket - (w.lastTicket + 1#8)).toNat →
        ∃ e ∈ w.entries, e.ticket = u := by
  refine ⟨fun e he ticket => w.nextTicket_free (by omega) (ticket ▸ List.mem_map_of_mem he), fun u hu => ?_⟩
  obtain ⟨-, d, hd, next, held⟩ := freeTicket_spec (w.entries.map WaitEntry.ticket) w.entries.length (w.lastTicket + 1#8)
  have distance : (w.nextTicket - (w.lastTicket + 1#8)).toNat = d := by
    rw [WaitList.nextTicket, next]
    bv_omega
  have between := held (u - (w.lastTicket + 1#8)).toNat (by omega)
  have back : w.lastTicket + 1#8 + BitVec.ofNat 8 (u - (w.lastTicket + 1#8)).toNat = u := by bv_omega
  rw [back] at between
  exact List.mem_map.mp between

section
variable (a : ReserveArgs) (c : Command) (set : List Run) (i : RecIx) (rest : List RecIx) (s : State)

/-- What a granted RESERVE leaves of the pool: the record allocated, the flag judged (R29, R31, R32). -/
theorem State.reserveGrant_pool (few : rest.length < 192) : (s.reserveGrant a c set i rest).pool =
    { records := s.pool.records.set i ⟨(s.pool.records.get i).gen, some (s.granted c.port a.cls set a.lease none)⟩
      fifo := rest
      warnArmed := s.pool.warnArmed && !(s.pool.warnArmed && decide (rest.length ≤ s.params.poolLow)) ||
        (!s.pool.warnArmed && decide (min 192 (s.params.poolLow + 4) ≤ rest.length)) } := by
  rw [State.reserveGrant, State.grantReports_pool _ _ (by simpa [State.freeRecords] using few)]
  simp [State.warningDue, State.recoveryDue, State.recoveryLevel, Config.recoveryStep, State.freeRecords]

theorem State.reserveGrant_map : (s.reserveGrant a c set i rest).map = s.map.rewrite (grantSlot i set) := by
  simp [State.reserveGrant]

theorem State.reserveGrant_engine : (s.reserveGrant a c set i rest).engine =
    { s.engine with rover := roverMoved a.search.place set s.engine.rover } := by
  simp [State.reserveGrant]

theorem State.reserveGrant_reports : (s.reserveGrant a c set i rest).reports = { s.reports with
    watch := s.reports.watch ++ slotReport s.map.entries.get (s.map.rewrite (grantSlot i set)).entries.get ++
      [.record (handleOf i (s.pool.records.get i).gen) (some .pending)] } := by
  rw [State.reserveGrant, State.grantReports_reports, State.answer_reports, State.grant_slotReport]
  simp

theorem State.reserveGrant_ports_get (q : Port) : (s.reserveGrant a c set i rest).ports.get q =
    { (if c.port = q then (s.ports.get q).answer c.tag .ok (grantBody (handleOf i (s.pool.records.get i).gen) a.cls a.lease
        s.now set) else s.ports.get q) with
      ownedSlots := if c.port = q then (s.ports.get q).ownedSlots + setTotal set else (s.ports.get q).ownedSlots
      ownedRecords := if c.port = q then (s.ports.get q).ownedRecords + 1 else (s.ports.get q).ownedRecords
      events := ((s.reserveGrant a c set i rest).ports.get q).events
      lost := ((s.reserveGrant a c set i rest).ports.get q).lost } := by
  unfold State.reserveGrant
  dsimp only
  rw [State.grantReports_others, State.answer_ports_get, State.grant_ports_get]
  split
  · unfold ClientPort.answer
    dsimp only
    split <;> rfl
  · rfl

theorem State.reserveGrant_port_self (queue : (s.ports.get c.port).queue ≠ []) :
    (s.reserveGrant a c set i rest).ports.get c.port = { s.ports.get c.port with
      queue := (s.ports.get c.port).queue.tail
      stored := (s.ports.get c.port).stored ++ [⟨c.tag, .ok,
        grantBody (handleOf i (s.pool.records.get i).gen) a.cls a.lease s.now set, true⟩]
      ownedSlots := (s.ports.get c.port).ownedSlots + setTotal set
      ownedRecords := (s.ports.get c.port).ownedRecords + 1
      events := ((s.reserveGrant a c set i rest).ports.get c.port).events
      lost := ((s.reserveGrant a c set i rest).ports.get c.port).lost } := by
  rw [State.reserveGrant_ports_get, if_pos rfl, if_pos rfl, if_pos rfl, ClientPort.answer_of_ne _ _ _ queue]

theorem State.reserveGrant_port_other {q : Port} (other : q ≠ c.port) :
    (s.reserveGrant a c set i rest).ports.get q = { s.ports.get q with
      events := ((s.reserveGrant a c set i rest).ports.get q).events
      lost := ((s.reserveGrant a c set i rest).ports.get q).lost } := by
  rw [State.reserveGrant_ports_get, if_neg (Ne.symm other), if_neg (Ne.symm other), if_neg (Ne.symm other)]

theorem State.reserveGrant_eventsBy (few : rest.length < 192) : s.EventsBy (fun q =>
    eventIf ((s.ports.get q).attrs.notices && (s.pool.warnArmed && decide (rest.length ≤ s.params.poolLow))) s.now
        (.poolLow rest.length) ++
      eventIf ((s.ports.get q).attrs.notices &&
        (!s.pool.warnArmed && decide (min 192 (s.params.poolLow + 4) ≤ rest.length))) s.now (.poolRecovered rest.length))
    (s.reserveGrant a c set i rest) := by
  let g := s.grant i rest c.port a.cls set a.lease none a.search.place
  have granted (q : Port) : (g.ports.get q).events = (s.ports.get q).events ∧ (g.ports.get q).lost = (s.ports.get q).lost := by
    rw [State.grant_ports_get]
    exact ⟨rfl, rfl⟩
  have answered := (State.EventsBy.of_same granted).trans (State.answer_eventsBy c.port c.tag .ok
    (grantBody (handleOf i (s.pool.records.get i).gen) a.cls a.lease s.now set) g)
  refine (answered.trans (State.grantReports_eventsBy i _ (by simpa [g, State.freeRecords] using few))).congr fun q => ?_
  have attrs : ((g.answer c.port c.tag .ok (grantBody (handleOf i (s.pool.records.get i).gen) a.cls a.lease s.now
      set)).ports.get q).attrs = (s.ports.get q).attrs := by
    rw [State.answer_ports_get, State.grant_ports_get]
    split
    · rw [ClientPort.answer_eq]
    · rfl
  rw [attrs]
  simp [g, State.warningDue, State.recoveryDue, State.recoveryLevel, Config.recoveryStep, State.freeRecords, State.now]

end

/-- Settles O17: the completion is the grant, and each field is read off it. -/
theorem reserveGranted : Obligations.ReserveGranted := by
  intro p tag a scan s i rest set e slots records cls fifo few found
  dsimp only
  let c : Command := ⟨p, tag, .reserve a, false, scan⟩
  let u := s.setWork .idle
  have some_free : s.freeRecords ≠ 0 := by rw [State.freeRecords, fifo]; exact Nat.succ_ne_zero _
  have completion : u.reserveCompletion a c = u.reserveGrant a c set i rest :=
    State.reserveCompletion_granted (c := c) (s := u) ((quotaCheck_iff _ _).mpr ⟨slots, records⟩)
      ((poolCheck_iff _ _ _).mpr ⟨some_free, cls⟩) found fifo
  have own := State.reserveGrant_port_self a c set i rest u e.queue
  have map := State.reserveGrant_map a c set i rest u
  have pool := State.reserveGrant_pool a c set i rest u few
  refine ⟨u.reserveGrant a c set i rest,
    next_congr ((State.complete_of_engaged e _ (State.reserveCompletion a) rfl).trans completion),
    (congrArg RecordPool.records pool :), (congrArg RecordPool.fifo pool :), fun j => ?_, ⟨?_, ?_, ?_⟩, ?_,
    ⟨(congrArg ClientPort.queue own :), (congrArg ClientPort.stored own :)⟩, (congrArg ClientPort.ownedSlots own :),
    (congrArg ClientPort.ownedRecords own :), (congrArg ClientPort.promised own :), ?_,
    fun q hq => State.reserveGrant_port_other a c set i rest u hq, (congrArg RecordPool.warnArmed pool :),
    State.reserveGrant_eventsBy a c set i rest u few, ?_, ?_⟩
  · rw [map, SlotMap.rewrite_entries]
    rfl
  · rw [map]
    rfl
  · rw [map]
    rfl
  · simp [State.reserveGrant, u]
  · rw [State.reserveGrant_engine, roverMoved_eq]
    rfl
  · exact ⟨(congrArg ClientPort.inFlight own :), (congrArg ClientPort.faultCount own :), (congrArg ClientPort.lastFaulted own :),
      (congrArg ClientPort.dropped own :), (congrArg ClientPort.attrs own :), (congrArg ClientPort.admin own :), (congrArg ClientPort.link own :)⟩
  · rw [State.reserveGrant_reports]
    unfold State.slotReportTo
    rw [map]
    rfl
  · rw [map]
    simp [State.reserveGrant, u, e.high]

/-- Settles O18: the checks in their order, and the entry that a RESERVE without room makes. -/
theorem reserveRefusedOrQueued : Obligations.ReserveRefusedOrQueued := by
  refine ⟨fun p tag a scan s e => ?_, fun p tag a scan s limit e slots records some_free cls noRoom wait few fewOwn => ?_⟩
  · let c : Command := ⟨p, tag, .reserve a, false, scan⟩
    let u := s.setWork .idle
    have quota := quotaCheck_iff (u.ports.get c.port) a.search.n
    have pool := poolCheck_iff a.cls u.freeRecords u.params.poolFloor
    have room := WaitList.hasRoom_iff p s.waits
    refine ⟨fun beyond => congrArg _ (State.complete_eq_answered e rfl ?_),
      fun within empty => congrArg _ (State.complete_eq_answered e rfl ?_),
      fun within free none noWait => congrArg _ (State.complete_eq_answered e rfl ?_),
      fun limit within free none wait full => congrArg _ (State.complete_eq_answered e rfl ?_)⟩
    · exact State.reserveCompletion_over_quota (c := c) (s := u) (Bool.eq_false_iff.mpr (quota.not.mpr beyond))
    · exact State.reserveCompletion_no_pool (c := c) (s := u) (quota.mpr within) (Bool.eq_false_iff.mpr (pool.not.mpr empty))
    · rw [State.reserveCompletion_no_room (c := c) (s := u) (quota.mpr within) (pool.mpr free) none, State.reserveNoRoom, noWait]
    · rw [State.reserveCompletion_no_room (c := c) (s := u) (quota.mpr within) (pool.mpr free) none, State.reserveNoRoom, wait]
      refine if_neg (room.not.mpr ?_)
      omega
  · obtain ⟨free, between⟩ := WaitList.nextTicket_spec few
    refine ⟨s.waits.nextTicket, free, between, next_congr ?_⟩
    let c : Command := ⟨p, tag, .reserve a, false, scan⟩
    let u := s.setWork .idle
    rw [State.complete_of_engaged e _ (State.reserveCompletion a) rfl,
      State.reserveCompletion_no_room (c := c) (s := u) ((quotaCheck_iff _ _).mpr ⟨slots, records⟩)
        ((poolCheck_iff _ _ _).mpr ⟨some_free, cls⟩) noRoom, State.reserveNoRoom, wait]
    refine Eq.trans (if_pos ((WaitList.hasRoom_iff p s.waits).mpr ⟨few, fewOwn⟩)) ?_
    have ports : (s.ports.modify p fun d => { d with promised := d.promised + a.search.n }).modify p
        (ClientPort.answer tag .queued (s.waits.nextTicket :: be16 limit)) = s.ports.modify p fun d => { d with
          promised := d.promised + a.search.n
          queue := d.queue.tail
          stored := d.stored ++ [⟨tag, .queued, s.waits.nextTicket :: be16 limit, true⟩] } := by
      rw [Table.modify_modify]
      refine Table.modify_congr ?_
      rw [ClientPort.answer_of_ne _ _ _ (by exact e.queue)]
    exact congrArg (fun ports => { s with
      engine := { s.engine with work := .idle }
      waits := ⟨s.waits.entries ++ [waitEntryOf a p s.waits.nextTicket limit], s.waits.nextTicket⟩
      ports := ports }) ports

end Sys2Proof.Machine
end

section
/-! PROOFS. The passes of the Wait List: the grants of a pass and its trials (R52, R68, R74 to R78, R81). -/

namespace Sys2Proof.Machine

/-! ## A grant of a pass -/

section
variable (e : WaitEntry) (set : List Run) (i : RecIx) (rest : List RecIx) (s : State)

theorem State.grantEntry_pool (few : rest.length < 192) : (s.grantEntry e set i rest).pool =
    { records := s.pool.records.set i ⟨(s.pool.records.get i).gen, some (s.granted e.port e.cls set e.lease (some e.ticket))⟩
      fifo := rest
      warnArmed := s.pool.warnArmed && !(s.pool.warnArmed && decide (rest.length ≤ s.params.poolLow)) ||
        (!s.pool.warnArmed && decide (min 192 (s.params.poolLow + 4) ≤ rest.length)) } := by
  rw [State.grantEntry, State.grantReports_pool _ _ (by simpa [State.freeRecords] using few)]
  simp [State.warningDue, State.recoveryDue, State.recoveryLevel, Config.recoveryStep, State.freeRecords]

theorem State.grantEntry_map : (s.grantEntry e set i rest).map = s.map.rewrite (grantSlot i set) := by
  simp [State.grantEntry]

theorem State.grantEntry_engine : (s.grantEntry e set i rest).engine =
    { s.engine with waitReq := true, rover := roverMoved e.search.place set s.engine.rover } := by
  simp [State.grantEntry]

theorem State.grantEntry_waits : (s.grantEntry e set i rest).waits =
    { s.waits with entries := s.waits.entries.filter fun x => x.ticket ≠ e.ticket } := by
  simp [State.grantEntry]

theorem State.grantEntry_reports : (s.grantEntry e set i rest).reports = { s.reports with
    watch := s.reports.watch ++ slotReport s.map.entries.get (s.map.rewrite (grantSlot i set)).entries.get ++
      [.record (handleOf i (s.pool.records.get i).gen) (some .pending)] } := by
  rw [State.grantEntry, State.grantReports_reports, State.post_reports, State.removeEntry_reports, State.grant_slotReport]
  simp

/-- The three parts of the state that a grant of a pass writes in its port: the holdings, the promise and the events (R33). -/
theorem State.grantEntry_ports_get (q : Port) : (s.grantEntry e set i rest).ports.get q =
    { s.ports.get q with
      ownedSlots := if e.port = q then (s.ports.get q).ownedSlots + setTotal set else (s.ports.get q).ownedSlots
      ownedRecords := if e.port = q then (s.ports.get q).ownedRecords + 1 else (s.ports.get q).ownedRecords
      promised := if e.port = q then (s.ports.get q).promised - e.search.n else (s.ports.get q).promised
      events := ((s.grantEntry e set i rest).ports.get q).events
      lost := ((s.grantEntry e set i rest).ports.get q).lost } := by
  unfold State.grantEntry
  dsimp only
  rw [State.grantReports_others, State.post_others, State.removeEntry_ports, Table.get_modify, State.grant_ports_get]
  split <;> rfl

theorem State.grantEntry_eventsBy (few : rest.length < 192) : s.EventsBy (fun q =>
    eventIf (decide (q = e.port)) s.now (.granted e.ticket (handleOf i (s.pool.records.get i).gen) set) ++
      eventIf ((s.ports.get q).attrs.notices && (s.pool.warnArmed && decide (rest.length ≤ s.params.poolLow))) s.now
        (.poolLow rest.length) ++
      eventIf ((s.ports.get q).attrs.notices &&
        (!s.pool.warnArmed && decide (min 192 (s.params.poolLow + 4) ≤ rest.length))) s.now (.poolRecovered rest.length))
    (s.grantEntry e set i rest) := by
  let g := s.grant i rest e.port e.cls set e.lease (some e.ticket) e.search.place
  let told := (g.removeEntry e).post none s.now (.granted e.ticket (handleOf i (s.pool.records.get i).gen) set) e.port
  have granted (q : Port) : (g.ports.get q).events = (s.ports.get q).events ∧ (g.ports.get q).lost = (s.ports.get q).lost := by
    rw [State.grant_ports_get]
    exact ⟨rfl, rfl⟩
  have posted := ((State.EventsBy.of_same granted).trans (State.removeEntry_eventsBy e g)).trans
    (State.post_eventsBy none s.now (.granted e.ticket (handleOf i (s.pool.records.get i).gen) set) e.port _)
  have room : told.freeRecords < 192 := by simpa [told, g, State.freeRecords] using few
  refine (posted.trans (State.grantReports_eventsBy i told room)).congr fun q => ?_
  have attrs : (told.ports.get q).attrs = (s.ports.get q).attrs := by
    rw [State.post_others, State.removeEntry_ports, Table.get_modify, State.grant_ports_get]
    split <;> rfl
  rw [attrs]
  simp [told, g, State.warningDue, State.recoveryDue, State.recoveryLevel, Config.recoveryStep, State.freeRecords, State.now,
    eq_comm (a := q) (b := e.port)]

end

/-! ## The completion of a pass -/

theorem exec_waitPassCompletion_of_pass {s : State} (high : s.resetLow = false) {p : Pass} (h : s.engine.work = .pass p) :
    exec .waitPassCompletion s = .next (s.completePass p) := by
  refine next_congr ?_
  rw [high, h]
  rfl

/-- With nothing left to try the trials of the pass are granted in turn (R77). -/
theorem State.completePass_of_trials (trials : List Trial) (rover : Nat) (s : State) :
    s.completePass ⟨[], none, trials, rover⟩ = trials.foldl State.grantTrial (s.setWork .idle) := rfl

theorem State.grantTrial_granted {s : State} {x : Trial} {e : WaitEntry} {i : RecIx} {rest : List RecIx}
    (found : s.waits.find x.ticket = some e) (quota : quotaCheck (s.ports.get e.port) 0 = true)
    (pool : poolCheck e.cls s.freeRecords s.params.poolFloor = true) (fifo : s.pool.fifo = i :: rest) :
    s.grantTrial x = s.grantEntry e x.set i rest := by
  rw [State.grantTrial, found]
  dsimp only
  rw [quota, pool, fifo]
  rfl

/-- Settles O28: the completion is the grant of the one trial, and each field is read off it. -/
theorem passGrantsTrial : Obligations.PassGrantsTrial := by
  intro s ticket set rover e i rest high work found slots records cls fifo few
  dsimp only
  let u := s.setWork .idle
  have some_free : s.freeRecords ≠ 0 := by rw [State.freeRecords, fifo]; exact Nat.succ_ne_zero _
  have named : e.ticket = ticket := by simpa using List.find?_some found
  subst named
  have completed : s.completePass ⟨[], none, [⟨e.ticket, set⟩], rover⟩ = u.grantEntry e set i rest :=
    State.grantTrial_granted (s := u) (x := ⟨e.ticket, set⟩) found ((quotaCheck_iff _ _).mpr ⟨slots, records⟩)
      ((poolCheck_iff _ _ _).mpr ⟨some_free, cls⟩) fifo
  have own := State.grantEntry_ports_get e set i rest u e.port
  rw [if_pos rfl, if_pos rfl, if_pos rfl] at own
  have map := State.grantEntry_map e set i rest u
  have pool := State.grantEntry_pool e set i rest u few
  refine ⟨u.grantEntry e set i rest, (exec_waitPassCompletion_of_pass high work).trans (next_congr completed),
    (congrArg RecordPool.records pool :), (congrArg RecordPool.fifo pool :), fun j => ?_, ⟨?_, ?_, ?_⟩, ?_,
    State.grantEntry_waits e set i rest u, (congrArg ClientPort.ownedSlots own :),
    (congrArg ClientPort.ownedRecords own :), (congrArg ClientPort.promised own :), fun q other => ?_,
    State.grantEntry_eventsBy e set i rest u few, ?_, (congrArg RecordPool.warnArmed pool :), ?_⟩
  · rw [map, SlotMap.rewrite_entries]
    rfl
  · rw [map]
    rfl
  · rw [map]
    rfl
  · simp [State.grantEntry, u]
  · rw [State.grantEntry_engine, roverMoved_eq]
    rfl
  · have unchanged := State.grantEntry_ports_get e set i rest u q
    rwa [if_neg (Ne.symm other), if_neg (Ne.symm other), if_neg (Ne.symm other)] at unchanged
  · rw [State.grantEntry_reports]
    unfold State.slotReportTo
    rw [map]
    rfl
  · rw [map]
    simp [State.grantEntry, u, high]

end Sys2Proof.Machine
end

section
/-! PROOFS. The trials of a pass (R52, R68, R74 to R78, R81). -/

namespace Sys2Proof.Machine

/-! ## The trials of a pass -/

/-- The outcome of the trial in hand is the next trial, or none (R68). -/
theorem State.endTrial_inHand (ticket : Byte) (sc : Scan) (todo : List Byte) (trials : List Trial) (rover : Nat) (s : State) :
    s.endTrial ⟨todo, some (ticket, sc), trials, rover⟩ =
      match sc.finish (fun j => s.map.isFree j && trials.all fun x => !inSet x.set j) with
      | none => ⟨todo, none, trials, rover⟩
      | some set => ⟨todo, none, trials ++ [⟨ticket, set⟩], match sc.args.place with
        | .atRuns _ => rover
        | _ => roverAfter set rover⟩ := by
  unfold State.endTrial
  dsimp only
  rw [State.trialFree_eq]
  split
  · next h => rw [h]
  · next set h =>
    rw [h]
    exact congrArg (Pass.mk todo none (trials ++ [⟨ticket, set⟩])) (roverMoved_eq sc.args.place set rover)

theorem State.endTrial_of_no_hand {s : State} {p : Pass} (h : p.inHand = none) : s.endTrial p = p := by
  unfold State.endTrial
  rw [h]

theorem State.endTrial_no_hand (s : State) (p : Pass) : (s.endTrial p).inHand = none := by
  unfold State.endTrial
  split
  · assumption
  · split <;> rfl

theorem State.endTrial_with_todo (todo : List Byte) (p : Pass) (s : State) :
    s.endTrial { p with todo := todo } = { s.endTrial p with todo := todo } := by
  obtain ⟨-, hand, trials, rover⟩ := p
  cases hand with
  | none => rfl
  | some hand =>
    rw [State.endTrial_inHand hand.1 hand.2, State.endTrial_inHand hand.1 hand.2]
    cases hand.2.finish (fun j => s.map.isFree j && trials.all fun x => !inSet x.set j) <;> rfl

theorem State.endTrial_todo (p : Pass) (s : State) : (s.endTrial p).todo = p.todo :=
  (congrArg Pass.todo (s.endTrial_with_todo p.todo p) :)

theorem State.beginTrial_with_todo (ticket : Byte) (todo : List Byte) (p : Pass) (s : State) :
    s.beginTrial ticket { p with todo := todo } = { s.beginTrial ticket p with todo := todo } := by
  unfold State.beginTrial State.trialAllowed
  cases s.waits.find ticket with
  | none => rfl
  | some e =>
    dsimp only
    split <;> rfl

theorem State.tryAll_with_todo (todo tickets : List Byte) (p : Pass) (s : State) :
    s.tryAll tickets { p with todo := todo } = { s.tryAll tickets p with todo := todo } := by
  induction tickets generalizing p with
  | nil => rfl
  | cons t rest ih =>
    rw [State.tryAll, State.beginTrial_with_todo, State.endTrial_with_todo, ih]
    rfl

/-- A pass finishes as it does with its trial in hand ended first. -/
theorem State.finishTrials_endTrial (p : Pass) (s : State) : s.finishTrials (s.endTrial p) = s.finishTrials p := by
  unfold State.finishTrials
  rw [State.endTrial_of_no_hand (s.endTrial_no_hand p)]

/-- A pass without a trial in hand finishes as it does with its next trial begun (R68). -/
theorem State.finishTrials_beginTrial (ticket : Byte) (todo : List Byte) (trials : List Trial) (rover : Nat) (s : State) :
    s.finishTrials ⟨ticket :: todo, none, trials, rover⟩ =
      s.finishTrials (s.beginTrial ticket ⟨todo, none, trials, rover⟩) := by
  let p : Pass := ⟨todo, none, trials, rover⟩
  have begun : (s.endTrial (s.beginTrial ticket p)).todo = todo := by
    rw [State.endTrial_todo]
    exact congrArg Pass.todo (s.beginTrial_with_todo ticket todo p)
  have first : s.tryAll (ticket :: todo) { p with todo := ticket :: todo } =
      { s.tryAll todo (s.endTrial (s.beginTrial ticket p)) with todo := ticket :: todo } :=
    s.tryAll_with_todo (ticket :: todo) (ticket :: todo) p
  unfold State.finishTrials
  rw [State.endTrial_of_no_hand (p := ⟨ticket :: todo, none, trials, rover⟩) rfl]
  dsimp only
  rw [begun, first]

section
variable (s : State) {ticket : Byte} {p : Pass}

theorem State.beginTrial_of_left (h : s.waits.find ticket = none) : s.beginTrial ticket p = p := by
  unfold State.beginTrial
  rw [h]

variable {e : WaitEntry} (found : s.waits.find ticket = some e)
include found

theorem State.beginTrial_of_allowed (h : s.trialAllowed e p = true) :
    s.beginTrial ticket p = { p with inHand := some (ticket, ⟨e.search, p.rover, []⟩) } := by
  unfold State.beginTrial
  rw [found]
  exact if_pos h

theorem State.beginTrial_of_refused (h : ¬ s.trialAllowed e p = true) : s.beginTrial ticket p = p := by
  unfold State.beginTrial
  rw [found]
  exact if_neg h

end

theorem State.trialAllowed_iff (e : WaitEntry) (p : Pass) (s : State) : s.trialAllowed e p = true ↔
    (s.ports.get e.port).ownedSlots + (s.ports.get e.port).promised ≤ (s.ports.get e.port).attrs.slotQuota ∧
      (s.ports.get e.port).ownedRecords + 1 ≤ (s.ports.get e.port).attrs.recordQuota ∧
      s.pool.fifo.length - p.trials.length ≠ 0 ∧
      (e.cls = .urgent ∨ s.params.poolFloor < s.pool.fifo.length - p.trials.length) := by
  rw [State.trialAllowed, Bool.and_eq_true, quotaCheck_iff, poolCheck_iff, and_assoc]
  rfl

/-! ## A trial and the engine's work -/

theorem State.setWork_self {s : State} {w : Work} (h : s.engine.work = w) : s.setWork w = s := by
  subst h
  rfl

/-- The trials of a pass do not read the engine's work. -/
theorem State.tryAll_setWork (w : Work) (s : State) (tickets : List Byte) (p : Pass) :
    (s.setWork w).tryAll tickets p = s.tryAll tickets p := by
  induction tickets generalizing p with
  | nil => rfl
  | cons t rest ih => exact ih _

theorem State.completePass_setWork (w : Work) (s : State) (p : Pass) : (s.setWork w).completePass p = s.completePass p := by
  unfold State.completePass State.finishTrials
  dsimp only
  rw [State.tryAll_setWork]
  rfl

theorem State.completePass_congr {p q : Pass} {s : State} (h : s.finishTrials p = s.finishTrials q) :
    s.completePass p = s.completePass q := by
  unfold State.completePass
  rw [h]

theorem exec_waitPassCompletion_setWork {s : State} (high : s.resetLow = false) (p : Pass) :
    exec .waitPassCompletion (s.setWork (.pass p)) = .next (s.completePass p) :=
  (exec_waitPassCompletion_of_pass (s := s.setWork (.pass p)) high rfl).trans (next_congr (s.completePass_setWork _ p))

/-- A grant of a pass leaves the reset input and the engine's work alone. -/
theorem State.grantTrial_outside (s : State) (x : Trial) :
    (s.grantTrial x).resetLow = s.resetLow ∧ (s.grantTrial x).engine.work = s.engine.work := by
  unfold State.grantTrial
  split
  · exact ⟨rfl, rfl⟩
  · split
    · split
      · exact ⟨rfl, rfl⟩
      · simp [State.grantEntry]
    · exact ⟨rfl, rfl⟩

theorem State.grantTrial_dropped {s : State} {x : Trial}
    (h : ∀ e, s.waits.find x.ticket = some e →
      ¬ (quotaCheck (s.ports.get e.port) 0 = true ∧ poolCheck e.cls s.freeRecords s.params.poolFloor = true)) :
    s.grantTrial x = s := by
  unfold State.grantTrial
  cases found : s.waits.find x.ticket with
  | none => rfl
  | some e =>
    exact if_neg (by rw [Bool.and_eq_true]; exact h e found)

/-! ## A step of a pass on an empty queue -/

theorem step_of_pass {s : State} (h : s.pending = []) (p : Pass) :
    step (s.setWork (.pass p)) = .next (s.setWork (.pass (s.advancePass p))) := step_of_nil (s := s.setWork _) h

theorem State.advancePass_reads {s : State} {todo : List Byte} {ticket : Byte} {sc : Scan} {trials : List Trial} {rover i : Nat}
    (h : sc.order[sc.seen.length]? = some i) :
    s.advancePass ⟨todo, some (ticket, sc), trials, rover⟩ = ⟨todo, some (ticket, { sc with
      seen := sc.seen ++ [s.map.isFree i && trials.all fun x => !inSet x.set i] }), trials, rover⟩ := by
  have short : sc.seen.length < sc.order.length := (List.getElem?_eq_some_iff.mp h).1
  have unfinished : sc.done = false := by simpa [Scan.done] using short
  unfold State.advancePass
  dsimp only
  rw [unfinished, Scan.readNext_of_next _ h, State.trialFree_eq]
  rfl

theorem State.advancePass_ends {s : State} {todo : List Byte} {ticket : Byte} {sc : Scan} {trials : List Trial} {rover : Nat}
    (h : sc.order.length ≤ sc.seen.length) :
    s.advancePass ⟨todo, some (ticket, sc), trials, rover⟩ = s.endTrial ⟨todo, some (ticket, sc), trials, rover⟩ := by
  have finished : sc.done = true := by simpa [Scan.done] using h
  unfold State.advancePass
  dsimp only
  rw [finished]
  rfl

/-- Settles O29: the completion depends on how the trials finish, and these finish one at a time. -/
theorem passMakesTrials : Obligations.PassMakesTrials := by
  intro s todo trials rover high
  have allowed (e : WaitEntry) (todo : List Byte) := State.trialAllowed_iff e ⟨todo, none, trials, rover⟩ s
  have same {p q : Pass} (h : s.finishTrials p = s.finishTrials q) :
      exec .waitPassCompletion (s.setWork (.pass p)) = exec .waitPassCompletion (s.setWork (.pass q)) := by
    rw [exec_waitPassCompletion_setWork high, exec_waitPassCompletion_setWork high, State.completePass_congr h]
  have ended (ticket : Byte) (sc : Scan) := State.endTrial_inHand ticket sc todo trials rover s
  refine ⟨fun ticket left => same ?_, fun ticket e found => ⟨fun unfit => same ?_, fun fit => same ?_⟩,
    fun ticket sc => same ?_, fun x head => ?_, fun ticket set work checks => ?_, ?_, fun empty => ⟨?_, ?_, ?_, ?_⟩⟩
  · rw [State.finishTrials_beginTrial, State.beginTrial_of_left s left]
  · rw [State.finishTrials_beginTrial, State.beginTrial_of_refused s found (mt (allowed e todo).mp unfit)]
  · rw [State.finishTrials_beginTrial, State.beginTrial_of_allowed s found ((allowed e todo).mpr fit)]
    exact (s.finishTrials_endTrial _).symm.trans (congrArg (fun p => s.finishTrials p) (ended ticket _))
  · exact (s.finishTrials_endTrial _).symm.trans (congrArg (fun p => s.finishTrials p) (ended ticket sc))
  · cases trials with
    | nil => cases head
    | cons y rest =>
      cases head
      let u := (s.setWork .idle).grantTrial x
      obtain ⟨reset, work⟩ := State.grantTrial_outside (s.setWork .idle) x
      refine ⟨u, exec_waitPassCompletion_setWork high ⟨[], none, [x], rover⟩, ?_⟩
      refine (exec_waitPassCompletion_setWork high ⟨[], none, x :: rest, rover⟩).trans
        (Eq.trans ?_ (exec_waitPassCompletion_setWork (s := u) (reset.trans high) ⟨[], none, rest, rover⟩).symm)
      refine next_congr ?_
      rw [State.completePass_of_trials, State.completePass_of_trials, State.setWork_self (s := u) (w := .idle) work]
      rfl
  · refine (exec_waitPassCompletion_of_pass high work).trans (next_congr ?_)
    refine State.grantTrial_dropped (s := s.setWork .idle) (x := ⟨ticket, set⟩) ?_
    rintro e found ⟨quota, pool⟩
    have quota := (quotaCheck_iff (s.ports.get e.port) 0).mp quota
    have pool := (poolCheck_iff e.cls s.pool.fifo.length s.params.poolFloor).mp pool
    have listed := checks e (List.mem_of_find?_eq_some found) (by simpa using List.find?_some found)
    dsimp only at listed
    rcases listed with slots | records | none | ⟨cls, floor⟩
    · omega
    · omega
    · exact pool.1 none
    · exact pool.2.elim cls (by omega)
  · exact exec_waitPassCompletion_setWork high ⟨[], none, [], rover⟩
  · intro ticket sc i next
    exact (step_of_pass empty _).trans (next_congr (congrArg (fun p => s.setWork (.pass p)) (State.advancePass_reads next)))
  · intro ticket sc finished
    exact (step_of_pass empty _).trans (next_congr (congrArg (fun p => s.setWork (.pass p))
      ((State.advancePass_ends finished).trans (ended ticket sc))))
  · intro ticket e found fit
    exact (step_of_pass empty _).trans (next_congr (congrArg (fun p => s.setWork (.pass p))
      (State.beginTrial_of_allowed s found ((allowed e todo).mpr fit))))
  · intro ticket unfit
    refine (step_of_pass empty _).trans (next_congr (congrArg (fun p => s.setWork (.pass p)) ?_))
    change s.beginTrial ticket ⟨todo, none, trials, rover⟩ = _
    cases found : s.waits.find ticket with
    | none => exact State.beginTrial_of_left s found
    | some e => exact State.beginTrial_of_refused s found (mt (allowed e todo).mp (unfit e found))

end Sys2Proof.Machine
end

section
/-! PROOFS. RELEASE and FORCE_RELEASE run the release procedure (R8, R20, R36 to R39, R118, R178). -/

namespace Sys2Proof.Machine

theorem State.reservation_of_names {h : Handle} {i : RecIx} {a : Reservation} {s : State} (n : s.Names h i a) :
    s.reservation i = some a := n.2.1

section
variable {i : RecIx} {a : Reservation} (cause : Cause) (releasing : Option Port) {s : State} (used : s.reservation i = some a)
include used

/-- The tables after the release procedure (R8, R36). -/
theorem State.releaseRecord_released : s.Released i a (s.releaseRecord i cause releasing) := by
  have map := State.releaseRecord_map cause releasing used
  have pool := State.releaseRecord_pool cause releasing used
  refine ⟨fun j => ?_, (congrArg RecordPool.records pool :), (congrArg RecordPool.fifo pool :),
    State.releaseRecord_moves cause releasing used, (congrArg Engine.waitReq (State.releaseRecord_engine cause releasing used) :),
    ⟨(congrArg SlotMap.image map :), (congrArg SlotMap.imageMark map :), State.releaseRecord_timing _ _ _ _⟩,
    (congrArg SlotMap.carry map :), State.releaseRecord_waits _ _ _ _, State.releaseRecord_marks _ _ _ _,
    State.releaseRecord_units _ _ _ _, State.releaseRecord_params _ _ _ _⟩
  rw [map, SlotMap.rewrite_entries, State.releaseClaim]

/-- The reports of the release procedure: the slots whose state changed, and the record freed (R20). -/
theorem State.releaseRecord_slotReport : (s.releaseRecord i cause releasing).reports = { s.reports with
    watch := s.reports.watch ++ s.slotReportTo (s.releaseRecord i cause releasing) ++
      [.record (handleOf i (s.pool.records.get i).gen) none] } := by
  rw [State.releaseRecord_reports cause releasing used, SlotMap.report_changes, State.slotReportTo,
    State.releaseRecord_map cause releasing used]

/-- A port after the release procedure and the response to the command that ran it. -/
theorem State.releaseAnswer_ports_get {p : Port} (tag : Byte) (body : List Byte) (queue : (s.ports.get p).queue ≠ []) (q : Port) :
    ((s.releaseRecord i cause releasing).answer p tag .ok body).ports.get q = { s.ports.get q with
      queue := if q = p then (s.ports.get q).queue.tail else (s.ports.get q).queue
      stored := if q = p then (s.ports.get q).stored ++ [⟨tag, .ok, body, true⟩] else (s.ports.get q).stored
      events := (((s.releaseRecord i cause releasing).answer p tag .ok body).ports.get q).events
      lost := (((s.releaseRecord i cause releasing).answer p tag .ok body).ports.get q).lost
      ownedSlots := if q = a.owner then (s.ports.get q).ownedSlots - setTotal a.set else (s.ports.get q).ownedSlots
      ownedRecords := if q = a.owner then (s.ports.get q).ownedRecords - 1 else (s.ports.get q).ownedRecords } := by
  have released := State.releaseRecord_others q cause releasing used
  simp only [eq_comm (a := a.owner)] at released
  have same_queue : ((s.releaseRecord i cause releasing).ports.get q).queue = (s.ports.get q).queue := by rw [released]
  by_cases own : p = q
  · subst own
    rw [State.answer_ports_get, if_pos rfl, ClientPort.answer_of_ne _ _ _ (same_queue ▸ queue), released, if_pos rfl, if_pos rfl]
  · rw [State.answer_ports_get, if_neg own, if_neg (Ne.symm own), if_neg (Ne.symm own)]
    exact released

end

/-- A PENDING set that the give-up claim found LIVE has a LIVE slot, and no target (R37). -/
theorem State.foundLive_eq (a : Reservation) (s : State) : s.foundLive a =
    (decide (a.state = .pending) && (List.finRange 512).any fun j =>
      inSet a.set j.val && decide ((s.map.entries.get j).state = .live)) := by
  by_cases pending : a.state = .pending
  · have target : s.targetOf a = [] := by
      rw [State.targetOf, State.contextOf_of_not_moving s (by simp [pending])]
    rw [State.foundLive, State.releaseDrained, State.releaseClaim, target, List.append_nil, giveUpSlot_drained, Bool.eq_iff_iff]
    simp [List.countP_eq_zero]
  · rw [State.foundLive, decide_eq_false pending, Bool.false_and, Bool.false_and]

theorem State.releaseCompletion_of_own {h : Handle} {i : RecIx} {a : Reservation} {s : State} (c : Command)
    (names : s.Names h i a) (own : a.owner = c.port) : s.releaseCompletion h c =
      (s.releaseRecord i .release (some c.port)).answer c.port c.tag .ok (s.releaseBody a) := by
  rw [State.releaseCompletion, State.lookup_of_names names]
  exact if_pos own

theorem State.forceCompletion_of_names {h : Handle} {i : RecIx} {a : Reservation} {s : State} (c : Command)
    (names : s.Names h i a) : s.forceCompletion h c =
      (s.releaseRecord i .force (some c.port)).answer c.port c.tag .ok (s.releaseBody a) := by
  rw [State.forceCompletion, State.lookup_of_names names]

/-- The cause of the release that RELEASE runs, and of the one that FORCE_RELEASE runs (R39, R178). -/
def releaseCause (force : Bool) : Cause := if force then .force else .release

theorem muteOf_releaseCause (force : Bool) (releasing : Option Port) : muteOf (releaseCause force) releasing = none := by
  cases force <;> rfl

/-- The events of a release by a command, in the terms of R37: nobody is mute, and the releasing port is told nothing of its own. -/
theorem State.releaseEvents_of_command {h : Handle} {i : RecIx} {a : Reservation} {s : State} (names : s.Names h i a)
    (force : Bool) (p q : Port) : s.releaseEvents i a (releaseCause force) (some p) q =
      eventIf ((s.ports.get q).attrs.notices && !(heldBarred s.map.entries.get (a.set ++ s.targetOf a)).isEmpty) s.now
          (.barDone (heldBarred s.map.entries.get (a.set ++ s.targetOf a)).length
            (barDoneSet (heldBarred s.map.entries.get (a.set ++ s.targetOf a)))) ++
        eventIf (s.foundLive a && decide (q = a.owner)) s.now (.live h a.set) ++
        (match s.contextOf a with
          | some (_, c) => eventIf (decide (c.requesterPort = some q) && decide (q ≠ p)) s.now
              (.moveAbandoned h c.tagField c.target .released)
          | none => []) ++
        eventIf (force && decide (q = a.owner) && decide (q ≠ p)) s.now (.releasedByAdmin h a.set) ++
        eventIf ((s.ports.get q).attrs.notices && s.recoveryAfterFreeing) s.now (.poolRecovered (s.freeRecords + 1)) := by
  have cause : causeEvents (releaseCause force) (some p) s.now h a q =
      eventIf (force && decide (q = a.owner) && decide (q ≠ p)) s.now (.releasedByAdmin h a.set) := by
    cases force with
    | false => rfl
    | true =>
      by_cases owner : q = a.owner
      · subst owner
        simp [causeEvents, releaseCause, eq_comm]
      · simp [causeEvents, releaseCause, owner, Ne.symm owner]
  have abandoned : releasedEvents (some p) s.now h (s.contextOf a) q = match s.contextOf a with
      | some (_, c) => eventIf (decide (c.requesterPort = some q) && decide (q ≠ p)) s.now
          (.moveAbandoned h c.tagField c.target .released)
      | none => [] := by
    unfold releasedEvents
    cases s.contextOf a with
    | none => rfl
    | some x => simp [eq_comm]
  unfold State.releaseEvents
  dsimp only
  rw [names.handleOf_eq, cause, abandoned, muteOf_releaseCause, State.releaseClaim, giveUpSlot_bars]
  simp [heldBarred, eq_comm]

/-- Settles O21: both commands complete by the release procedure and the response to it. -/
theorem releaseFreesRecord : Obligations.ReleaseFreesRecord := by
  intro force p tag h i a scan s names allowed engaged
  dsimp only
  let u := s.setWork .idle
  have idle : u.Names h i a := names.setWork .idle
  have used := State.reservation_of_names idle
  let r := u.releaseRecord i (releaseCause force) (some p)
  let t := r.answer p tag .ok (u.releaseBody a)
  have queue : (u.ports.get p).queue ≠ [] := by cases force <;> exact engaged.queue
  have high : u.resetLow = false := by cases force <;> exact engaged.high
  have run : exec (if force then .forceRelease else .release) s = .next t := by
    cases force with
    | false =>
      have own : a.owner = p := by simpa using allowed
      exact next_congr ((State.complete_of_engaged engaged _ (State.releaseCompletion h) rfl).trans
        (State.releaseCompletion_of_own ⟨p, tag, .release h, false, scan⟩ idle own))
    | true =>
      exact next_congr ((State.complete_of_engaged engaged _ (State.forceCompletion h) rfl).trans
        (State.forceCompletion_of_names ⟨p, tag, .forceRelease h, false, scan⟩ idle))
  have released := State.releaseRecord_released (releaseCause force) (some p) used
  have ports := State.releaseAnswer_ports_get (releaseCause force) (some p) used tag (u.releaseBody a) queue
  have own := ports p
  have owner := ports a.owner
  rw [if_pos rfl, if_pos rfl] at own owner
  have drained : u.releaseBody a = be16 ((List.finRange 512).countP fun j =>
      inSet (a.set ++ s.targetOf a) j.val && decide ((s.map.entries.get j).state = .live)) ++
      setBytes a.set ++ setBytes (s.targetOf a) := by
    rw [State.releaseBody, State.releaseDrained, State.releaseClaim, giveUpSlot_drained]
    rfl
  refine ⟨t, run, released, State.releaseRecord_engine _ _ used, ?_, ?_, ?_, ?_, ?_, ?_, ?_, ?_⟩
  · rw [← drained]
    exact ⟨(congrArg ClientPort.queue own :), (congrArg ClientPort.stored own :)⟩
  · exact ⟨(congrArg ClientPort.ownedSlots owner :), (congrArg ClientPort.ownedRecords owner :)⟩
  · intro q
    have port := ports q
    have stored : (t.ports.get q).stored = _ := (congrArg ClientPort.stored port :)
    by_cases owner : q = a.owner
    · rw [if_pos owner, if_pos owner] at port ⊢
      rw [stored]
      exact port.trans (by
        rw [(congrArg ClientPort.ownedSlots port : (t.ports.get q).ownedSlots = _),
          (congrArg ClientPort.ownedRecords port : (t.ports.get q).ownedRecords = _)] <;> rfl)
    · rw [if_neg owner, if_neg owner] at port ⊢
      rw [stored]
      exact port
  · intro q other
    exact (congrArg ClientPort.stored (ports q) :).trans (if_neg other)
  · simp [t, r, high]
  · have reports := State.releaseRecord_slotReport (releaseCause force) (some p) used
    rw [idle.handleOf_eq] at reports
    rw [State.slotReportTo, State.answer_map]
    exact reports
  · exact (congrArg RecordPool.warnArmed (State.releaseRecord_pool (releaseCause force) (some p) used) :)
  · refine ((State.releaseRecord_eventsBy (releaseCause force) (some p) used).trans
      (State.answer_eventsBy p tag .ok (u.releaseBody a) r)).congr fun q => ?_
    rw [List.append_nil, State.releaseEvents_of_command idle, State.foundLive_eq]
    rfl

end Sys2Proof.Machine
end

section
/-! PROOFS. RELOCATE granted, and the owner's answer to the offer (R6 to R8, R35, R107 to R111, R117). -/

namespace Sys2Proof.Machine

/-- A claim that completes no bar and frees no slot rewrites the entries and hands the watch report of them (R20). -/
theorem State.claim_of_silent (mute : Option Port) {f : Nat → Slot → Slot} {s : State}
    (bars : completedBars (s.map.changes f) = []) (free : (s.map.changes f).any (fun c => decide (c.after = .free)) = false) :
    s.claim mute f = { s with
      map := s.map.rewrite f
      reports := { s.reports with
        watch := s.reports.watch ++ slotReport s.map.entries.get (s.map.rewrite f).entries.get } } := by
  rw [← SlotMap.report_changes]
  unfold State.claim State.reportChanges
  dsimp only
  rw [bars, free]
  cases s.map.changes f with
  | nil => simp
  | cons _ _ => rfl

theorem State.claim_target (mute : Option Port) (i : RecIx) (set : List Run) (armed : Bool) (s : State) :
    s.claim mute (targetSlot i set armed) = { s with
      map := s.map.rewrite (targetSlot i set armed)
      reports := { s.reports with
        watch := s.reports.watch ++ slotReport s.map.entries.get (s.map.rewrite (targetSlot i set armed)).entries.get } } :=
  State.claim_of_silent mute (targetSlot_no_bar _ _ _ _) (targetSlot_no_free _ _ _ _)

/-- The offer of a move to another port's record, and nothing for an own one (R109). -/
def State.makeOffer (owned : Bool) (owner : Port) (body : EventBody) (s : State) : State :=
  if owned then s else s.post none s.now body owner

theorem State.makeOffer_eq (owned : Bool) (owner : Port) (body : EventBody) (s : State) :
    s.makeOffer owned owner body = { s with ports := (s.makeOffer owned owner body).ports } := by
  unfold State.makeOffer
  split
  · rfl
  · unfold State.post
    split <;> rfl

theorem State.makeOffer_others (owned : Bool) (owner : Port) (body : EventBody) (q : Port) (s : State) :
    (s.makeOffer owned owner body).ports.get q = { s.ports.get q with
      events := ((s.makeOffer owned owner body).ports.get q).events
      lost := ((s.makeOffer owned owner body).ports.get q).lost } := by
  unfold State.makeOffer
  split
  · rfl
  · exact State.post_others none _ _ _ _ _

theorem State.makeOffer_eventsBy (owned : Bool) (owner : Port) (body : EventBody) (s : State) :
    s.EventsBy (fun q => eventIf (decide (q = owner) && !owned) s.now body) (s.makeOffer owned owner body) := by
  unfold State.makeOffer
  cases owned with
  | true => exact (State.EventsBy.refl s).congr fun q => by simp
  | false => exact (State.post_eventsBy none s.now body owner s).congr fun q => by simp [eq_comm]

section
variable (q : RelocateArgs) (c : Command) (k : CtxIx) (i : RecIx) (a : Reservation) (set : List Run) (s : State)

/-- The tables of a granted RELOCATE, before anyone is told of it (R108). -/
def State.relocated : State :=
  { s with
    moves := s.moves.set k (some ⟨i, q.handle.gen, some (c.port, c.tag), s.firstStage (decide (a.owner = c.port)), set⟩)
    map := s.map.rewrite (targetSlot i set (decide (a.owner = c.port)))
    pool := { s.pool with records := s.pool.records.modify i fun r =>
      { r with alloc := r.alloc.map fun b => { b with state := .moving, context := some k } } }
    engine := { s.engine with rover := roverMoved q.place set s.engine.rover }
    reports := { s.reports with
      watch := s.reports.watch ++
        slotReport s.map.entries.get (s.map.rewrite (targetSlot i set (decide (a.owner = c.port)))).entries.get } }

/-- A granted RELOCATE writes the tables, makes the offer, answers and hands the record report (R20, R108, R109). -/
theorem State.relocateGrant_eq : s.relocateGrant q c k i a set =
    (State.answer c.port c.tag .ok (s.relocateBody k (decide (a.owner = c.port)) set)
      ((s.relocated q c k i a set).makeOffer (decide (a.owner = c.port)) a.owner
        (.moveOffer q.handle c.tag set s.deadline))).handReport (.record q.handle (some .moving)) := by
  unfold State.relocateGrant
  dsimp only
  rw [State.claim_target]
  rfl

end

theorem State.relocateBody_eq (k : CtxIx) (owned : Bool) (set : List Run) (s : State) : s.relocateBody k owned set =
    [BitVec.ofNat 8 k.val, if owned then 1#8 else 0#8] ++
      be16 (if owned then 0 else (s.timing.frameCounter + BitVec.ofNat 16 s.params.confirmWindow).toNat) ++ setBytes set := by
  cases owned <;> rfl

/-- Settles O31: the completion is the grant of the move, and each field is read off it. -/
theorem relocateGranted : Obligations.RelocateGranted := by
  intro p tag q scan s i a k set e names may live free lowest found
  dsimp only
  let c : Command := ⟨p, tag, .relocate q, false, scan⟩
  let u := s.setWork .idle
  let own := decide (a.owner = p)
  have idle : u.Names q.handle i a := names.setWork .idle
  let told := (u.relocated q c k i a set).makeOffer own a.owner (.moveOffer q.handle tag set u.deadline)
  let t := (told.answer p tag .ok (u.relocateBody k own set)).handReport (.record q.handle (some .moving))
  have run : exec .relocate s = .next t := by
    refine next_congr ((State.complete_of_engaged e _ (State.relocateCompletion q) rfl).trans ?_)
    have context : u.freeContext = some k := State.freeContext_eq_some free lowest
    have may' : u.mayMove p a = true := (State.mayMove_iff p a u).mpr may
    rw [State.relocateCompletion_of_names (s := u) c idle rfl, may', live, context,
      show u.searchResult c (q.search (setTotal a.set)) = some set from found]
    exact State.relocateGrant_eq q c k i a set u
  have offered := State.makeOffer_eq own a.owner (.moveOffer q.handle tag set u.deadline) (u.relocated q c k i a set)
  have others (o : Port) := State.makeOffer_others own a.owner (.moveOffer q.handle tag set u.deadline) o (u.relocated q c k i a set)
  obtain ⟨-, alloc, gen⟩ := names
  have records : s.pool.records.modify i (fun r =>
      { r with alloc := r.alloc.map fun b => { b with state := .moving, context := some k } }) =
      s.pool.records.set i ⟨q.handle.gen, some { a with state := .moving, context := some k }⟩ := by
    rw [Table.modify_eq_set, alloc, gen]
    rfl
  have pool : t.pool = { s.pool with records := s.pool.records.set i ⟨q.handle.gen, some { a with state := .moving, context := some k }⟩ } := by
    rw [← records]
    exact (congrArg State.pool offered :)
  have map : t.map = s.map.rewrite (targetSlot i set own) := (congrArg State.map offered :)
  refine ⟨t, run, (congrArg State.moves offered :), pool, fun j => ?_, ⟨?_, ?_, ?_⟩, ?_, ?_, ?_, ?_, ?_, ?_, ?_, ?_, ?_, ?_, ?_⟩
  · rw [map, SlotMap.rewrite_entries]
    rfl
  · rw [map]
    rfl
  · rw [map]
    rfl
  · exact (congrArg State.timing offered :)
  · exact (congrArg State.engine offered :).trans
      (congrArg (fun rover => { s.engine with work := .idle, rover := rover }) (roverMoved_eq q.place set s.engine.rover))
  · rw [← State.relocateBody_eq]
    exact State.answer_hasAnswer (s := s) p tag .ok (u.relocateBody k own set) e.queue (congrArg ClientPort.queue (others p) :)
      (congrArg ClientPort.stored (others p) :)
  · refine ((State.makeOffer_eventsBy own a.owner (.moveOffer q.handle tag set u.deadline) (u.relocated q c k i a set)).trans
      (State.answer_eventsBy p tag .ok (u.relocateBody k own set) told)).congr fun o => ?_
    rw [List.append_nil]
    rfl
  · intro o
    have answered : t.ports.get o = if p = o then _ else _ := State.answer_ports_get p tag .ok (u.relocateBody k own set) o told
    have rest : t.ports.get o = { told.ports.get o with
        queue := (t.ports.get o).queue, stored := (t.ports.get o).stored } := by
      rw [answered]
      split
      · rw [ClientPort.answer_eq]
      · rfl
    rw [rest, others o]
    exact ⟨rfl, rfl, rfl, rfl, rfl, rfl, rfl, rfl, rfl, rfl⟩
  · rw [State.slotReportTo, map]
    exact (congrArg (fun x : State => { x.reports with watch := x.reports.watch ++ [Report.record q.handle (some .moving)] }) offered :)
  · exact (congrArg State.waits offered :)
  · exact (congrArg State.marks offered :)
  · exact (congrArg State.units offered :)
  · exact (congrArg State.params offered :)
  · rw [map]
    rfl
  · exact (congrArg State.resetLow offered :).trans e.high

end Sys2Proof.Machine
end

section
/-! PROOFS. The owner's answer to an offered move, and what ends a move at a mark (R7, R8, R10, R35, R110 to R117). -/

namespace Sys2Proof.Machine

/-! ## The arm claim -/

/-- An arm claim writes the entries alone: no slot state changes (R7). -/
theorem State.claim_arm (mute : Option Port) (set : List Run) (s : State) :
    s.claim mute (armSlot set) = { s with map := { s.map with entries := s.map.entries.map (armSlot set) } } := by
  unfold State.claim State.reportChanges SlotMap.rewrite
  rw [armSlot_no_change]
  rfl

theorem armSlot_eq (set : List Run) (j : Nat) (e : Slot) : armSlot set j e = match e with
    | .held x role armed b => .held x role (armed || inSet set j) b
    | e => e := by
  unfold armSlot
  cases h : inSet set j <;> cases e <;> simp

theorem State.confirmCompletion_of_offer {h : Handle} {k : CtxIx} {m : MoveContext} {c : Command} {s : State}
    (e : s.ownOffer h c.port = .ok (k, m)) : s.confirmCompletion h c = State.answer c.port c.tag .ok (offerBody k m)
      ((s.setMove k (some { m with stage := .armed })).claim none (armSlot m.target)) := by
  rw [State.confirmCompletion, e]

theorem State.declineCompletion_of_offer {h : Handle} {k : CtxIx} {m : MoveContext} {c : Command} {s : State}
    (e : s.ownOffer h c.port = .ok (k, m)) : s.declineCompletion h c =
      State.answer c.port c.tag .ok (offerBody k m) (s.abandonMove k .declined s.now none) := by
  rw [State.declineCompletion, e]

/-! ## The abandonment of an offered move -/

section
variable {k : CtxIx} {c : MoveContext} {a : Reservation} (reason : Reason) (stamp : Word) {s : State}
  (used : s.moves.get k = some c)
include used

theorem State.abandonMove_entriesBy (mute : Option Port) :
    s.EntriesBy (giveUpSlot s.params.guard c.target) (s.abandonMove k reason stamp mute) := fun j => by
  rw [State.abandonMove_map reason stamp mute used, SlotMap.rewrite_entries]

theorem State.abandonMove_sameFrame (mute : Option Port) : s.SameFrame (s.abandonMove k reason stamp mute) := by
  have map := State.abandonMove_map reason stamp mute used
  exact ⟨(congrArg SlotMap.image map :), (congrArg SlotMap.imageMark map :), State.abandonMove_timing _ _ _ _ _⟩

/-- The pass is requested where the claim frees a slot (R19). -/
theorem State.abandonMove_waitReq (mute : Option Port) : (s.abandonMove k reason stamp mute).engine =
    { s.engine with waitReq := s.engine.waitReq || heldFreed s.map.entries.get c.target } := by
  rw [State.abandonMove_engine reason stamp mute used, giveUpSlot_free, heldFreed]

/-- The slots whose state changed, and the record LIVE again (R20). -/
theorem State.abandonMove_slotReport (mute : Option Port) : (s.abandonMove k reason stamp mute).reports = { s.reports with
    watch := s.reports.watch ++ s.slotReportTo (s.abandonMove k reason stamp mute) ++
      [.record (handleOf c.index c.gen) (some .live)] } := by
  rw [State.abandonMove_reports reason stamp mute used, SlotMap.report_changes, State.slotReportTo,
    State.abandonMove_map reason stamp mute used]

variable (record : s.pool.records.get c.index = ⟨c.gen, some a⟩)
include record

/-- The record is LIVE with its current set, and holds no context (R35). -/
theorem State.abandonMove_record (mute : Option Port) : (s.abandonMove k reason stamp mute).pool = { s.pool with
    records := s.pool.records.set c.index ⟨c.gen, some { a with state := .live, context := none }⟩ } := by
  rw [State.abandonMove_pool reason stamp mute used, Table.modify_eq_set, record]
  rfl

/-- An abandonment nobody is mute for tells the owner and another requester, after the bars it completed (R12, R117). -/
theorem State.abandonMove_tells (both : abandonRecipients reason (some a.owner) c = ownerThenRequester (some a.owner) c) :
    s.EventsBy (fun q =>
      eventIf ((s.ports.get q).attrs.notices && !(heldBarred s.map.entries.get c.target).isEmpty) s.timing.frameCounter
          (.barDone (heldBarred s.map.entries.get c.target).length (barDoneSet (heldBarred s.map.entries.get c.target))) ++
        eventIf (decide (q = a.owner) || decide (c.requesterPort = some q)) stamp
          (.moveAbandoned (handleOf c.index c.gen) c.tagField c.target reason))
      (s.abandonMove k reason stamp none) := by
  have owner : s.ownerOf c.index = some a.owner := by
    rw [State.ownerOf, State.reservation, record]
    rfl
  refine (State.abandonMove_eventsBy reason stamp none used).congr fun q => ?_
  rw [owner, both, giveUpSlot_bars]
  simp [mem_ownerThenRequester, heldBarred, State.now, eq_comm]

end

/-- Settles O33: CONFIRM_MOVE is the arm claim, DECLINE_MOVE the abandonment, and both answer with the offer's body. -/
theorem ownerAnswersOffer : Obligations.OwnerAnswersOffer := by
  refine ⟨fun p tag h scan s i a names own => ⟨fun k c n moving context get offered e => ?_, fun no => ⟨fun e => ?_, fun e => ?_⟩⟩,
    fun p tag h scan s i a k c n names own moving context get index gen offered e => ?_⟩
  · have offer := State.ownOffer_of_offer (names.setWork .idle) own moving context (s := s.setWork .idle) get offered
    let u := (s.setWork .idle).setMove k (some { c with stage := .armed })
    refine ⟨{ s.answered p tag .ok (offerBody k c) with
      map := { s.map with entries := s.map.entries.map (armSlot c.target) }, moves := u.moves }, next_congr ?_, rfl, fun j => ?_, rfl, rfl⟩
    · refine (State.complete_of_engaged e _ (State.confirmCompletion h) rfl).trans ?_
      rw [State.confirmCompletion_of_offer (c := ⟨p, tag, .confirmMove h, false, scan⟩) offer, State.claim_arm]
      exact State.answer_of_ports (s := s) _ _ _ rfl e.queue
    · rw [Table.get_map]
      exact armSlot_eq c.target j.val (s.map.entries.get j)
  · exact congrArg _ (State.complete_eq_answered e rfl
      (State.confirmCompletion_of_error (State.ownOffer_of_no_offer (names.setWork .idle) own no)))
  · exact congrArg _ (State.complete_eq_answered e rfl
      (State.declineCompletion_of_error (State.ownOffer_of_no_offer (names.setWork .idle) own no)))
  · have offer := State.ownOffer_of_offer (names.setWork .idle) own moving context (s := s.setWork .idle) get offered
    let u := s.setWork .idle
    let r := u.abandonMove k .declined u.now none
    have used : u.moves.get k = some c := get
    obtain ⟨-, alloc, named⟩ := id names
    have handle : handleOf c.index c.gen = h := by
      rw [index, gen, ← named]
      exact names.handleOf_eq
    have record : u.pool.records.get c.index = ⟨c.gen, some a⟩ := by
      rw [index, gen, ← named, ← alloc]
      rfl
    have others := State.abandonMove_others k .declined u.now none (s := u)
    have tells := State.abandonMove_tells .declined u.now used record rfl
    have pool := State.abandonMove_record .declined u.now used record none
    have reports := State.abandonMove_slotReport .declined u.now used none
    rw [index, gen] at pool
    rw [handle] at tells reports
    have port (o : Port) : (r.answer p tag .ok (offerBody k c)).ports.get o = if p = o then _ else _ :=
      State.answer_ports_get p tag .ok (offerBody k c) o r
    refine ⟨r.answer p tag .ok (offerBody k c), next_congr ?_, State.abandonMove_moves .declined u.now none used, pool,
      State.abandonMove_entriesBy .declined u.now used none, State.abandonMove_sameFrame .declined u.now used none,
      State.answer_hasAnswer (s := s) p tag .ok (offerBody k c) e.queue (congrArg ClientPort.queue (others p) :)
        (congrArg ClientPort.stored (others p) :), fun o other => ?_, ?_, ?_,
      State.abandonMove_waitReq .declined u.now used none, reports, State.abandonMove_waits _ _ _ _ _,
      State.abandonMove_marks _ _ _ _ _, State.abandonMove_units _ _ _ _ _, State.abandonMove_params _ _ _ _ _,
      (congrArg SlotMap.carry (State.abandonMove_map .declined u.now none used) :),
      (State.abandonMove_resetLow _ _ _ _ _).trans e.high⟩
    · refine (State.complete_of_engaged e _ (State.declineCompletion h) rfl).trans ?_
      exact State.declineCompletion_of_offer (c := ⟨p, tag, .declineMove h, false, scan⟩) offer
    · rw [port, if_neg (Ne.symm other)]
      exact others o
    · rw [port, if_pos rfl, ClientPort.answer_eq, others p]
      exact ⟨rfl, rfl, rfl, rfl, rfl, rfl, rfl⟩
    · refine (tells.trans (State.answer_eventsBy p tag .ok (offerBody k c) r)).congr fun q => ?_
      rw [List.append_nil, own]
      rfl

end Sys2Proof.Machine
end

section
/-! PROOFS. The Move Unit's reaction to a frame mark (R10, R20, R35, R112, R113, R116). -/

namespace Sys2Proof.Machine

/-! ## The cutover claim -/

theorem cutoverSlot_eq (guard : Nat) (old new : List Run) (j : Nat) (e : Slot) : cutoverSlot guard old new j e = match e with
    | .live i role b => if inSet old j then .draining guard b
      else if inSet new j then .live i .current b else .live i role b
    | e => e := by
  cases e <;> rfl

theorem SlotMap.addCarry_carry (e : CarryEntry) (m : SlotMap) :
    (m.addCarry e).carry = m.carry ++ (if m.imageMark = some e.mark then [] else [e]) := by
  unfold SlotMap.addCarry
  split <;> simp

/-- The tables of a cutover, before anyone is told of it (R10, R35). -/
def State.cutOver (k : CtxIx) (c : MoveContext) (m : Word) (a : Reservation) (s : State) : State :=
  { s with
    map := (s.map.addCarry ⟨m, a.owner, a.set⟩).rewrite (cutoverSlot s.params.guard a.set c.target)
    pool := { s.pool with records := s.pool.records.modify c.index fun r =>
      { r with alloc := r.alloc.map fun b => { b with state := .live, context := none, set := c.target } } }
    moves := s.moves.set k none
    reports := { s.reports with
      watch := s.reports.watch ++ slotReport s.map.entries.get
        ((s.map.addCarry ⟨m, a.owner, a.set⟩).rewrite (cutoverSlot s.params.guard a.set c.target)).entries.get } }

theorem State.cutoverMove_eq {k : CtxIx} {c : MoveContext} {m : Word} {a : Reservation} {s : State}
    (h : s.reservation c.index = some a) : s.cutoverMove k c m =
      (State.postEach none m (.moveDone (handleOf c.index c.gen) c.tagField c.target) (ownerThenRequester (some a.owner) c)
        (s.cutOver k c m a)).handReport (.record (handleOf c.index c.gen) (some .live)) := by
  have entries := SlotMap.addCarry_entries ⟨m, a.owner, a.set⟩ s.map
  unfold State.cutoverMove State.cutOver
  rw [h]
  dsimp only
  rw [State.claim_of_silent none (cutoverSlot_no_bar _ _ _ _) (cutoverSlot_no_free _ _ _ _), ← entries]
  rfl

/-! ## One context -/

/-- The stage after mark `m`, or none where the mark ends the move (R112, R113, R116). -/
def Stage.afterMark (m : Word) : Stage → Option Stage
  | .offered n => if n ≤ 1 then none else some (.offered (n - 1))
  | .armed => some .armed
  | .overlap n o => if o = m then some (.overlap n o) else if n ≤ 1 then none else some (.overlap (n - 1) o)

/-- The context after mark `m`. -/
def MoveContext.afterMark (m : Word) (c : MoveContext) : Option MoveContext :=
  (c.stage.afterMark m).map fun st => { c with stage := st }

theorem Table.set_of_get {α : Type} {n : Nat} {t : Table α n} {i : Fin n} {x : α} (h : t.get i = x) : t.set i x = t := by
  ext j
  rw [Table.get_set]
  split
  · next e => rw [← e, h]
  · rfl

section
variable {m : Word} {k : CtxIx} {c : MoveContext} {s : State}

theorem State.countContext_of_free (h : s.moves.get k = none) : s.countContext m k = s := by
  unfold State.countContext
  rw [h]

theorem State.countContext_of_timeout {n : Nat} (h : s.moves.get k = some c) (offered : c.stage = .offered n) (last : n ≤ 1) :
    s.countContext m k = s.abandonMove k .timeout m none := by
  unfold State.countContext
  rw [h]
  dsimp only
  rw [offered]
  exact if_pos last

theorem State.countContext_of_cutover {n : Nat} {o : Word} (h : s.moves.get k = some c) (overlap : c.stage = .overlap n o)
    (started : o ≠ m) (last : n ≤ 1) : s.countContext m k = s.cutoverMove k c m := by
  unfold State.countContext
  rw [h]
  dsimp only
  rw [overlap]
  exact (if_neg started).trans (if_pos last)

/-- A context whose stage does not change. -/
theorem State.setMove_same (h : s.moves.get k = some c) : s.setMove k (some { c with stage := c.stage }) = s := by
  unfold State.setMove
  rw [Table.set_of_get h]

/-- What the mark does at a context in use: a stage where the move goes on, else its end. -/
theorem State.countContext_cases (m : Word) (h : s.moves.get k = some c) :
    (∃ st, c.stage.afterMark m = some st ∧ s.countContext m k = s.setMove k (some { c with stage := st })) ∨
      c.stage.afterMark m = none ∧
        (s.countContext m k = s.abandonMove k .timeout m none ∨ s.countContext m k = s.cutoverMove k c m) := by
  cases stage : c.stage with
  | offered n =>
    by_cases last : n ≤ 1
    · exact .inr ⟨if_pos last, .inl (State.countContext_of_timeout h stage last)⟩
    · refine .inl ⟨_, if_neg last, ?_⟩
      simp only [State.countContext, h, stage, if_neg last]
  | armed =>
    refine .inl ⟨_, rfl, ?_⟩
    rw [← stage, State.setMove_same h]
    simp only [State.countContext, h, stage]
  | overlap n o =>
    by_cases started : o = m
    · refine .inl ⟨_, if_pos started, ?_⟩
      rw [← stage, State.setMove_same h]
      simp only [State.countContext, h, stage, if_pos started]
    · by_cases last : n ≤ 1
      · exact .inr ⟨(if_neg started).trans (if_pos last), .inr (State.countContext_of_cutover h stage started last)⟩
      · refine .inl ⟨_, (if_neg started).trans (if_neg last), ?_⟩
        simp only [State.countContext, h, stage, if_neg started, if_neg last]

end

theorem State.cutoverMove_frees (k : CtxIx) (c : MoveContext) (m : Word) (s : State) :
    (s.cutoverMove k c m).moves = s.moves.set k none := by
  cases used : s.reservation c.index with
  | none => rw [State.cutoverMove_of_none used]; rfl
  | some a => exact State.cutoverMove_moves used

theorem State.countContext_moves (m : Word) (k : CtxIx) (s : State) :
    (s.countContext m k).moves = s.moves.set k ((s.moves.get k).bind (MoveContext.afterMark m)) := by
  cases h : s.moves.get k with
  | none => rw [State.countContext_of_free h]; exact (Table.set_of_get h).symm
  | some c =>
    rcases State.countContext_cases m h with ⟨st, stays, e⟩ | ⟨ends, e | e⟩
    · rw [e, Option.bind_some, MoveContext.afterMark, stays]
      rfl
    · rw [e, Option.bind_some, MoveContext.afterMark, ends]
      exact State.abandonMove_moves .timeout m none h
    · rw [e, Option.bind_some, MoveContext.afterMark, ends]
      exact State.cutoverMove_frees k c m s

/-- The contexts after those of a list have counted, each once. -/
theorem State.foldl_countContext_moves (m : Word) (l : List CtxIx) (nodup : l.Nodup) (s : State) (k : CtxIx) :
    (l.foldl (State.countContext m) s).moves.get k =
      if k ∈ l then (s.moves.get k).bind (MoveContext.afterMark m) else s.moves.get k := by
  induction l generalizing s with
  | nil => simp
  | cons j l ih =>
    obtain ⟨fresh, nodup⟩ := List.nodup_cons.mp nodup
    rw [List.foldl_cons, ih nodup, State.countContext_moves]
    by_cases e : k = j
    · subst e
      simp [fresh, Table.get_set_self]
    · rw [Table.get_set_ne _ _ (Ne.symm e)]
      simp [e]

theorem State.moveReaction_moves (m : Word) (s : State) (k : CtxIx) :
    (s.moveReaction m).moves.get k = (s.moves.get k).bind (MoveContext.afterMark m) := by
  rw [State.moveReaction, State.foldl_countContext_moves m allContexts (List.nodup_finRange 4)]
  exact if_pos (List.mem_finRange k)

theorem State.foldl_countContext_of_free (m : Word) (l : List CtxIx) {s : State} (h : ∀ k ∈ l, s.moves.get k = none) :
    l.foldl (State.countContext m) s = s := by
  induction l with
  | nil => rfl
  | cons k l ih =>
    rw [List.foldl_cons, State.countContext_of_free (h k List.mem_cons_self)]
    exact ih fun j hj => h j (List.mem_cons_of_mem k hj)

/-- With one context in use the reaction is what the mark does at it. -/
theorem State.moveReaction_of_only (m : Word) {k : CtxIx} {s : State} (only : ∀ j, j ≠ k → s.moves.get j = none) :
    s.moveReaction m = s.countContext m k := by
  obtain ⟨before, after, split⟩ := List.append_of_mem (List.mem_finRange k)
  have nodup := List.nodup_finRange 4
  rw [split, List.nodup_middle, List.nodup_cons, List.mem_append, not_or] at nodup
  obtain ⟨⟨notBefore, notAfter⟩, -⟩ := nodup
  have none_before : before.foldl (State.countContext m) s = s :=
    State.foldl_countContext_of_free m before fun j hj => only j fun e => notBefore (e ▸ hj)
  rw [State.moveReaction, allContexts, split, List.foldl_append, none_before, List.foldl_cons]
  refine State.foldl_countContext_of_free m after fun j hj => ?_
  have other : j ≠ k := fun e => notAfter (e ▸ hj)
  rw [State.countContext_moves, Table.get_set_ne _ _ (Ne.symm other)]
  exact only j other

/-! ## The mark taken -/

section
variable {m : Word} {rest : List Word} {s : State} (high : s.resetLow = false) (locked : s.timing.sync = .locked)
  (marks : s.marks.move = m :: rest)
include high locked marks

theorem State.moveTakeMark_taken : s.moveTakeMark = State.moveReaction m { s with marks := { s.marks with move := rest } } :=
  State.moveTakeMark_of_cons ((State.takesMarks_iff s).mpr ⟨high, locked⟩) marks

theorem exec_confirmTimeout_of_last {k : CtxIx} {c : MoveContext} {n : Nat} (used : s.moves.get k = some c)
    (offered : c.stage = .offered n) (last : n ≤ 1) : exec (.confirmTimeout k) s =
      .next (State.moveReaction m { s with marks := { s.marks with move := rest } }) := by
  have near : s.offerNearEnd k = true := by simp [State.offerNearEnd, used, offered, last]
  refine next_congr ?_
  rw [if_pos near, State.moveTakeMark_taken high locked marks]

theorem exec_cutover_of_last {k : CtxIx} {c : MoveContext} {n : Nat} {o : Word} (used : s.moves.get k = some c)
    (overlap : c.stage = .overlap n o) (started : o ≠ m) (last : n ≤ 1) : exec (.cutover k) s =
      .next (State.moveReaction m { s with marks := { s.marks with move := rest } }) := by
  have near : s.overlapNearEnd k = true := by simp [State.overlapNearEnd, used, overlap, last, marks, Ne.symm started]
  refine next_congr ?_
  rw [if_pos near, State.moveTakeMark_taken high locked marks]

end

/-- Settles O35: with one context in use the reaction is the abandonment of its move. -/
theorem offerTimesOut : Obligations.OfferTimesOut := by
  intro s m rest k c n a high locked marks used only offered last record
  dsimp only
  let u : State := { s with marks := { s.marks with move := rest } }
  have get : u.moves.get k = some c := used
  have reaction : u.moveReaction m = u.abandonMove k .timeout m none :=
    (State.moveReaction_of_only (s := u) m only).trans (State.countContext_of_timeout get offered last)
  refine ⟨_, (exec_confirmTimeout_of_last high locked marks used offered last).trans (next_congr reaction), ?_,
    State.abandonMove_entriesBy .timeout m get none, State.abandonMove_record .timeout m get record none,
    State.abandonMove_tells .timeout m get record rfl, State.abandonMove_waitReq .timeout m get none,
    State.abandonMove_slotReport .timeout m get none, State.abandonMove_sameFrame .timeout m get none,
    (congrArg SlotMap.carry (State.abandonMove_map .timeout m none get) :)⟩
  rw [State.abandonMove_moves .timeout m none get, Table.get_set_self]

/-- Settles O36: with one context in use the reaction is the cutover of its move. -/
theorem cutoverExchangesSets : Obligations.CutoverExchangesSets := by
  intro s m rest k c n o a high locked marks used only overlap started last record
  dsimp only
  let u : State := { s with marks := { s.marks with move := rest } }
  have get : u.moves.get k = some c := used
  have reserved : u.reservation c.index = some a := by
    rw [State.reservation]
    exact congrArg Record.alloc record
  let x := u.cutOver k c m a
  let recipients := ownerThenRequester (some a.owner) c
  let told := State.postEach none m (.moveDone (handleOf c.index c.gen) c.tagField c.target) recipients x
  have reaction : u.moveReaction m = told.handReport (.record (handleOf c.index c.gen) (some .live)) :=
    ((State.moveReaction_of_only (s := u) m only).trans (State.countContext_of_cutover get overlap started last)).trans
      (State.cutoverMove_eq reserved)
  have map : told.map = x.map := State.postEach_map _ _ _ _ _
  have tells := State.postEach_eventsBy none m (.moveDone (handleOf c.index c.gen) c.tagField c.target) recipients x
    (ownerThenRequester_nodup _ _)
  have records : x.pool = { s.pool with
      records := s.pool.records.set c.index ⟨c.gen, some { a with state := .live, context := none, set := c.target }⟩ } := by
    have written : s.pool.records.modify c.index (fun r =>
        { r with alloc := r.alloc.map fun b => { b with state := .live, context := none, set := c.target } }) =
        s.pool.records.set c.index ⟨c.gen, some { a with state := .live, context := none, set := c.target }⟩ := by
      rw [Table.modify_eq_set, record]
      rfl
    exact congrArg (fun records => { s.pool with records := records }) written
  refine ⟨_, (exec_cutover_of_last high locked marks used overlap started last).trans (next_congr reaction), ?_,
    fun j => ?_, (congrArg SlotMap.carry map).trans (s.map.addCarry_carry ⟨m, a.owner, a.set⟩),
    (State.postEach_pool _ _ _ _ _).trans records, tells.congr fun q => ?_,
    fun q => State.postEach_others none m _ recipients q x, ?_, State.postEach_engine _ _ _ _ _,
    ⟨(congrArg SlotMap.image map).trans (SlotMap.addCarry_image _ _), (congrArg SlotMap.imageMark map).trans (SlotMap.addCarry_imageMark _ _),
      State.postEach_timing _ _ _ _ _⟩, State.postEach_waits _ _ _ _ _, State.postEach_units _ _ _ _ _,
    State.postEach_params _ _ _ _ _, State.postEach_marks _ _ _ _ _, (State.postEach_resetLow _ _ _ _ _).trans high⟩
  · have moves : told.moves = s.moves.set k none := State.postEach_moves _ _ _ _ _
    exact (congrArg (fun t => t.get k) moves).trans (Table.get_set_self _ _ _)
  · refine (congrArg (fun y : SlotMap => y.entries.get j) map).trans ((SlotMap.rewrite_entries _ _ _).trans ?_)
    rw [SlotMap.addCarry_entries]
    exact cutoverSlot_eq _ _ _ _ _
  · have recipient : decide (q ∈ recipients) = (decide (q = a.owner) || decide (c.requesterPort = some q)) := by
      simp [recipients, mem_ownerThenRequester, eq_comm]
    have heard : decide ((none : Option Port) ≠ some q) = true := by simp
    rw [recipient, heard, Bool.and_true]
    rfl
  · have slots : slotReport s.map.entries.get told.map.entries.get = slotReport s.map.entries.get x.map.entries.get := by
      rw [map]
    have reports : told.reports = x.reports := State.postEach_reports _ _ _ _ _
    refine (congrArg (fun r : Reports => { r with watch := r.watch ++ [Report.record (handleOf c.index c.gen) (some .live)] })
      reports).trans ?_
    exact congrArg (fun w => { s.reports with watch := s.reports.watch ++ w ++ [Report.record (handleOf c.index c.gen) (some .live)] })
      slots.symm

end Sys2Proof.Machine
end

section
/-! PROOFS. What the Move Unit's reaction leaves unchanged (R112, R113, R116). -/

namespace Sys2Proof.Machine

/-- What no mark changes at the Move Unit: the image, the FIFO and its flag, the engine but for the request, the reports but for
those to the watch units. -/
structure State.SameButMoves (s t : State) : Prop where
  image : t.map.image = s.map.image ∧ t.map.imageMark = s.map.imageMark
  pool : t.pool = { s.pool with records := t.pool.records }
  engine : t.engine = { s.engine with waitReq := t.engine.waitReq }
  reports : t.reports = { s.reports with watch := t.reports.watch }

theorem State.SameButMoves.refl (s : State) : s.SameButMoves s := ⟨⟨rfl, rfl⟩, rfl, rfl, rfl⟩

theorem State.SameButMoves.trans {s t u : State} (h : s.SameButMoves t) (g : t.SameButMoves u) : s.SameButMoves u where
  image := ⟨g.image.1.trans h.image.1, g.image.2.trans h.image.2⟩
  pool := g.pool.trans (by rw [h.pool])
  engine := g.engine.trans (by rw [h.engine])
  reports := g.reports.trans (by rw [h.reports])

theorem State.abandonMove_sameButMoves {k : CtxIx} {c : MoveContext} (reason : Reason) (m : Word) {s : State}
    (h : s.moves.get k = some c) : s.SameButMoves (s.abandonMove k reason m none) where
  image := by rw [State.abandonMove_map reason m none h]; exact ⟨rfl, rfl⟩
  pool := by rw [State.abandonMove_pool reason m none h]
  engine := by rw [State.abandonMove_engine reason m none h]
  reports := by rw [State.abandonMove_reports reason m none h]

theorem State.cutoverMove_sameButMoves (k : CtxIx) (c : MoveContext) (m : Word) (s : State) :
    s.SameButMoves (s.cutoverMove k c m) where
  image := by
    cases used : s.reservation c.index with
    | none => rw [State.cutoverMove_of_none used]; exact ⟨rfl, rfl⟩
    | some a =>
      rw [State.cutoverMove_map used]
      exact ⟨SlotMap.addCarry_image _ _, SlotMap.addCarry_imageMark _ _⟩
  pool := by
    cases used : s.reservation c.index with
    | none => rw [State.cutoverMove_of_none used]; rfl
    | some a => rw [State.cutoverMove_pool used]
  engine := by rw [State.cutoverMove_engine]
  reports := State.cutoverMove_reports k c m s

/-- A property of the state that the mark keeps at every context, whatever the mark does there. -/
theorem State.countContext_keeps {P : State → Prop} (m : Word) (k : CtxIx) {s : State} (hs : P s)
    (stays : ∀ c st, s.moves.get k = some c → P (s.setMove k (some { c with stage := st })))
    (times : ∀ c, s.moves.get k = some c → P (s.abandonMove k .timeout m none))
    (cuts : ∀ c, s.moves.get k = some c → P (s.cutoverMove k c m)) : P (s.countContext m k) := by
  cases used : s.moves.get k with
  | none => rwa [State.countContext_of_free used]
  | some c =>
    rcases State.countContext_cases m used with ⟨st, -, e⟩ | ⟨-, e | e⟩
    · rw [e]; exact stays c st used
    · rw [e]; exact times c used
    · rw [e]; exact cuts c used

theorem State.moveReaction_sameButMoves (m : Word) (s : State) : s.SameButMoves (s.moveReaction m) := by
  refine State.foldl_invariant (P := s.SameButMoves) (State.countContext m) (fun t k h => ?_) allContexts (.refl s)
  exact State.countContext_keeps m k h (fun _ _ _ => h.trans ⟨⟨rfl, rfl⟩, rfl, rfl, rfl⟩)
    (fun _ used => h.trans (State.abandonMove_sameButMoves .timeout m used))
    fun c _ => h.trans (State.cutoverMove_sameButMoves k c m t)

theorem State.countContext_others (m : Word) (k : CtxIx) (q : Port) (s : State) :
    (s.countContext m k).ports.get q = { s.ports.get q with
      events := ((s.countContext m k).ports.get q).events, lost := ((s.countContext m k).ports.get q).lost } :=
  State.countContext_keeps (P := fun t => t.ports.get q = { s.ports.get q with
      events := (t.ports.get q).events, lost := (t.ports.get q).lost }) m k rfl (fun _ _ _ => rfl)
    (fun _ _ => State.abandonMove_others k .timeout m none q s) fun c _ => State.cutoverMove_others k c m q s

/-! ## Records and slots that no move names -/

/-- Every context in use is an old one, but for its stage. -/
theorem State.countContext_contexts {m : Word} {k j : CtxIx} {s : State} {d : MoveContext}
    (h : (s.countContext m k).moves.get j = some d) :
    ∃ c, s.moves.get j = some c ∧ d.index = c.index ∧ d.target = c.target := by
  rw [State.countContext_moves, Table.get_set] at h
  split at h
  · next e =>
    subst e
    obtain ⟨c, used, after⟩ := Option.bind_eq_some_iff.mp h
    obtain ⟨st, -, rfl⟩ := Option.map_eq_some_iff.mp after
    exact ⟨c, used, rfl, rfl⟩
  · exact ⟨d, h, rfl, rfl⟩

/-- What a mark does to a record that the context names, and to no other. -/
theorem State.countContext_record (m : Word) (k : CtxIx) (i : RecIx) (s : State) :
    (s.countContext m k).pool.records.get i = s.pool.records.get i ∨
      ∃ c, s.moves.get k = some c ∧ c.index = i ∧ ∀ b, ((s.countContext m k).pool.records.get i).alloc = some b →
        ∃ a, (s.pool.records.get i).alloc = some a ∧ (b.set = a.set ∨ b.set = c.target) := by
  refine State.countContext_keeps (P := fun t => t.pool.records.get i = s.pool.records.get i ∨
      ∃ c, s.moves.get k = some c ∧ c.index = i ∧ ∀ b, (t.pool.records.get i).alloc = some b →
        ∃ a, (s.pool.records.get i).alloc = some a ∧ (b.set = a.set ∨ b.set = c.target)) m k (.inl rfl)
    (fun _ _ _ => .inl rfl) (fun c used => ?_) fun c used => ?_
  · rw [State.abandonMove_pool .timeout m none used, Table.get_modify]
    by_cases named : c.index = i
    · refine .inr ⟨c, used, named, fun b hb => ?_⟩
      rw [if_pos named] at hb
      obtain ⟨a, ha, rfl⟩ := Option.map_eq_some_iff.mp hb
      exact ⟨a, ha, .inl rfl⟩
    · exact .inl (if_neg named)
  · cases reserved : s.reservation c.index with
    | none => rw [State.cutoverMove_of_none reserved]; exact .inl rfl
    | some x =>
      rw [State.cutoverMove_pool reserved, Table.get_modify]
      by_cases named : c.index = i
      · refine .inr ⟨c, used, named, fun b hb => ?_⟩
        rw [if_pos named] at hb
        obtain ⟨a, ha, rfl⟩ := Option.map_eq_some_iff.mp hb
        exact ⟨a, ha, .inr rfl⟩
      · exact .inl (if_neg named)

theorem giveUpSlot_outside (guard : Nat) {set : List Run} {j : Nat} (h : inSet set j = false) (e : Slot) :
    giveUpSlot guard set j e = e := if_neg (by rw [h]; exact Bool.false_ne_true)

theorem cutoverSlot_outside (guard : Nat) {old new : List Run} {j : Nat} (ho : inSet old j = false) (hn : inSet new j = false)
    (e : Slot) : cutoverSlot guard old new j e = e := by
  cases e <;> simp [cutoverSlot, ho, hn]

/-- The slot lies in no target and in no set of a record that a move names. -/
def State.Unmoved (j : SlotIx) (s : State) : Prop :=
  ∀ k c, s.moves.get k = some c → inSet c.target j.val = false ∧
    ∀ a, (s.pool.records.get c.index).alloc = some a → inSet a.set j.val = false

theorem State.Unmoved.countContext {m : Word} {k : CtxIx} {j : SlotIx} {s : State} (h : s.Unmoved j) :
    (s.countContext m k).Unmoved j := by
  intro l d hd
  obtain ⟨c, used, index, target⟩ := State.countContext_contexts hd
  obtain ⟨apart, sets⟩ := h l c used
  refine ⟨target ▸ apart, fun b hb => ?_⟩
  rw [index] at hb
  rcases State.countContext_record m k c.index s with same | ⟨x, usedX, -, sets'⟩
  · rw [same] at hb
    exact sets b hb
  · obtain ⟨a, ha, e | e⟩ := sets' b hb
    · rw [e]; exact sets a ha
    · rw [e]; exact (h k x usedX).1

theorem State.Unmoved.countContext_entry {m : Word} {k : CtxIx} {j : SlotIx} {s : State} (h : s.Unmoved j) :
    (s.countContext m k).map.entries.get j = s.map.entries.get j := by
  refine State.countContext_keeps (P := fun t => t.map.entries.get j = s.map.entries.get j) m k rfl (fun _ _ _ => rfl)
    (fun c used => ?_) fun c used => ?_
  · rw [State.abandonMove_map .timeout m none used, SlotMap.rewrite_entries, giveUpSlot_outside _ (h k c used).1]
  · obtain ⟨target, sets⟩ := h k c used
    cases reserved : s.reservation c.index with
    | none => rw [State.cutoverMove_of_none reserved]; rfl
    | some a =>
      rw [State.cutoverMove_map reserved, SlotMap.rewrite_entries, SlotMap.addCarry_entries,
        cutoverSlot_outside _ (sets a reserved) target]

/-- Settles O34: the contexts count in turn, and none touches what another one names. -/
theorem moveUnitReaction : Obligations.MoveUnitReaction := by
  intro s m rest high locked marks
  let u : State := { s with marks := { s.marks with move := rest } }
  have same := State.moveReaction_sameButMoves m u
  refine ⟨u.moveReaction m, next_congr (State.moveTakeMark_taken high locked marks),
    fun k c n used offered last => exec_confirmTimeout_of_last high locked marks used offered last,
    fun k c n o used overlap started last => exec_cutover_of_last high locked marks used overlap started last,
    fun k => ?_, fun i unnamed => ?_, fun j unmoved => ?_, fun q => ?_, State.moveReaction_marks m u,
    ⟨same.image.1, same.image.2, State.moveReaction_timing m u⟩, same.pool, same.engine, same.reports,
    State.moveReaction_waits m u, State.moveReaction_units m u, State.moveReaction_params m u,
    (State.moveReaction_resetLow m u).trans high⟩
  · rw [State.moveReaction_moves]
    refine congrArg (Option.bind (s.moves.get k)) (funext fun c => ?_)
    unfold MoveContext.afterMark Stage.afterMark
    cases stage : c.stage with
    | offered n => by_cases last : n ≤ 1 <;> simp [last]
    | armed => exact congrArg some (congrArg (fun st => { c with stage := st }) stage.symm)
    | overlap n o =>
      by_cases started : o = m
      · subst started
        simp [← stage]
      · by_cases last : n ≤ 1 <;> simp [started, last]
  · have kept := State.foldl_invariant (P := fun t => (∀ k c, t.moves.get k = some c → c.index ≠ i) ∧
        t.pool.records.get i = s.pool.records.get i) (State.countContext m) (fun t k ⟨other, same⟩ => ⟨fun l d hd => ?_, ?_⟩)
      allContexts (s := u) ⟨unnamed, rfl⟩
    · exact kept.2
    · obtain ⟨c, used, index, -⟩ := State.countContext_contexts hd
      exact index ▸ other l c used
    · rcases State.countContext_record m k i t with unchanged | ⟨c, used, named, -⟩
      · exact unchanged.trans same
      · exact absurd named (other k c used)
  · exact (State.foldl_invariant (P := fun t => t.Unmoved j ∧ t.map.entries.get j = s.map.entries.get j) (State.countContext m)
      (fun t k ⟨apart, same⟩ => ⟨apart.countContext, apart.countContext_entry.trans same⟩) allContexts (s := u)
      ⟨unmoved, rfl⟩).2
  · exact State.foldl_others (State.countContext m) q (fun t k => State.countContext_others m k q t) allContexts u

end Sys2Proof.Machine
end

section
/-! PROOFS. The Wait List's reaction to a frame mark (R79, R80). -/

namespace Sys2Proof.Machine

/-! ## The entries that expire, in turn -/

theorem State.expireEntry_engine (m : Word) (s : State) (e : WaitEntry) :
    (s.expireEntry m e).engine = { s.engine with waitReq := true } := by
  rw [State.expireEntry, State.post_engine, State.removeEntry_engine]

theorem State.expireEntry_eventsBy (m : Word) (s : State) (e : WaitEntry) :
    s.EventsBy (fun q => eventIf (decide (e.port = q)) m (.waitExpired e.ticket)) (s.expireEntry m e) :=
  ((State.removeEntry_eventsBy e s).trans (State.post_eventsBy none m (.waitExpired e.ticket) e.port _)).congr fun q => by simp

theorem State.foldl_expireEntry_engine (m : Word) (gone : List WaitEntry) (s : State) :
    (gone.foldl (State.expireEntry m) s).engine = { s.engine with waitReq := s.engine.waitReq || !gone.isEmpty } := by
  induction gone generalizing s with
  | nil => simp
  | cons e gone ih =>
    rw [List.foldl_cons, ih, State.expireEntry_engine]
    simp

theorem State.foldl_expireEntry_eventsBy (m : Word) (gone : List WaitEntry) (s : State) :
    s.EventsBy (fun q => (gone.filter fun e => e.port = q).map fun e => ⟨m, .waitExpired e.ticket⟩)
      (gone.foldl (State.expireEntry m) s) := by
  induction gone generalizing s with
  | nil => exact State.EventsBy.refl s
  | cons e gone ih =>
    refine ((State.expireEntry_eventsBy m s e).trans (ih _)).congr fun q => ?_
    by_cases here : e.port = q <;> simp [here, eventIf]

theorem State.foldl_expireEntry_ports (m : Word) (gone : List WaitEntry) (s : State) (q : Port) :
    (gone.foldl (State.expireEntry m) s).ports.get q = { s.ports.get q with
      events := ((gone.foldl (State.expireEntry m) s).ports.get q).events
      lost := ((gone.foldl (State.expireEntry m) s).ports.get q).lost
      promised := (s.ports.get q).promised - promisedIn q gone } := by
  induction gone generalizing s with
  | nil => simp [promisedIn]
  | cons e gone ih =>
    rw [← State.foldl_expireEntry_promised m]
    refine (ih (s.expireEntry m e)).trans ?_
    rw [← State.foldl_expireEntry_promised m, State.expireEntry_others]
    rfl

theorem State.expireEntry_eq (m : Word) (s : State) (e : WaitEntry) : s.expireEntry m e = { s with
    waits := (s.expireEntry m e).waits, engine := (s.expireEntry m e).engine, ports := (s.expireEntry m e).ports } := by
  unfold State.expireEntry State.post
  split <;> rfl

theorem State.foldl_expireEntry_eq (m : Word) (gone : List WaitEntry) (s : State) :
    gone.foldl (State.expireEntry m) s = { s with
      waits := (gone.foldl (State.expireEntry m) s).waits
      engine := (gone.foldl (State.expireEntry m) s).engine
      ports := (gone.foldl (State.expireEntry m) s).ports } := by
  induction gone generalizing s with
  | nil => rfl
  | cons e gone ih =>
    rw [List.foldl_cons]
    refine (ih (s.expireEntry m e)).trans ?_
    rw [State.expireEntry_eq]

/-! ## Which entries expire -/

theorem serviceOrder_filter (p : WaitEntry → Bool) (es : List WaitEntry) :
    serviceOrder (es.filter p) = (serviceOrder es).filter p := by
  simp only [serviceOrder, List.filter_append, List.filter_filter, Bool.and_comm]

theorem serviceOrder_map_counted (es : List WaitEntry) :
    serviceOrder (es.map WaitEntry.counted) = (serviceOrder es).map WaitEntry.counted := by
  simp only [serviceOrder, List.filter_map, List.map_append]
  rfl

/-- A limit that is not 0 reaches 0 at a mark just where it is 1 (R79). -/
theorem WaitEntry.counted_remaining {e : WaitEntry} (h : e.remaining ≠ some 0) :
    e.counted.remaining = some 0 ↔ e.remaining = some 1 := by
  unfold WaitEntry.counted
  cases limit : e.remaining with
  | none => simp
  | some n =>
    have : n ≠ 0 := fun zero => h (by rw [limit, zero])
    simp only [Option.map_some, Option.some.injEq]
    omega

theorem WaitList.expiring_eq {w : WaitList} (limits : ∀ e ∈ w.entries, e.remaining ≠ some 0) :
    w.expiring = ((serviceOrder w.entries).filter fun e => decide (e.remaining = some 1)).map WaitEntry.counted := by
  rw [WaitList.expiring, List.filter_map, serviceOrder_map_counted, ← serviceOrder_filter]
  refine congrArg (fun es => (serviceOrder es).map WaitEntry.counted) (List.filter_congr fun e he => ?_)
  simpa using WaitEntry.counted_remaining (limits e he)

/-- Settles O30: the entries at 1 expire in service order, each told and taken out, and the others count. -/
theorem waitListReaction : Obligations.WaitListReaction := by
  intro s m rest high locked marks agree
  dsimp only
  obtain ⟨-, -, nodup, limits, -⟩ := agree
  let u : State := { s with marks := { s.marks with wait := rest } }
  let gone := (serviceOrder s.waits.entries).filter fun e => decide (e.remaining = some 1)
  have expiring : u.waits.expiring = gone.map WaitEntry.counted := WaitList.expiring_eq limits
  let v : State := { u with waits := { u.waits with entries := u.waits.entries.map WaitEntry.counted } }
  let t := (gone.map WaitEntry.counted).foldl (State.expireEntry m) v
  have reaction : u.waitReaction m = t := by rw [State.waitReaction_eq, expiring]
  have taken : s.waitTakeMark = t :=
    (State.waitTakeMark_of_cons ((State.takesMarks_iff s).mpr ⟨high, locked⟩) marks).trans reaction
  refine ⟨t, next_congr taken, fun e he ending => ?_, ?_, ?_, ?_, fun q => ?_, State.foldl_expireEntry_eq m _ v⟩
  · have near : e.nearEnd = true := by simp [WaitEntry.nearEnd, of_decide_eq_true ending]
    refine next_congr ?_
    rw [WaitList.find_eq_some nodup he, Option.any_some, near]
    exact taken
  · rw [← reaction, State.waitReaction_waits m (s := u) nodup, List.filter_map]
    refine congrArg (fun es => { s.waits with entries := es.map WaitEntry.counted }) (List.filter_congr fun e he => ?_)
    simpa using WaitEntry.counted_remaining (limits e he)
  · rw [State.foldl_expireEntry_engine, List.isEmpty_map]
    rfl
  · refine (State.foldl_expireEntry_eventsBy m (gone.map WaitEntry.counted) v).congr fun q => ?_
    rw [List.filter_map, List.map_map]
    rfl
  · refine (State.foldl_expireEntry_ports m (gone.map WaitEntry.counted) v q).trans ?_
    rw [promisedIn_counted]
    rfl

end Sys2Proof.Machine
end

section
/-! PROOFS. The Watch Units: the taking of a report, and the definition of a unit (R162 to R167). -/

namespace Sys2Proof.Machine

/-! ## One evaluation of a unit -/

/-- Unit `k` is judged by the condition that `ev` evaluates, where it evaluates one (R165, R166). -/
def State.evaluateUnit (ev : WatchUnit → Option WatchCond) (s : State) (k : UnitIx) : State :=
  match s.units.get k with
  | none => s
  | some u =>
    match ev u with
    | none => s
    | some c => s.judgeUnit k { u with cond := c }

/-- The WATCH events of an evaluation of unit `k` at queue `q` (R167). -/
def State.evaluationEvents (ev : WatchUnit → Option WatchCond) (q : Port) (s : State) (k : UnitIx) : List Event :=
  (s.units.get k).elim [] fun u => (ev u).elim [] fun c => u.eventsAt k q s.timing.frameCounter c

section
variable (ev : WatchUnit → Option WatchCond)

theorem State.evaluateUnit_units (s : State) (k : UnitIx) : (s.evaluateUnit ev k).units =
    s.units.set k ((s.units.get k).map fun u => (ev u).elim u fun c => u.judged c) := by
  unfold State.evaluateUnit
  cases used : s.units.get k with
  | none => exact (Table.set_of_get used).symm
  | some u =>
    dsimp only
    cases hc : ev u with
    | none =>
      rw [Option.map_some, hc]
      exact (Table.set_of_get used).symm
    | some c =>
      rw [Option.map_some, hc]
      exact State.judgeUnit_units k u c s

theorem State.evaluateUnit_eventsBy (s : State) (k : UnitIx) :
    s.EventsBy (fun q => s.evaluationEvents ev q k) (s.evaluateUnit ev k) := by
  unfold State.evaluateUnit State.evaluationEvents
  cases s.units.get k with
  | none => exact State.EventsBy.refl s
  | some u =>
    dsimp only [Option.elim_some]
    cases ev u with
    | none => exact State.EventsBy.refl s
    | some c => exact State.judgeUnit_eventsBy k u c s

theorem State.judgeUnit_frame (k : UnitIx) (u : WatchUnit) (s : State) : s.judgeUnit k u = { s with
    units := (s.judgeUnit k u).units, ports := (s.judgeUnit k u).ports } := by
  unfold State.judgeUnit
  dsimp only
  split
  · rfl
  · split
    · rw [State.postEach_frame]
      rfl
    · rfl

theorem State.evaluateUnit_frame (s : State) (k : UnitIx) : s.evaluateUnit ev k = { s with
    units := (s.evaluateUnit ev k).units, ports := (s.evaluateUnit ev k).ports } := by
  unfold State.evaluateUnit
  split
  · rfl
  · split
    · rfl
    · exact State.judgeUnit_frame _ _ _

/-! ## Every unit in turn -/

theorem State.foldl_evaluateUnit_frame (l : List UnitIx) (s : State) : l.foldl (State.evaluateUnit ev) s = { s with
    units := (l.foldl (State.evaluateUnit ev) s).units, ports := (l.foldl (State.evaluateUnit ev) s).ports } := by
  induction l generalizing s with
  | nil => rfl
  | cons k l ih =>
    rw [List.foldl_cons]
    refine (ih (s.evaluateUnit ev k)).trans ?_
    rw [State.evaluateUnit_frame]

theorem State.foldl_evaluateUnit_units (l : List UnitIx) (nodup : l.Nodup) (s : State) (k : UnitIx) :
    (l.foldl (State.evaluateUnit ev) s).units.get k =
      if k ∈ l then (s.units.get k).map fun u => (ev u).elim u fun c => u.judged c else s.units.get k := by
  induction l generalizing s with
  | nil => simp
  | cons j l ih =>
    obtain ⟨fresh, nodup⟩ := List.nodup_cons.mp nodup
    rw [List.foldl_cons, ih nodup, State.evaluateUnit_units]
    by_cases e : k = j
    · subst e
      simp [fresh]
    · rw [Table.get_set_ne _ _ (Ne.symm e)]
      simp [e]

/-- The postings of the units in turn: each reads its own unit, which those before it leave alone. -/
theorem State.foldl_evaluateUnit_eventsBy (l : List UnitIx) (nodup : l.Nodup) (s : State) :
    s.EventsBy (fun q => l.flatMap (s.evaluationEvents ev q)) (l.foldl (State.evaluateUnit ev) s) := by
  induction l generalizing s with
  | nil => exact State.EventsBy.refl s
  | cons j l ih =>
    obtain ⟨fresh, nodup⟩ := List.nodup_cons.mp nodup
    refine ((State.evaluateUnit_eventsBy ev s j).trans (ih nodup (s.evaluateUnit ev j))).congr fun q => ?_
    rw [List.flatMap_cons]
    refine congrArg (s.evaluationEvents ev q j ++ ·) ?_
    rw [List.flatMap_def, List.flatMap_def]
    refine congrArg List.flatten (List.map_congr_left fun k hk => ?_)
    have other : j ≠ k := fun e => fresh (e ▸ hk)
    have frame := State.evaluateUnit_frame ev s j
    have timing : (s.evaluateUnit ev j).timing = s.timing := (congrArg State.timing frame :)
    unfold State.evaluationEvents
    rw [State.evaluateUnit_units, Table.get_set_ne _ _ other, timing]

end

/-! ## What a report evaluates -/

/-- What a watch report evaluates of a unit: the window's count, where a reported slot lies in it (R165). -/
def slotsCond (ch : List SlotChange) (u : WatchUnit) : Option WatchCond :=
  match u.cond with
  | .freeCount lo hi threshold count =>
    let mine := ch.filter fun x => decide (lo ≤ x.slot) && decide (x.slot ≤ hi)
    if mine.isEmpty then none
    else some (.freeCount lo hi threshold
      (count + mine.countP (fun x => decide (x.after = .free) && decide (x.before ≠ .free)) -
        mine.countP (fun x => decide (x.before = .free) && decide (x.after ≠ .free))))
  | .resState _ _ _ => none

/-- What a record report evaluates of a unit: the marks, where a member names the handle (R166). -/
def recordCond (h : Handle) (st : Option ResState) (u : WatchUnit) : Option WatchCond :=
  match u.cond with
  | .freeCount _ _ _ _ => none
  | .resState req comb ms =>
    if ms.all fun x => decide (x.handle ≠ h) then none else some (.resState req comb (ms.map (Member.hear req h st)))

theorem State.takeSlots_eq (ch : List SlotChange) : State.takeSlots ch = State.evaluateUnit (slotsCond ch) := by
  funext s k
  unfold State.takeSlots State.evaluateUnit
  cases s.units.get k with
  | none => rfl
  | some u =>
    dsimp only
    unfold slotsCond
    cases u.cond with
    | resState req comb ms => rfl
    | freeCount lo hi threshold count =>
      dsimp only
      have some_inside : (ch.any fun c => c.inWindow lo hi) =
          !(ch.filter fun x => decide (lo ≤ x.slot) && decide (x.slot ≤ hi)).isEmpty := by
        rw [Bool.eq_iff_iff]
        simp [SlotChange.inWindow]
      rw [some_inside]
      cases (ch.filter fun x => decide (lo ≤ x.slot) && decide (x.slot ≤ hi)).isEmpty <;> rfl

theorem State.takeRecord_eq (h : Handle) (st : Option ResState) :
    State.takeRecord h st = State.evaluateUnit (recordCond h st) := by
  funext s k
  unfold State.takeRecord State.evaluateUnit
  cases s.units.get k with
  | none => rfl
  | some u =>
    dsimp only
    unfold recordCond
    cases u.cond with
    | freeCount lo hi threshold count => rfl
    | resState req comb ms =>
      dsimp only
      have some_named : (ms.any fun x => decide (x.handle = h)) = !ms.all fun x => decide (x.handle ≠ h) := by
        simp [List.all_eq_not_any_not]
      rw [some_named]
      cases (ms.all fun x => decide (x.handle ≠ h)) <;> rfl

theorem Member.hear_eq (req : Required) (h : Handle) (st : Option ResState) (x : Member) : x.hear req h st =
    if x.handle = h then ⟨x.handle, match req with
      | .present => st.isSome
      | .live => decide (st = some .live) || decide (st = some .moving)⟩ else x := by
  unfold Member.hear
  have admits : req.admits st = match req with
      | .present => st.isSome
      | .live => decide (st = some .live) || decide (st = some .moving) := by
    rcases req with _ | _ <;> rcases st with _ | _ | _ | _ <;> rfl
  rw [admits]

theorem exec_watchReport_of_slots {s : State} {ch : List SlotChange} {rest : List Report} (high : s.resetLow = false)
    (watch : s.reports.watch = .slots ch :: rest) : exec .watchReport s = .next (allUnits.foldl
      (State.evaluateUnit (slotsCond ch)) { s with reports := { s.reports with watch := rest } }) := by
  refine next_congr ?_
  rw [high, watch, ← State.takeSlots_eq]
  rfl

theorem exec_recordReport_of_record {s : State} {h : Handle} {st : Option ResState} {rest : List Report}
    (high : s.resetLow = false) (watch : s.reports.watch = .record h st :: rest) :
    exec .recordReport s = .next (allUnits.foldl (State.evaluateUnit (recordCond h st))
      { s with reports := { s.reports with watch := rest } }) := by
  refine next_congr ?_
  rw [high, watch, ← State.takeRecord_eq]
  rfl

/-- What the taking of a report does, from what it evaluates of each unit. -/
theorem State.takes_of_evaluates (ev ev' : WatchUnit → Option WatchCond) (same : ev = ev') (rest : List Report) (s : State) :
    let u : State := { s with reports := { s.reports with watch := rest } }
    let t := allUnits.foldl (State.evaluateUnit ev) u
    (∀ k, t.units.get k = (s.units.get k).map fun u => (ev' u).elim u fun c => u.judged c) ∧
      s.EventsBy (fun q => (List.finRange 8).flatMap fun k => (s.units.get k).elim [] fun u =>
        (ev' u).elim [] fun c => u.eventsAt k q s.timing.frameCounter c) t ∧
      t = { s with units := t.units, ports := t.ports, reports := { s.reports with watch := rest } } := by
  subst same
  intro u t
  have nodup : allUnits.Nodup := List.nodup_finRange 8
  exact ⟨fun k => (State.foldl_evaluateUnit_units ev allUnits nodup u k).trans (if_pos (List.mem_finRange k)),
    State.foldl_evaluateUnit_eventsBy ev allUnits nodup u, State.foldl_evaluateUnit_frame ev allUnits u⟩

/-- Settles O39: a report is an evaluation of every unit in turn. -/
theorem reportsJudgeUnits : Obligations.ReportsJudgeUnits := by
  refine ⟨fun s ch rest high watch => ⟨_, exec_watchReport_of_slots high watch, ?_⟩,
    fun s h st rest high watch => ⟨_, exec_recordReport_of_record high watch, ?_⟩⟩
  · exact State.takes_of_evaluates (slotsCond ch) _ rfl rest s
  · refine State.takes_of_evaluates (recordCond h st) _ (funext fun u => ?_) rest s
    unfold recordCond
    cases u.cond with
    | freeCount lo hi threshold count => rfl
    | resState req comb ms =>
      dsimp only
      rw [funext (Member.hear_eq req h st)] <;> rfl

end Sys2Proof.Machine
end

section
/-! PROOFS. The definition of a watch unit (R162 to R164). -/

namespace Sys2Proof.Machine

/-! ## The first evaluation of a condition -/

theorem SlotMap.windowFree_eq (lo hi : Nat) (m : SlotMap) : m.windowFree lo hi =
    (List.finRange 512).countP fun j => decide (lo ≤ j.val) && decide (j.val ≤ hi) && decide (m.entries.get j = .free) := by
  rw [SlotMap.windowFree]
  refine (SlotMap.entriesOf_countP ⟨lo, hi + 1 - lo⟩ m fun e => decide (e = .free)).trans (List.countP_congr fun j _ => ?_)
  simp only [Run.has, Bool.and_eq_true, decide_eq_true_eq]
  exact and_congr_left fun _ => by omega

theorem Required.admits_lookup (req : Required) (h : Handle) (s : State) :
    req.admits ((s.lookup h).map fun x => x.2.state) = true ↔ ∃ i b, s.Names h i b ∧ (req = .present ∨ b.state ≠ .pending) := by
  cases found : s.lookup h with
  | none =>
    refine ⟨fun no => ?_, fun ⟨i, b, names, _⟩ => ?_⟩
    · cases req <;> cases no
    · rw [State.lookup_of_names names] at found
      cases found
  | some x =>
    obtain ⟨i, a⟩ := x
    have names := State.names_of_lookup found
    have admits : req.admits (some a.state) = true ↔ req = .present ∨ a.state ≠ .pending := by
      cases req <;> cases a.state <;> simp [Required.admits]
    rw [Option.map_some, admits]
    refine ⟨fun h => ⟨i, a, names, h⟩, fun ⟨j, b, names', h⟩ => ?_⟩
    rw [State.lookup_of_names names'] at found
    cases found
    exact h

/-! ## The unit taken -/

theorem State.chooseUnit_of_any {k : UnitIx} {p : Port} {s : State} (free : s.units.get k = none)
    (lowest : ∀ j, j < k → s.units.get j ≠ none) : s.chooseUnit none p = .ok k := by
  have found : allUnits.find? (fun k => s.units.get k = none) = some k := by
    rw [List.find?_eq_some_iff_getElem]
    refine ⟨by simpa using free, k.val, by simp [allUnits], by simp [allUnits], fun j hj => ?_⟩
    simpa [allUnits] using lowest ⟨j, by omega⟩ hj
  rw [State.chooseUnit, found]

theorem State.chooseUnit_of_full {p : Port} {s : State} (full : ∀ k, s.units.get k ≠ none) :
    s.chooseUnit none p = .error .noRoom := by
  have none_free : allUnits.find? (fun k => s.units.get k = none) = none := by
    rw [List.find?_eq_none]
    exact fun k _ => by simpa using full k
  rw [State.chooseUnit, none_free]

theorem State.chooseUnit_of_named {k : UnitIx} {p : Port} {s : State} (own : ∀ w, s.units.get k = some w → w.owner = p) :
    s.chooseUnit (some k) p = .ok k := by
  unfold State.chooseUnit
  cases used : s.units.get k with
  | none => simp only [used]
  | some w => simp only [used, own w used, if_true]

theorem State.chooseUnit_of_other {k : UnitIx} {p : Port} {w : WatchUnit} {s : State} (used : s.units.get k = some w)
    (other : w.owner ≠ p) : s.chooseUnit (some k) p = .error .notOwner := by
  simp only [State.chooseUnit, used, other, if_false]

theorem State.setWatchCompletion_of_error {a : SetWatchArgs} {st : Status} {c : Command} {s : State}
    (e : s.chooseUnit a.unit c.port = .error st) : s.setWatchCompletion a c = s.answer c.port c.tag st [] := by
  rw [State.setWatchCompletion, e]

theorem State.setWatchCompletion_of_ok {a : SetWatchArgs} {k : UnitIx} {c : Command} {s : State}
    (e : s.chooseUnit a.unit c.port = .ok k) : s.setWatchCompletion a c =
      (s.takeAllReports.setUnit k (some (s.takeAllReports.newUnit a c.port))).answer c.port c.tag .ok
        (unitBody k (s.takeAllReports.newUnit a c.port).last) := by
  rw [State.setWatchCompletion, e]

/-! ## The reports and the engine's work -/

theorem State.foldl_setWork {α : Type} (w : Work) (f : State → α → State) (h : ∀ s a, f (s.setWork w) a = (f s a).setWork w)
    (l : List α) (s : State) : l.foldl f (s.setWork w) = (l.foldl f s).setWork w := by
  induction l generalizing s with
  | nil => rfl
  | cons a l ih => rw [List.foldl_cons, h, ih, List.foldl_cons]

theorem State.post_setWork (w : Work) (mute : Option Port) (stamp : Word) (body : EventBody) (p : Port) (s : State) :
    (s.setWork w).post mute stamp body p = (s.post mute stamp body p).setWork w := by
  unfold State.post
  split <;> rfl

theorem State.evaluateUnit_setWork (ev : WatchUnit → Option WatchCond) (w : Work) (s : State) (k : UnitIx) :
    (s.setWork w).evaluateUnit ev k = (s.evaluateUnit ev k).setWork w := by
  have each (stamp : Word) (body : EventBody) (ps : List Port) (t : State) :
      (t.setWork w).postEach none stamp body ps = (t.postEach none stamp body ps).setWork w :=
    State.foldl_setWork w _ (fun t p => State.post_setWork w none stamp body p t) ps t
  have judged (u : WatchUnit) : (s.setWork w).judgeUnit k u = (s.judgeUnit k u).setWork w := by
    unfold State.judgeUnit
    dsimp only
    split
    · rfl
    · split
      · exact each s.now (.watch k u.cond.result) (targetPorts u.targets) (s.setUnit k _)
      · rfl
  unfold State.evaluateUnit
  rw [State.setWork_units]
  split
  · rfl
  · split
    · rfl
    · exact judged _

/-- The taking of reports does not read the engine's work. -/
theorem State.takeAllReports_setWork (w : Work) (s : State) : (s.setWork w).takeAllReports = s.takeAllReports.setWork w := by
  refine State.foldl_setWork w State.takeReport (fun t r => ?_) s.reports.watch { s with reports := { s.reports with watch := [] } }
  unfold State.takeReport
  cases r with
  | slots ch =>
    dsimp only
    rw [State.takeSlots_eq]
    exact State.foldl_setWork w _ (State.evaluateUnit_setWork _ w) _ _
  | record h st =>
    dsimp only
    rw [State.takeRecord_eq]
    exact State.foldl_setWork w _ (State.evaluateUnit_setWork _ w) _ _

/-- Settles O37: the unit taken is the one chosen, and its condition is evaluated once the reports handed before are taken. -/
theorem setWatchDefinesUnit : Obligations.SetWatchDefinesUnit := by
  intro p tag a scan s e
  dsimp only
  let c : Command := ⟨p, tag, .setWatch a, false, scan⟩
  let u := s.setWork .idle
  refine ⟨fun k takes => ?_, fun any full => ?_, fun k w named used other => ?_⟩
  · have chosen : u.chooseUnit a.unit p = .ok k := by
      cases unit : a.unit with
      | none =>
        rw [unit] at takes
        exact State.chooseUnit_of_any (s := u) takes.1 takes.2
      | some j =>
        rw [unit] at takes
        obtain ⟨rfl, own⟩ := takes
        exact State.chooseUnit_of_named (s := u) own
    let v := s.takeAllReports.setWork .idle
    let unit := v.newUnit a p
    let t := (v.setUnit k (some unit)).answer p tag .ok (unitBody k unit.last)
    have completion : u.setWatchCompletion a c = t := by
      rw [State.setWatchCompletion_of_ok (c := c) chosen, State.takeAllReports_setWork]
    have others (q : Port) := State.takeAllReports_others q s
    have port (q : Port) : t.ports.get q = if p = q then
        (s.takeAllReports.ports.get q).answer tag .ok (unitBody k unit.last) else s.takeAllReports.ports.get q :=
      State.answer_ports_get p tag .ok (unitBody k unit.last) q _
    refine ⟨t, unit, next_congr ((State.complete_of_engaged e _ (State.setWatchCompletion a) rfl).trans completion), rfl, rfl, rfl,
      rfl, rfl, rfl, rfl, ?_,
      ?_, State.answer_eventsBy p tag .ok (unitBody k unit.last) (v.setUnit k (some unit)), State.takeAllReports_reports s,
      fun q => ?_, fun q other => ?_, State.takeAllReports_map s, State.takeAllReports_pool s,
      congrArg (fun g : Engine => { g with work := .idle }) (State.takeAllReports_engine s), State.takeAllReports_waits s,
      State.takeAllReports_timing s, State.takeAllReports_marks s, State.takeAllReports_moves s, State.takeAllReports_params s⟩
    · have map : v.map = s.map := State.takeAllReports_map s
      have cond : unit.cond = v.newCond a.spec := rfl
      rw [cond]
      cases spec : a.spec with
      | freeCount lo hi threshold =>
        dsimp only [State.newCond]
        rw [SlotMap.windowFree_eq, map]
      | resState req comb hs =>
        refine ⟨_, rfl, ?_, fun x hx => ?_⟩
        · simp [Function.comp_def]
        · obtain ⟨h, -, rfl⟩ := List.mem_map.mp hx
          have lookup : v.lookup h = s.lookup h := by
            unfold State.lookup
            rw [show v.pool = s.pool from State.takeAllReports_pool s]
          dsimp only
          rw [lookup]
          exact Required.admits_lookup req h s
    · rw [State.HasAnswer, port, if_pos rfl, ClientPort.answer_of_ne _ _ _ (by rw [others p]; exact e.queue), others p]
      exact ⟨rfl, by rw [unitBody_eq]⟩
    · rw [port]
      split
      · rw [ClientPort.answer_eq, others q]
      · rw [others q]
    · rw [port, if_neg (Ne.symm other)]
      exact ⟨(congrArg ClientPort.queue (others q) :), (congrArg ClientPort.stored (others q) :)⟩
  · refine congrArg _ (State.complete_eq_answered e rfl (State.setWatchCompletion_of_error (c := c) ?_))
    rw [any]
    exact State.chooseUnit_of_full (s := u) full
  · refine congrArg _ (State.complete_eq_answered e rfl (State.setWatchCompletion_of_error (c := c) ?_))
    rw [named]
    exact State.chooseUnit_of_other (s := u) used other

end Sys2Proof.Machine
end

section
/-! PROOFS. Generations advance where a record is freed, and nowhere else (R28, R36). -/

namespace Sys2Proof.Machine

/-- What a handle's validity rests on: the generation of the record, and whether it is allocated. -/
def Record.life (r : Record) : Byte × Bool := (r.gen, r.alloc.isSome)

/-- Record `i` lives on as it is, or is freed with its generation advanced (R28, R36). -/
def State.LivesOrFreed (i : RecIx) (s t : State) : Prop :=
  (t.pool.records.get i).life = (s.pool.records.get i).life ∨
    (t.pool.records.get i).gen = (s.pool.records.get i).gen + 1#8 ∧
      (s.pool.records.get i).alloc.isSome = true ∧ (t.pool.records.get i).alloc = none

/-- A freed record stays free, so that it is freed once. -/
theorem State.LivesOrFreed.trans {i : RecIx} {s t u : State} (h : s.LivesOrFreed i t) (g : t.LivesOrFreed i u) :
    s.LivesOrFreed i u := by
  rcases h with h | ⟨gen, used, freed⟩
  · obtain ⟨gens, allocs⟩ := Prod.mk.inj h
    rcases g with g | ⟨gen, used, freed⟩
    · exact .inl (g.trans h)
    · exact .inr ⟨gen.trans (by rw [gens]), allocs ▸ used, freed⟩
  · rcases g with g | ⟨-, again, -⟩
    · obtain ⟨gens, allocs⟩ := Prod.mk.inj g
      refine .inr ⟨gens.trans gen, used, ?_⟩
      rw [freed] at allocs
      exact Option.isNone_iff_eq_none.mp (by rw [← Option.not_isSome, allocs]; rfl)
    · rw [freed] at again
      cases again

theorem State.LivesOrFreed.of_records {i : RecIx} {s t : State} (h : t.pool.records = s.pool.records) : s.LivesOrFreed i t :=
  .inl (by rw [h])

/-- Fields of a reservation may change; its record lives on. -/
theorem State.LivesOrFreed.of_modify {i j : RecIx} {f : Reservation → Reservation} {s t : State}
    (h : t.pool.records = s.pool.records.modify j fun r => { r with alloc := r.alloc.map f }) : s.LivesOrFreed i t := by
  refine .inl ?_
  rw [h, Table.get_modify]
  split
  · simp [Record.life]
  · rfl

theorem State.releaseRecord_livesOrFreed {j : RecIx} {a : Reservation} (cause : Cause) (releasing : Option Port) {s : State}
    (used : s.reservation j = some a) (i : RecIx) : s.LivesOrFreed i (s.releaseRecord j cause releasing) := by
  unfold State.LivesOrFreed
  rw [State.releaseRecord_pool cause releasing used, Table.get_set]
  split
  · next e =>
    subst e
    exact .inr ⟨rfl, Option.isSome_iff_exists.mpr ⟨a, used⟩, rfl⟩
  · exact .inl rfl

theorem State.poolTakeReport_life (i : RecIx) (s : State) :
    (s.poolTakeReport.pool.records.get i).life = (s.pool.records.get i).life := by
  unfold State.poolTakeReport
  split
  · rfl
  · next r rest _ =>
    refine State.foldl_keeps (State.promoteRecord r.mark) (fun t => (t.pool.records.get i).life) (fun t e => ?_) r.promoted _
    unfold State.promoteRecord
    split
    · rfl
    · split
      · rfl
      · split
        · simp only [State.handReport_pool, State.post_pool, State.modReservation_pool, Table.get_modify]
          split
          · simp [Record.life]
          · rfl
        · rfl

theorem State.Act.livesOrFreed {s t : State} (a : State.Act s t) (i : RecIx) : s.LivesOrFreed i t := by
  cases a with
  | quiet q => exact .of_records q.records
  | begins | reads | beginsPass | advances | counts | drops | enters | leaves => exact .inl rfl
  | relocates => exact .of_modify (by rw [State.beginMove_pool]; rfl)
  | releases j a cause releasing used => exact State.releaseRecord_livesOrFreed cause releasing used i
  | abandons k c reason stamp mute used => exact .of_modify (by rw [State.abandonMove_pool reason stamp mute used])
  | arms | bars | unbars | leavesAll | countsWaits | overlaps => exact .of_records (by simp)
  | cutsOver k c n o m =>
    cases used : s.reservation c.index with
    | none => exact .of_records (by rw [State.cutoverMove_of_none used]; rfl)
    | some a => exact .of_modify (by rw [State.cutoverMove_pool used])
  | leases => exact .of_modify rfl
  | promotes => exact .inl (s.poolTakeReport_life i)

theorem State.Acts.livesOrFreed {s t : State} (a : s.Acts t) (i : RecIx) : s.LivesOrFreed i t := by
  induction a with
  | refl => exact .inl rfl
  | tail _ b ih => exact ih.trans (b.livesOrFreed i)

/-- No record is freed, and no generation changes. -/
def State.StaysAllocated (i : RecIx) (s t : State) : Prop :=
  (t.pool.records.get i).gen = (s.pool.records.get i).gen ∧
    ((s.pool.records.get i).alloc.isSome = true → (t.pool.records.get i).alloc.isSome = true)

theorem State.grant_staysAllocated (i j : RecIx) (rest : List RecIx) (owner : Port) (cls : ResClass) (set : List Run) (lease : Nat)
    (ticket : Option Byte) (place : Placement) (s : State) :
    s.StaysAllocated i (s.grant j rest owner cls set lease ticket place) := by
  unfold State.StaysAllocated
  rw [State.grant_pool, Table.get_set]
  split
  · next e => subst e; exact ⟨rfl, fun _ => rfl⟩
  · exact ⟨rfl, id⟩

theorem State.grantTrial_staysAllocated (i : RecIx) (x : Trial) (s : State) : s.StaysAllocated i (s.grantTrial x) := by
  rcases State.grantTrial_cases s x with e | ⟨e, j, rest, -, -, q⟩
  · rw [e]
    exact ⟨rfl, id⟩
  · unfold State.StaysAllocated
    rw [q.records]
    exact State.grant_staysAllocated i j rest e.port e.cls x.set e.lease (some e.ticket) e.search.place s

theorem State.completePass_staysAllocated (i : RecIx) (p : Pass) (s : State) : s.StaysAllocated i (s.completePass p) := by
  refine State.foldl_invariant (P := s.StaysAllocated i) State.grantTrial (fun t x ⟨gen, used⟩ => ?_) _ ⟨rfl, id⟩
  obtain ⟨gen', used'⟩ := State.grantTrial_staysAllocated i x t
  exact ⟨gen'.trans gen, fun h => used' (used h)⟩

/-- Settles O51: whole changes free records one at a time, and grants free none. -/
theorem generationAdvancesAtFreeing : Obligations.GenerationAdvancesAtFreeing := by
  intro c s t run notOn notRelease i
  have of_acts {u : State} (same : u.pool = s.pool) (a : u.Acts t) :
      (t.pool.records.get i).gen = (s.pool.records.get i).gen ∧
          ((s.pool.records.get i).alloc.isSome = true → (t.pool.records.get i).alloc.isSome = true) ∨
        (t.pool.records.get i).gen = (s.pool.records.get i).gen + 1#8 ∧
          (s.pool.records.get i).alloc.isSome = true ∧ (t.pool.records.get i).alloc = none := by
    have lives := a.livesOrFreed i
    unfold State.LivesOrFreed at lives
    rw [same] at lives
    refine lives.imp (fun h => ?_) id
    obtain ⟨gen, used⟩ := Prod.mk.inj h
    exact ⟨gen, fun h => used.trans h⟩
  cases exec_doesWhere (power := False) run notOn notRelease with
  | acts a => exact of_acts rfl a
  | afterMap a => exact of_acts (State.mapTakeMark_pool s) a
  | reserves d a j rest set _ _ _ _ q =>
    rw [q.records]
    exact .inl (State.grant_staysAllocated i j rest d.port a.cls set a.lease none a.search.place (s.setWork .idle))
  | completes p => exact .inl (State.completePass_staysAllocated i p s)
  | powers _ _ never => exact never.elim

end Sys2Proof.Machine
end

section
/-! PROOFS. The taking of promotion reports, at the Record Pool and at the Move Unit (R34, R114). -/

namespace Sys2Proof.Machine

/-! ## One entry at the Record Pool -/

/-- The reservation that an entry of a promotion report of mark `m` takes to LIVE, and its handle (R34). -/
def State.promotion (m : Word) (s : State) (x : RecIx × Role) : Option (Reservation × Handle) :=
  if x.2 = .current then
    match (s.pool.records.get x.1).alloc with
    | some a => if a.state = .pending ∧ a.grantFrame ≠ m
        then some (a, ⟨BitVec.ofNat 8 x.1.val, (s.pool.records.get x.1).gen⟩) else none
    | none => none
  else none

theorem State.promotion_eq_some {m : Word} {s : State} {x : RecIx × Role} {a : Reservation} {h : Handle} :
    s.promotion m x = some (a, h) ↔ x.2 = .current ∧ s.reservation x.1 = some a ∧ a.state = .pending ∧ a.grantFrame ≠ m ∧
      h = handleOf x.1 (s.pool.records.get x.1).gen := by
  unfold State.promotion State.reservation
  split
  · next current =>
    cases (s.pool.records.get x.1).alloc with
    | none => simp
    | some b =>
      dsimp only
      split
      · next early =>
        simp only [Option.some.injEq, Prod.mk.injEq]
        constructor
        · rintro ⟨rfl, rfl⟩
          exact ⟨current, rfl, early.1, early.2, rfl⟩
        · rintro ⟨-, rfl, -, -, rfl⟩
          exact ⟨rfl, rfl⟩
      · next late =>
        simp only [Option.some.injEq, reduceCtorEq, false_iff]
        rintro ⟨-, rfl, pending, frame, -⟩
        exact late ⟨pending, frame⟩
  · next other => simp [other]

theorem State.promoteRecord_of_some {m : Word} {s : State} {x : RecIx × Role} {a : Reservation} {h : Handle}
    (p : s.promotion m x = some (a, h)) : s.promoteRecord m x = State.handReport (.record h (some .live))
      (State.post none m (.live h a.set) a.owner (s.modReservation x.1 fun r => { r with state := .live })) := by
  obtain ⟨current, used, pending, frame, rfl⟩ := State.promotion_eq_some.mp p
  unfold State.promoteRecord
  rw [current, used]
  exact if_pos ⟨pending, frame⟩

theorem State.promoteRecord_of_none {m : Word} {s : State} {x : RecIx × Role} (p : s.promotion m x = none) :
    s.promoteRecord m x = s := by
  unfold State.promoteRecord
  split
  · rfl
  · next current =>
    split
    · rfl
    · next a used =>
      split
      · next early =>
        rw [State.promotion_eq_some.mpr ⟨current, used, early.1, early.2, rfl⟩] at p
        cases p
      · rfl

/-- The record after an entry that names it with role CURRENT. -/
def State.promotedRecord (m : Word) (s : State) (i : RecIx) : Record :=
  match s.promotion m (i, .current) with
  | some (a, _) => ⟨(s.pool.records.get i).gen, some { a with state := .live }⟩
  | none => s.pool.records.get i

theorem State.promoteRecord_record (m : Word) (s : State) (x : RecIx × Role) (i : RecIx) :
    (s.promoteRecord m x).pool.records.get i = if x = (i, .current) then s.promotedRecord m i else s.pool.records.get i := by
  cases p : s.promotion m x with
  | none =>
    rw [State.promoteRecord_of_none p]
    split
    · next e =>
      subst e
      unfold State.promotedRecord
      rw [p]
    · rfl
  | some y =>
    obtain ⟨a, h⟩ := y
    obtain ⟨current, used, -, -, -⟩ := State.promotion_eq_some.mp p
    have named : x.1 = i ↔ x = (i, .current) := ⟨fun e => Prod.ext e current, fun e => by rw [e]⟩
    have alloc : (s.pool.records.get x.1).alloc = some a := used
    rw [State.promoteRecord_of_some p, State.handReport_pool, State.post_pool, State.modReservation_pool]
    dsimp only
    rw [Table.get_modify, if_congr named rfl rfl]
    split
    · next e =>
      subst e
      unfold State.promotedRecord
      rw [p, alloc]
      rfl
    · rfl

/-- An entry leaves what the others will do. -/
theorem State.promoteRecord_promotion (m : Word) (s : State) {x y : RecIx × Role} (other : y ≠ x) :
    (s.promoteRecord m y).promotion m x = s.promotion m x := by
  unfold State.promotion
  split
  · next current =>
    have apart : ¬ y = (x.1, .current) := fun e => other (e.trans (Prod.ext rfl current.symm))
    rw [State.promoteRecord_record, if_neg apart]
  · rfl

theorem State.promoteRecord_frame (m : Word) (s : State) (x : RecIx × Role) : s.promoteRecord m x = { s with
    pool := { s.pool with records := (s.promoteRecord m x).pool.records }
    ports := (s.promoteRecord m x).ports
    reports := (s.promoteRecord m x).reports } := by
  cases p : s.promotion m x with
  | none => rw [State.promoteRecord_of_none p]
  | some y =>
    rw [State.promoteRecord_of_some p, State.post_frame]
    rfl

/-- The events of an entry at queue `q` (R34). -/
def promotionEvents (m : Word) (q : Port) (p : Option (Reservation × Handle)) : List Event :=
  p.elim [] fun x => eventIf (decide (x.1.owner = q)) m (.live x.2 x.1.set)

theorem State.promoteRecord_eventsBy (m : Word) (s : State) (x : RecIx × Role) :
    s.EventsBy (fun q => promotionEvents m q (s.promotion m x)) (s.promoteRecord m x) := by
  cases p : s.promotion m x with
  | none =>
    rw [State.promoteRecord_of_none p]
    exact State.EventsBy.refl s
  | some y =>
    rw [State.promoteRecord_of_some p]
    exact ((State.post_eventsBy none m (.live y.2 y.1.set) y.1.owner (s.modReservation x.1 fun r => { r with state := .live })).of_left
      fun q => ⟨rfl, rfl⟩).congr fun q => by simp [promotionEvents]

theorem State.promoteRecord_reports (m : Word) (s : State) (x : RecIx × Role) : (s.promoteRecord m x).reports = { s.reports with
    watch := s.reports.watch ++ (s.promotion m x).toList.map fun y => .record y.2 (some .live) } := by
  cases p : s.promotion m x with
  | none =>
    rw [State.promoteRecord_of_none p]
    simp
  | some y =>
    rw [State.promoteRecord_of_some p, State.handReport_reports, State.post_reports, State.modReservation_reports]
    rfl

/-! ## The entries in turn -/

section
variable (m : Word) (l : List (RecIx × Role))

theorem State.foldl_promoteRecord_frame (s : State) : l.foldl (State.promoteRecord m) s = { s with
    pool := { s.pool with records := (l.foldl (State.promoteRecord m) s).pool.records }
    ports := (l.foldl (State.promoteRecord m) s).ports
    reports := (l.foldl (State.promoteRecord m) s).reports } := by
  induction l generalizing s with
  | nil => rfl
  | cons x l ih =>
    rw [List.foldl_cons]
    refine (ih (s.promoteRecord m x)).trans ?_
    rw [State.promoteRecord_frame]

/-- What the entries after the first do, seen from before it. -/
theorem State.promoteRecord_filterMap {x : RecIx × Role} (fresh : x ∉ l) (s : State) :
    l.filterMap ((s.promoteRecord m x).promotion m) = l.filterMap (s.promotion m) :=
  List.filterMap_congr fun _ hy => State.promoteRecord_promotion m s fun e => fresh (e ▸ hy)

variable (nodup : l.Nodup)
include nodup

theorem State.foldl_promoteRecord_record (s : State) (i : RecIx) : (l.foldl (State.promoteRecord m) s).pool.records.get i =
    if (i, .current) ∈ l then s.promotedRecord m i else s.pool.records.get i := by
  induction l generalizing s with
  | nil => rfl
  | cons x l ih =>
    obtain ⟨fresh, nodup⟩ := List.nodup_cons.mp nodup
    rw [List.foldl_cons, ih nodup]
    by_cases e : x = (i, .current)
    · subst e
      rw [if_neg fresh, State.promoteRecord_record, if_pos rfl, if_pos List.mem_cons_self]
    · have same : (s.promoteRecord m x).promotedRecord m i = s.promotedRecord m i := by
        unfold State.promotedRecord
        rw [State.promoteRecord_promotion m s e, State.promoteRecord_record, if_neg e]
      rw [same, State.promoteRecord_record, if_neg e]
      simp [Ne.symm e]

theorem State.foldl_promoteRecord_eventsBy (s : State) :
    s.EventsBy (fun q => (l.filterMap (s.promotion m)).flatMap fun x => eventIf (decide (x.1.owner = q)) m (.live x.2 x.1.set))
      (l.foldl (State.promoteRecord m) s) := by
  induction l generalizing s with
  | nil => exact State.EventsBy.refl s
  | cons x l ih =>
    obtain ⟨fresh, nodup⟩ := List.nodup_cons.mp nodup
    refine ((State.promoteRecord_eventsBy m s x).trans (ih nodup (s.promoteRecord m x))).congr fun q => ?_
    rw [State.promoteRecord_filterMap m l fresh, List.filterMap_cons]
    cases s.promotion m x with
    | none => rfl
    | some y => rw [List.flatMap_cons]; rfl

theorem State.foldl_promoteRecord_reports (s : State) : (l.foldl (State.promoteRecord m) s).reports = { s.reports with
    watch := s.reports.watch ++ (l.filterMap (s.promotion m)).map fun x => .record x.2 (some .live) } := by
  induction l generalizing s with
  | nil => simp
  | cons x l ih =>
    obtain ⟨fresh, nodup⟩ := List.nodup_cons.mp nodup
    rw [List.foldl_cons, ih nodup, State.promoteRecord_filterMap m l fresh, State.promoteRecord_reports, List.filterMap_cons]
    cases s.promotion m x <;> simp

end

/-! ## One entry at the Move Unit -/

/-- Context `k`, where an entry of a promotion report starts its overlap (R114). -/
def State.starting (s : State) (x : RecIx × Role) (k : CtxIx) : Option MoveContext :=
  (s.moves.get k).filter fun c => decide (c.stage = .armed) && decide (x = (c.index, Role.target))

/-- The MOVE_STARTED of context `c` at queue `q`. -/
def State.startEvents (m : Word) (s : State) (q : Port) (c : MoveContext) : List Event :=
  eventIf (decide ((s.pool.records.get c.index).alloc.map Reservation.owner = some q)) m
    (.moveStarted ⟨BitVec.ofNat 8 c.index.val, c.gen⟩ c.tagField c.target)

theorem State.starting_eq_some {s : State} {x : RecIx × Role} {k : CtxIx} {c : MoveContext} : s.starting x k = some c ↔
    s.moves.get k = some c ∧ c.stage = .armed ∧ x = (c.index, .target) := by
  simp [State.starting, Option.filter_eq_some_iff]

theorem List.flatMap_eq_of_only {α β : Type} {l : List α} {f : α → List β} {a : α} (nodup : l.Nodup) (ha : a ∈ l)
    (only : ∀ b ∈ l, b ≠ a → f b = []) : l.flatMap f = f a := by
  obtain ⟨before, after, rfl⟩ := List.append_of_mem ha
  rw [List.nodup_middle, List.nodup_cons, List.mem_append, not_or] at nodup
  obtain ⟨⟨notBefore, notAfter⟩, -⟩ := nodup
  have first : before.flatMap f = [] := List.flatMap_eq_nil_iff.mpr fun b hb =>
    only b (List.mem_append_left _ hb) fun e => notBefore (e ▸ hb)
  have last : after.flatMap f = [] := List.flatMap_eq_nil_iff.mpr fun b hb =>
    only b (List.mem_append_right _ (List.mem_cons_of_mem _ hb)) fun e => notAfter (e ▸ hb)
  rw [List.flatMap_append, List.flatMap_cons, first, last, List.nil_append, List.append_nil]

theorem State.startOverlap_eventsBy (m : Word) {s : State} (apart : s.ContextsApart) (x : RecIx × Role) :
    s.EventsBy (fun q => allContexts.flatMap fun k => (s.starting x k).elim [] (s.startEvents m q)) (s.startOverlap m x) := by
  obtain ⟨i, role⟩ := x
  have silent (h : ∀ k, s.starting (i, role) k = none) (q : Port) :
      [] = allContexts.flatMap fun k => (s.starting (i, role) k).elim [] (s.startEvents m q) :=
    (List.flatMap_eq_nil_iff.mpr fun k _ => by rw [h]; rfl).symm
  cases role with
  | current =>
    refine (State.EventsBy.refl s).congr (silent fun k => ?_)
    rw [Option.eq_none_iff_forall_ne_some]
    rintro c hc
    cases (State.starting_eq_some.mp hc).2.2
  | target =>
    unfold State.startOverlap
    dsimp only
    split
    · next none =>
      refine (State.EventsBy.refl s).congr (silent fun k => ?_)
      rw [Option.eq_none_iff_forall_ne_some]
      rintro c hc
      obtain ⟨used, armed, named⟩ := State.starting_eq_some.mp hc
      exact State.armedContext_eq_none none used (Prod.mk.inj named).1.symm armed
    · next j c hj =>
      obtain ⟨used, index, armed⟩ := State.armedContext_some hj
      have start : s.starting (i, .target) j = some c := State.starting_eq_some.mpr ⟨used, armed, by rw [index]⟩
      have owners : (s.ownerOf c.index).toList.Nodup := by cases s.ownerOf c.index <;> simp
      refine ((State.postEach_eventsBy none m (.moveStarted (handleOf c.index c.gen) c.tagField c.target)
        (s.ownerOf c.index).toList (s.setMove j (some { c with stage := .overlap s.params.overlap m })) owners).of_left
        fun q => ⟨rfl, rfl⟩).congr fun q => ?_
      have one : (allContexts.flatMap fun k => (s.starting (i, .target) k).elim [] (s.startEvents m q)) = s.startEvents m q c := by
        refine (List.flatMap_eq_of_only (List.nodup_finRange 4) (List.mem_finRange j) fun k _ other => ?_).trans ?_
        · cases hk : s.starting (i, .target) k with
          | none => rfl
          | some d =>
            obtain ⟨used', -, named⟩ := State.starting_eq_some.mp hk
            exact absurd (apart k j d c used' used ((Prod.mk.inj named).1.symm.trans index.symm)) other
        · rw [start]
          rfl
      have owner : decide (q ∈ (s.ownerOf c.index).toList) =
          decide ((s.pool.records.get c.index).alloc.map Reservation.owner = some q) := by
        simp [State.ownerOf, State.reservation, Option.mem_toList]
      have heard : decide ((none : Option Port) ≠ some q) = true := by simp
      rw [one, owner, heard, Bool.and_true]
      rfl

/-- An entry leaves what the others will start. -/
theorem State.startOverlap_starting (m : Word) {s : State} (apart : s.ContextsApart) {x y : RecIx × Role} (other : y ≠ x)
    (k : CtxIx) : (s.startOverlap m y).starting x k = s.starting x k := by
  ext c
  rw [State.starting_eq_some, State.starting_eq_some, State.startOverlap_moves m apart]
  constructor
  · rintro ⟨after, armed, named⟩
    obtain ⟨d, used, rfl⟩ := Option.map_eq_some_iff.mp after
    unfold MoveContext.overlapsBy at armed named ⊢
    split at armed
    · cases armed
    · next unchanged =>
      rw [if_neg unchanged] at named ⊢
      exact ⟨used, armed, named⟩
  · rintro ⟨used, armed, named⟩
    have unlisted : ¬ ((c.index, Role.target) ∈ [y] ∧ c.stage = .armed) := by
      rintro ⟨listed, -⟩
      exact other ((List.mem_singleton.mp listed).symm.trans named.symm)
    exact ⟨by rw [used, Option.map_some, MoveContext.overlapsBy, if_neg unlisted], armed, named⟩

theorem State.startOverlap_frame (m : Word) (s : State) (x : RecIx × Role) : s.startOverlap m x = { s with
    moves := (s.startOverlap m x).moves, ports := (s.startOverlap m x).ports } := by
  unfold State.startOverlap
  split
  · rfl
  · split
    · rfl
    · rw [State.postEach_frame]
      rfl

section
variable (m : Word) (l : List (RecIx × Role))

theorem State.foldl_startOverlap_frame (s : State) : l.foldl (State.startOverlap m) s = { s with
    moves := (l.foldl (State.startOverlap m) s).moves, ports := (l.foldl (State.startOverlap m) s).ports } := by
  induction l generalizing s with
  | nil => rfl
  | cons x l ih =>
    rw [List.foldl_cons]
    refine (ih (s.startOverlap m x)).trans ?_
    rw [State.startOverlap_frame]

theorem State.foldl_startOverlap_eventsBy (nodup : l.Nodup) {s : State} (apart : s.ContextsApart) :
    s.EventsBy (fun q => l.flatMap fun x => allContexts.flatMap fun k => (s.starting x k).elim [] (s.startEvents m q))
      (l.foldl (State.startOverlap m) s) := by
  induction l generalizing s with
  | nil => exact State.EventsBy.refl s
  | cons x l ih =>
    obtain ⟨fresh, nodup⟩ := List.nodup_cons.mp nodup
    refine ((State.startOverlap_eventsBy m apart x).trans (ih nodup (State.startOverlap_apart m apart x))).congr fun q => ?_
    rw [List.flatMap_cons, List.flatMap_def (l := l), List.flatMap_def (l := l)]
    refine congrArg (HAppend.hAppend _) (congrArg List.flatten (List.map_congr_left fun y hy => ?_))
    have other : x ≠ y := fun e => fresh (e ▸ hy)
    unfold State.startEvents
    simp only [State.startOverlap_starting m apart other, State.startOverlap_pool]

end

/-- Settles O48: both reports are taken entry by entry, and no entry changes what another does. -/
theorem promotionReportsTaken : Obligations.PromotionReportsTaken := by
  refine ⟨fun s r rest high pool nodup => ?_, fun s r rest high move nodup agree => ?_⟩
  · let u : State := { s with reports := { s.reports with pool := rest } }
    let t := r.promoted.foldl (State.promoteRecord r.mark) u
    have reports := State.foldl_promoteRecord_reports r.mark r.promoted nodup u
    refine ⟨t, next_congr ?_, fun i => ?_, State.foldl_promoteRecord_eventsBy r.mark r.promoted nodup u,
      fun q => State.foldl_others (State.promoteRecord r.mark) q (fun t x => State.promoteRecord_others r.mark t x q) r.promoted u,
      reports, State.foldl_promoteRecord_frame r.mark r.promoted u⟩
    · rw [high]
      exact State.poolTakeReport_of_cons pool
    · refine (State.foldl_promoteRecord_record r.mark r.promoted nodup u i).trans ?_
      change (if (i, Role.current) ∈ r.promoted then u.promotedRecord r.mark i else s.pool.records.get i) =
        match u.promotion r.mark (i, .current) with
        | some (a, _) => if (i, Role.current) ∈ r.promoted
          then ⟨(s.pool.records.get i).gen, some { a with state := .live }⟩ else s.pool.records.get i
        | none => s.pool.records.get i
      unfold State.promotedRecord
      cases u.promotion r.mark (i, .current) with
      | none => exact ite_self _
      | some x => rfl
  · let u : State := { s with reports := { s.reports with move := rest } }
    have apart : u.ContextsApart := agree.contextsApart
    let t := r.promoted.foldl (State.startOverlap r.mark) u
    refine ⟨t, next_congr ?_, fun k => ?_, State.foldl_startOverlap_eventsBy r.mark r.promoted nodup apart,
      fun q => State.foldl_others (State.startOverlap r.mark) q (fun t x => State.startOverlap_others r.mark t x q) r.promoted u,
      State.foldl_startOverlap_frame r.mark r.promoted u⟩
    · rw [high]
      exact State.moveTakeReport_of_cons move
    · rw [State.foldl_startOverlap_moves r.mark r.promoted apart]
      refine congrArg (Option.map · (s.moves.get k)) (funext fun c => ?_)
      exact if_congr and_comm rfl rfl

end Sys2Proof.Machine
end

section
/-! PROOFS. The Lease Counter's reaction to a frame mark (R20, R36, R37, R95 to R97, R118). -/

namespace Sys2Proof.Machine

/-! ## One record -/

/-- The lease after a mark that does not end it (R95, R96). -/
def Lease.counted (warn : Nat) (l : Lease) : Lease :=
  ⟨l.length, l.remaining - 1,
    l.warned || (decide (l.remaining - 1 = warn) && decide (warn ≠ 0) && decide (warn < l.length))⟩

/-- The record after a mark: freed where its lease ends (R36, R95, R97). -/
def Record.counted (warn : Nat) (r : Record) : Record :=
  match r.alloc with
  | none => r
  | some a =>
    match a.lease with
    | none => r
    | some l => if l.remaining ≤ 1 then ⟨r.gen + 1#8, none⟩ else ⟨r.gen, some { a with lease := some (l.counted warn) }⟩

/-- The next mark ends the lease of the record (R97). -/
def Record.expiring (r : Record) : Bool :=
  (r.alloc.bind Reservation.lease).any fun l => decide (l.remaining ≤ 1)

theorem Lease.warned_counted (warn : Nat) (l : Lease) :
    (⟨l.length, l.remaining - 1, l.warned || l.warns warn (l.remaining - 1)⟩ : Lease) = l.counted warn := by
  unfold Lease.counted Lease.warns
  cases l.warned <;> simp

section
variable {m : Word} {i : RecIx} {a : Reservation} {l : Lease} {s : State}

theorem State.countLease_of_unleased (h : (s.pool.records.get i).alloc.bind Reservation.lease = none) : s.countLease m i = s := by
  unfold State.countLease State.reservation
  cases alloc : (s.pool.records.get i).alloc with
  | none => rfl
  | some a =>
    rw [alloc, Option.bind_some] at h
    dsimp only
    rw [h]

variable (alloc : (s.pool.records.get i).alloc = some a) (leased : a.lease = some l)
include alloc leased

/-- A lease that does not end is counted, and its owner warned where it falls to LEASE_WARN (R95, R96). -/
theorem State.countLease_of_left (left : 1 < l.remaining) : s.countLease m i =
    if l.warns s.params.leaseWarn (l.remaining - 1) then
      State.post none m (.leaseLow (handleOf i (s.pool.records.get i).gen) (l.remaining - 1)) a.owner
        (s.modReservation i fun r => { r with lease := some (l.counted s.params.leaseWarn) })
    else s.modReservation i fun r => { r with lease := some (l.counted s.params.leaseWarn) } := by
  have some_left : l.remaining - 1 ≠ 0 := by omega
  unfold State.countLease State.reservation
  rw [alloc]
  dsimp only
  rw [leased]
  dsimp only
  rw [Lease.warned_counted, if_neg some_left]

/-- A lease that ends is counted to 0, never warned of, and its record released (R97). -/
theorem State.countLease_of_end (ends : l.remaining ≤ 1) : s.countLease m i =
    (s.modReservation i fun r => { r with lease := some (l.counted s.params.leaseWarn) }).releaseRecord i .expiry none := by
  have none_left : l.remaining - 1 = 0 := by omega
  have silent : l.warns s.params.leaseWarn (l.remaining - 1) = false := by
    rw [none_left, Lease.warns]
    cases s.params.leaseWarn <;> simp
  unfold State.countLease State.reservation
  rw [alloc]
  dsimp only
  rw [leased]
  dsimp only
  rw [Lease.warned_counted, if_pos none_left, silent]
  rfl

omit leased in
/-- The reservation whose lease was counted. -/
theorem State.counted_reservation :
    (s.modReservation i fun r => { r with lease := some (l.counted s.params.leaseWarn) }).reservation i =
      some { a with lease := some (l.counted s.params.leaseWarn) } := by
  rw [State.reservation, State.modReservation_pool]
  dsimp only
  rw [Table.get_modify_self, alloc]
  rfl

end

/-- What a mark can do at a record. -/
theorem State.countLease_cases (m : Word) (i : RecIx) (s : State) :
    ((s.pool.records.get i).alloc.bind Reservation.lease = none ∧ s.countLease m i = s) ∨
    ∃ a l, (s.pool.records.get i).alloc = some a ∧ a.lease = some l := by
  cases alloc : (s.pool.records.get i).alloc with
  | none => exact .inl ⟨rfl, State.countLease_of_unleased (by rw [alloc]; rfl)⟩
  | some a =>
    cases leased : a.lease with
    | none => exact .inl ⟨leased, State.countLease_of_unleased (by rw [alloc]; exact leased)⟩
    | some l => exact .inr ⟨a, l, rfl, leased⟩

theorem Record.counted_of_unleased {warn : Nat} {r : Record} (h : r.alloc.bind Reservation.lease = none) : r.counted warn = r := by
  unfold Record.counted
  cases alloc : r.alloc with
  | none => rfl
  | some a =>
    rw [alloc, Option.bind_some] at h
    dsimp only
    rw [h]

theorem Record.counted_of_leased {warn : Nat} {r : Record} {a : Reservation} {l : Lease} (alloc : r.alloc = some a)
    (leased : a.lease = some l) : r.counted warn =
      if l.remaining ≤ 1 then ⟨r.gen + 1#8, none⟩ else ⟨r.gen, some { a with lease := some (l.counted warn) }⟩ := by
  unfold Record.counted
  rw [alloc]
  dsimp only
  rw [leased]

theorem Record.expiring_of_leased {r : Record} {a : Reservation} {l : Lease} (alloc : r.alloc = some a)
    (leased : a.lease = some l) : r.expiring = decide (l.remaining ≤ 1) := by
  rw [Record.expiring, alloc, Option.bind_some, leased]
  rfl

/-- The pool after a mark at record `i`. -/
theorem State.countLease_records (m : Word) (i : RecIx) (s : State) :
    (s.countLease m i).pool.records = s.pool.records.set i ((s.pool.records.get i).counted s.params.leaseWarn) ∧
      (s.countLease m i).pool.fifo = s.pool.fifo ++ if (s.pool.records.get i).expiring then [i] else [] := by
  rcases State.countLease_cases m i s with ⟨unleased, e⟩ | ⟨a, l, alloc, leased⟩
  · rw [e, Record.counted_of_unleased unleased, Table.set_of_get rfl, Record.expiring, unleased]
    simp
  · rw [Record.counted_of_leased alloc leased, Record.expiring_of_leased alloc leased]
    by_cases ends : l.remaining ≤ 1
    · rw [State.countLease_of_end alloc leased ends, State.releaseRecord_pool .expiry none (State.counted_reservation alloc),
        if_pos ends, decide_eq_true ends]
      refine ⟨?_, rfl⟩
      rw [State.modReservation_pool]
      ext j
      by_cases same : i = j
      · subst same
        simp
      · simp [Table.get_set_ne _ _ same, Table.get_modify_ne _ _ same]
    · rw [if_neg ends, decide_eq_false ends, State.countLease_of_left alloc leased (by omega)]
      have counted : (s.modReservation i fun r => { r with lease := some (l.counted s.params.leaseWarn) }).pool.records =
          s.pool.records.set i ⟨(s.pool.records.get i).gen, some { a with lease := some (l.counted s.params.leaseWarn) }⟩ := by
        rw [State.modReservation_pool, Table.modify_eq_set, alloc]
        rfl
      split
      · rw [State.post_pool]
        exact ⟨counted, (List.append_nil _).symm⟩
      · exact ⟨counted, (List.append_nil _).symm⟩

/-! ## What the reaction leaves unchanged -/

/-- What no mark changes at the Lease Counter: the image and the carry list, the engine but for the request, the reports but for
those to the watch units, and of a port all but its events and its holdings. -/
structure State.SameButLeases (s t : State) : Prop where
  map : t.map.image = s.map.image ∧ t.map.imageMark = s.map.imageMark ∧ t.map.carry = s.map.carry
  engine : t.engine = { s.engine with waitReq := t.engine.waitReq }
  reports : t.reports = { s.reports with watch := t.reports.watch }
  ports : ∀ q, t.ports.get q = { s.ports.get q with
    events := (t.ports.get q).events
    lost := (t.ports.get q).lost
    ownedSlots := (t.ports.get q).ownedSlots
    ownedRecords := (t.ports.get q).ownedRecords }

theorem State.SameButLeases.refl (s : State) : s.SameButLeases s := ⟨⟨rfl, rfl, rfl⟩, rfl, rfl, fun _ => rfl⟩

theorem State.SameButLeases.trans {s t u : State} (h : s.SameButLeases t) (g : t.SameButLeases u) : s.SameButLeases u where
  map := ⟨g.map.1.trans h.map.1, g.map.2.1.trans h.map.2.1, g.map.2.2.trans h.map.2.2⟩
  engine := g.engine.trans (by rw [h.engine])
  reports := g.reports.trans (by rw [h.reports])
  ports q := (g.ports q).trans (by rw [h.ports q])

theorem State.releaseRecord_sameButLeases {i : RecIx} {a : Reservation} (cause : Cause) (releasing : Option Port) {s : State}
    (used : s.reservation i = some a) : s.SameButLeases (s.releaseRecord i cause releasing) where
  map := by rw [State.releaseRecord_map cause releasing used]; exact ⟨rfl, rfl, rfl⟩
  engine := by rw [State.releaseRecord_engine cause releasing used]
  reports := by rw [State.releaseRecord_reports cause releasing used]
  ports q := by rw [State.releaseRecord_others q cause releasing used]

theorem State.countLease_sameButLeases (m : Word) (i : RecIx) (s : State) : s.SameButLeases (s.countLease m i) := by
  rcases State.countLease_cases m i s with ⟨-, e⟩ | ⟨a, l, alloc, leased⟩
  · rw [e]
    exact .refl s
  · by_cases ends : l.remaining ≤ 1
    · rw [State.countLease_of_end alloc leased ends]
      have counted : s.SameButLeases (s.modReservation i fun r => { r with lease := some (l.counted s.params.leaseWarn) }) :=
        ⟨⟨rfl, rfl, rfl⟩, rfl, rfl, fun _ => rfl⟩
      exact counted.trans (State.releaseRecord_sameButLeases .expiry none (State.counted_reservation alloc))
    · rw [State.countLease_of_left alloc leased (by omega)]
      split
      · exact ⟨by rw [State.post_map]; exact ⟨rfl, rfl, rfl⟩, by rw [State.post_engine]; rfl, by rw [State.post_reports]; rfl,
          fun q => by rw [State.post_others]; rfl⟩
      · exact ⟨⟨rfl, rfl, rfl⟩, rfl, rfl, fun _ => rfl⟩

theorem State.leaseReaction_sameButLeases (m : Word) (s : State) : s.SameButLeases (s.leaseReaction m) :=
  State.foldl_invariant (P := s.SameButLeases) (State.countLease m)
    (fun t i h => h.trans (State.countLease_sameButLeases m i t)) allRecords (.refl s)

/-! ## The records in turn -/

section
variable (m : Word) (l : List RecIx) (nodup : l.Nodup)
include nodup

theorem State.foldl_countLease_records (s : State) (i : RecIx) : (l.foldl (State.countLease m) s).pool.records.get i =
    if i ∈ l then (s.pool.records.get i).counted s.params.leaseWarn else s.pool.records.get i := by
  induction l generalizing s with
  | nil => rfl
  | cons j l ih =>
    obtain ⟨fresh, nodup⟩ := List.nodup_cons.mp nodup
    rw [List.foldl_cons, ih nodup, (State.countLease_records m j s).1, State.countLease_params]
    by_cases e : i = j
    · subst e
      simp [fresh]
    · rw [Table.get_set_ne _ _ (Ne.symm e)]
      simp [e]

omit nodup in
theorem State.leaseReaction_records (s : State) (i : RecIx) :
    (s.leaseReaction m).pool.records.get i = (s.pool.records.get i).counted s.params.leaseWarn := by
  rw [State.leaseReaction, State.foldl_countLease_records m allRecords (List.nodup_finRange 192)]
  exact if_pos (List.mem_finRange i)

theorem State.foldl_countLease_fifo (s : State) : (l.foldl (State.countLease m) s).pool.fifo =
    s.pool.fifo ++ l.filter fun i => (s.pool.records.get i).expiring := by
  induction l generalizing s with
  | nil => simp
  | cons j l ih =>
    obtain ⟨fresh, nodup⟩ := List.nodup_cons.mp nodup
    have later : (l.filter fun i => ((s.countLease m j).pool.records.get i).expiring) =
        l.filter fun i => (s.pool.records.get i).expiring := List.filter_congr fun i hi => by
      rw [(State.countLease_records m j s).1, Table.get_set_ne _ _ fun e => fresh (by rw [e]; exact hi)]
    rw [List.foldl_cons, ih nodup, later, (State.countLease_records m j s).2, List.filter_cons]
    split <;> simp

end

theorem State.leaseReaction_fifo (m : Word) (s : State) : (s.leaseReaction m).pool.fifo =
    s.pool.fifo ++ (List.finRange 192).filter fun i =>
      ((s.pool.records.get i).alloc.bind Reservation.lease).any fun l => decide (l.remaining ≤ 1) := by
  have nodup : allRecords.Nodup := List.nodup_finRange 192
  rw [State.leaseReaction, State.foldl_countLease_fifo m allRecords nodup]
  rfl

/-- Slot `j` lies in no set and no target of a record of `l` whose lease ends. -/
def State.UntouchedBy (l : List RecIx) (j : SlotIx) (s : State) : Prop :=
  ∀ i ∈ l, ∀ a x, (s.pool.records.get i).alloc = some a → a.lease = some x → x.remaining ≤ 1 →
    inSet (a.set ++ s.targetOf a) j.val = false

theorem inSet_append (xs ys : List Run) (j : Nat) : inSet (xs ++ ys) j = (inSet xs j || inSet ys j) := by
  simp [inSet]

/-- A context keeps its target until it is freed. -/
theorem State.targetOf_of_fewer {s t : State} (fewer : ∀ k, t.moves.get k = s.moves.get k ∨ t.moves.get k = none)
    (a : Reservation) : t.targetOf a = s.targetOf a ∨ t.targetOf a = [] := by
  cases now : t.contextOf a with
  | none => exact .inr (by rw [State.targetOf, now])
  | some x =>
    obtain ⟨k, c⟩ := x
    obtain ⟨moving, context, used⟩ := State.contextOf_eq_some.mp now
    rcases fewer k with same | free
    · have before := State.contextOf_eq_some.mpr ⟨moving, context, same ▸ used⟩
      exact .inl (by rw [State.targetOf, now, State.targetOf, before])
    · rw [free] at used
      cases used

theorem State.countLease_moves (m : Word) (i : RecIx) (s : State) (k : CtxIx) :
    (s.countLease m i).moves.get k = s.moves.get k ∨ (s.countLease m i).moves.get k = none := by
  rcases State.countLease_cases m i s with ⟨-, e⟩ | ⟨a, l, alloc, leased⟩
  · rw [e]
    exact .inl rfl
  · by_cases ends : l.remaining ≤ 1
    · rw [State.countLease_of_end alloc leased ends, State.releaseRecord_moves .expiry none (State.counted_reservation alloc)]
      split
      · rw [Table.get_set]
        split
        · exact .inr rfl
        · exact .inl rfl
      · exact .inl rfl
    · rw [State.countLease_of_left alloc leased (by omega)]
      split
      · rw [State.post_moves]
        exact .inl rfl
      · exact .inl rfl

theorem State.UntouchedBy.countLease_entry {m : Word} {i : RecIx} {l : List RecIx} {j : SlotIx} {s : State}
    (h : s.UntouchedBy (i :: l) j) : (s.countLease m i).map.entries.get j = s.map.entries.get j := by
  rcases State.countLease_cases m i s with ⟨-, e⟩ | ⟨a, x, alloc, leased⟩
  · rw [e]
  · by_cases ends : x.remaining ≤ 1
    · have outside := h i List.mem_cons_self a x alloc leased ends
      rw [State.countLease_of_end alloc leased ends, State.releaseRecord_map .expiry none (State.counted_reservation alloc),
        SlotMap.rewrite_entries]
      exact giveUpSlot_outside _ outside _
    · rw [State.countLease_of_left alloc leased (by omega)]
      split
      · rw [State.post_map]
        rfl
      · rfl

theorem State.UntouchedBy.countLease {m : Word} {i : RecIx} {l : List RecIx} {j : SlotIx} {s : State} (fresh : i ∉ l)
    (h : s.UntouchedBy (i :: l) j) : (s.countLease m i).UntouchedBy l j := by
  intro k hk a x alloc leased ends
  rw [(State.countLease_records m i s).1, Table.get_set_ne _ _ fun e => fresh (by rw [e]; exact hk)] at alloc
  have outside := h k (List.mem_cons_of_mem i hk) a x alloc leased ends
  rw [inSet_append, Bool.or_eq_false_iff] at outside ⊢
  refine ⟨outside.1, ?_⟩
  rcases State.targetOf_of_fewer (State.countLease_moves m i s) a with same | none
  · rw [same]
    exact outside.2
  · rw [none]
    rfl

theorem State.UntouchedBy.foldl_entry {m : Word} {l : List RecIx} (nodup : l.Nodup) {j : SlotIx} {s : State}
    (h : s.UntouchedBy l j) : (l.foldl (State.countLease m) s).map.entries.get j = s.map.entries.get j := by
  induction l generalizing s with
  | nil => rfl
  | cons i l ih =>
    obtain ⟨fresh, nodup⟩ := List.nodup_cons.mp nodup
    rw [List.foldl_cons, ih nodup (h.countLease fresh), h.countLease_entry]

/-! ## One leased record -/

theorem State.foldl_countLease_of_unleased (m : Word) (l : List RecIx) {s : State}
    (h : ∀ i ∈ l, (s.pool.records.get i).alloc.bind Reservation.lease = none) : l.foldl (State.countLease m) s = s := by
  induction l with
  | nil => rfl
  | cons i l ih =>
    rw [List.foldl_cons, State.countLease_of_unleased (h i List.mem_cons_self)]
    exact ih fun j hj => h j (List.mem_cons_of_mem i hj)

/-- With one leased record the reaction is what the mark does at it. -/
theorem State.leaseReaction_of_only (m : Word) {i : RecIx} {s : State}
    (only : ∀ j, j ≠ i → (s.pool.records.get j).alloc.bind Reservation.lease = none) : s.leaseReaction m = s.countLease m i := by
  obtain ⟨before, after, split⟩ := List.append_of_mem (List.mem_finRange i)
  have nodup := List.nodup_finRange 192
  rw [split, List.nodup_middle, List.nodup_cons, List.mem_append, not_or] at nodup
  obtain ⟨⟨notBefore, notAfter⟩, -⟩ := nodup
  have none_before : before.foldl (State.countLease m) s = s :=
    State.foldl_countLease_of_unleased m before fun j hj => only j fun e => notBefore (e ▸ hj)
  rw [State.leaseReaction, allRecords, split, List.foldl_append, none_before, List.foldl_cons]
  refine State.foldl_countLease_of_unleased m after fun j hj => ?_
  have other : j ≠ i := fun e => notAfter (e ▸ hj)
  rw [(State.countLease_records m i s).1, Table.get_set_ne _ _ (Ne.symm other)]
  exact only j other

/-- The events of an expiry, in the terms of R37: nobody is mute, and nobody releases. -/
theorem State.releaseEvents_of_expiry (i : RecIx) (a : Reservation) (s : State) (q : Port) :
    s.releaseEvents i a .expiry none q =
      eventIf ((s.ports.get q).attrs.notices && !(heldBarred s.map.entries.get (a.set ++ s.targetOf a)).isEmpty) s.now
          (.barDone (heldBarred s.map.entries.get (a.set ++ s.targetOf a)).length
            (barDoneSet (heldBarred s.map.entries.get (a.set ++ s.targetOf a)))) ++
        eventIf (s.foundLive a && decide (q = a.owner)) s.now (.live (handleOf i (s.pool.records.get i).gen) a.set) ++
        (match s.contextOf a with
          | some (_, c) => eventIf (decide (c.requesterPort = some q)) s.now
              (.moveAbandoned (handleOf i (s.pool.records.get i).gen) c.tagField c.target .released)
          | none => []) ++
        eventIf (decide (q = a.owner)) s.now (.expired (handleOf i (s.pool.records.get i).gen) a.set) ++
        eventIf ((s.ports.get q).attrs.notices && s.recoveryAfterFreeing) s.now (.poolRecovered (s.freeRecords + 1)) := by
  have abandoned (h : Handle) : releasedEvents none s.now h (s.contextOf a) q = match s.contextOf a with
      | some (_, c) => eventIf (decide (c.requesterPort = some q)) s.now (.moveAbandoned h c.tagField c.target .released)
      | none => [] := by
    unfold releasedEvents
    cases s.contextOf a with
    | none => rfl
    | some x => simp
  have expired (h : Handle) : causeEvents .expiry none s.now h a q = eventIf (decide (q = a.owner)) s.now (.expired h a.set) := by
    simp [causeEvents, eq_comm]
  unfold State.releaseEvents
  dsimp only
  rw [expired, abandoned, State.releaseClaim, giveUpSlot_bars]
  simp [heldBarred, muteOf, eq_comm]

section
variable {m : Word} {rest : List Word} {s : State} (high : s.resetLow = false) (locked : s.timing.sync = .locked)
  (marks : s.marks.lease = m :: rest)
include high locked marks

theorem State.leaseTakeMark_taken : s.leaseTakeMark = State.leaseReaction m { s with marks := { s.marks with lease := rest } } :=
  State.leaseTakeMark_of_cons ((State.takesMarks_iff s).mpr ⟨high, locked⟩) marks

theorem exec_leaseExpiry_of_end {i : RecIx} {a : Reservation} {l : Lease} (alloc : (s.pool.records.get i).alloc = some a)
    (leased : a.lease = some l) (ends : l.remaining ≤ 1) : exec (.leaseExpiry i) s =
      .next (State.leaseReaction m { s with marks := { s.marks with lease := rest } }) := by
  have near : s.leaseNearEnd i = true := by
    rw [State.leaseNearEnd, State.reservation, alloc, Option.any_some, leased, Option.any_some]
    exact decide_eq_true ends
  refine next_congr ?_
  rw [near, if_pos rfl, State.leaseTakeMark_taken high locked marks]

end

/-- Settles O49: the records count in turn, and a lease that ends runs the release procedure. -/
theorem leaseCounterReaction : Obligations.LeaseCounterReaction := by
  have nodup : allRecords.Nodup := List.nodup_finRange 192
  refine ⟨fun s m rest high locked marks => ?_, fun s m rest i a l high locked marks alloc leased only => ?_⟩
  · let u : State := { s with marks := { s.marks with lease := rest } }
    have same := State.leaseReaction_sameButLeases m u
    have records (i : RecIx) : (u.leaseReaction m).pool.records.get i = (s.pool.records.get i).counted s.params.leaseWarn :=
      State.leaseReaction_records m u i
    refine ⟨u.leaseReaction m, next_congr (State.leaseTakeMark_taken high locked marks),
      fun i a l alloc leased ends => exec_leaseExpiry_of_end high locked marks alloc leased ends, fun i unleased => ?_,
      fun i a l alloc leased => ?_, State.leaseReaction_fifo m u, fun j untouched => ?_, same.ports,
      State.leaseReaction_marks m u, ⟨same.map.1, same.map.2.1, State.leaseReaction_timing m u⟩, same.map.2.2, same.engine,
      same.reports, State.leaseReaction_waits m u, State.leaseReaction_units m u, State.leaseReaction_params m u,
      (State.leaseReaction_resetLow m u).trans high⟩
    · rw [records, Record.counted_of_unleased unleased]
    · rw [records, Record.counted_of_leased alloc leased]
      rfl
    · have apart : u.UntouchedBy allRecords j := fun i _ a x alloc leased ends => untouched i a x alloc leased ends
      rw [State.leaseReaction, apart.foldl_entry nodup]
  · let u : State := { s with marks := { s.marks with lease := rest } }
    have reaction : u.leaseReaction m = u.countLease m i := State.leaseReaction_of_only m only
    let v := u.modReservation i fun r => { r with lease := some (l.counted s.params.leaseWarn) }
    refine ⟨fun left => ?_, fun ends => ?_⟩
    · have counted := State.countLease_of_left (m := m) (s := u) alloc leased left
      refine ⟨_, next_congr ((State.leaseTakeMark_taken high locked marks).trans (reaction.trans counted)), ?_⟩
      have warns : l.warns u.params.leaseWarn (l.remaining - 1) = (decide (l.remaining - 1 = s.params.leaseWarn) &&
          decide (s.params.leaseWarn < l.length) && !l.warned) := by
        have some_left : l.remaining - 1 ≠ 0 := by omega
        unfold Lease.warns
        by_cases e : l.remaining - 1 = s.params.leaseWarn
        · simp [u, ← e, some_left]
        · simp [u, e]
      split
      · next w =>
        rw [warns] at w
        refine ⟨(State.post_eventsBy none m _ a.owner v).congr fun q => ?_, State.post_map _ _ _ _ _, State.post_engine _ _ _ _ _,
          State.post_moves _ _ _ _ _, State.post_reports _ _ _ _ _⟩
        rw [Bool.and_assoc, Bool.and_assoc, ← Bool.and_assoc (decide (_ = _)) (decide (_ < _)), w]
        simp [eq_comm]
        rfl
      · next w =>
        rw [warns, Bool.not_eq_true] at w
        refine ⟨(State.EventsBy.refl s).congr fun q => ?_, rfl, rfl, rfl, rfl⟩
        rw [Bool.and_assoc, Bool.and_assoc, ← Bool.and_assoc (decide (_ = _)) (decide (_ < _)), w]
        simp
    · let b : Reservation := { a with lease := some (l.counted s.params.leaseWarn) }
      have used : v.reservation i = some b := State.counted_reservation (s := u) alloc
      have counted : u.countLease m i = v.releaseRecord i .expiry none := State.countLease_of_end (s := u) alloc leased ends
      have gen : (v.pool.records.get i).gen = (s.pool.records.get i).gen := by
        exact (congrArg Record.gen (Table.get_modify_self _ _ _) :)
      have released := State.releaseRecord_released .expiry none used
      have pool := State.releaseRecord_pool .expiry none used
      have reports := State.releaseRecord_slotReport .expiry none used
      have owner := State.releaseRecord_others a.owner .expiry none used
      rw [gen] at reports
      refine ⟨v.releaseRecord i .expiry none,
        (exec_leaseExpiry_of_end high locked marks alloc leased ends).trans (next_congr (reaction.trans counted)), released.1, ?_,
        (congrArg RecordPool.fifo pool :), State.releaseRecord_engine .expiry none used, reports, (congrArg RecordPool.warnArmed pool :),
        ⟨(congrArg ClientPort.ownedSlots owner :).trans (if_pos rfl), (congrArg ClientPort.ownedRecords owner :).trans (if_pos rfl)⟩,
        (State.releaseRecord_eventsBy .expiry none used).congr fun q => ?_⟩
      · rw [pool]
        exact (Table.get_set_self _ _ _).trans (by rw [gen])
      · rw [State.releaseEvents_of_expiry, State.foundLive_eq, gen]
        rfl

end Sys2Proof.Machine
end

section
/-! PROOFS. BAR: the bar claim, and the abandonment of the offered moves it marks (R8, R11, R12, R19, R20, R117, R119, R175). -/

namespace Sys2Proof.Machine

/-! ## The bar claim -/

theorem State.claim_bar (mute : Option Port) (r : Run) (s : State) : s.claim mute (barSlot r) = { s with
    map := s.map.rewrite (barSlot r)
    reports := { s.reports with
      watch := s.reports.watch ++ slotReport s.map.entries.get (s.map.rewrite (barSlot r)).entries.get } } :=
  State.claim_of_silent mute (barSlot_no_bar _ _) (barSlot_no_free _ _)

/-- The entry of slot `j` after the bar claim (R11). -/
def State.markedSlot (r : Run) (s : State) (j : SlotIx) : Slot :=
  if r.first ≤ j.val ∧ j.val < r.first + r.len then
    match s.map.entries.get j with
    | .free => .barred
    | .held i role armed _ => .held i role armed true
    | .live i role _ => .live i role true
    | .draining n _ => .draining n true
    | .barred => .barred
  else s.map.entries.get j

theorem State.markedSlot_eq (r : Run) (s : State) (j : SlotIx) : barSlot r j.val (s.map.entries.get j) = s.markedSlot r j := by
  unfold barSlot State.markedSlot
  refine if_congr (by simp [Run.has]) ?_ rfl
  cases s.map.entries.get j <;> rfl

/-! ## The moves that the run marks -/

/-- The move of context `k`, where it is OFFERED and the run marks its target (R119). -/
def State.markedOffer (r : Run) (s : State) (k : CtxIx) : Option MoveContext :=
  (s.moves.get k).filter fun c =>
    (match c.stage with
      | .offered _ => true
      | _ => false) &&
    c.target.any fun q => decide (q.first < r.first + r.len) && decide (r.first < q.first + q.len)

theorem State.markedOffer_used {r : Run} {s : State} {k : CtxIx} {c : MoveContext} (h : s.markedOffer r k = some c) :
    s.moves.get k = some c := (Option.filter_eq_some_iff.mp h).1

theorem State.offersMarked_eq (r : Run) (s : State) :
    s.offersMarked r = allContexts.filter fun k => (s.markedOffer r k).isSome := by
  refine List.filter_congr fun k _ => ?_
  unfold State.markedOffer
  cases s.moves.get k with
  | none => rfl
  | some c =>
    have meets (q : Run) : r.meets q = (decide (q.first < r.first + r.len) && decide (r.first < q.first + q.len)) := by
      rw [Run.meets, Run.disjoint, Bool.eq_iff_iff]
      simp
    have isSome (p : MoveContext → Bool) : (Option.filter p (some c)).isSome = p c := by
      rw [Option.filter]
      split <;> simp_all
    dsimp only
    rw [isSome, funext meets]
    unfold MoveContext.isOffered
    cases c.stage <;> rfl

/-- The record of an abandoned move (R35). -/
def Record.live (r : Record) : Record :=
  { r with alloc := r.alloc.map fun a => { a with state := .live, context := none } }

theorem Record.live_live (r : Record) : r.live.live = r.live := by
  simp [Record.live, Function.comp_def]

/-- The contexts below `n`. -/
def firstContexts (n : Nat) : List CtxIx := (List.finRange 4).filter fun o => decide (o.val < n)

theorem firstContexts_succ (k : CtxIx) : firstContexts (k.val + 1) = firstContexts k.val ++ [k] := by
  revert k
  decide

section
variable (r : Run) (s : State)

/-- The entries once the marked moves of the contexts below `n` are abandoned. -/
def State.barEntry (n : Nat) (j : SlotIx) : Slot :=
  giveUpSlot s.params.guard ((firstContexts n).flatMap fun o => (s.markedOffer r o).elim [] MoveContext.target) j.val
    (s.markedSlot r j)

/-- The events of the abandonment at context `k`, at queue `q` (R12, R117). -/
def State.barEvents (q : Port) (k : CtxIx) : List Event :=
  (s.markedOffer r k).elim [] fun c =>
    let bars := heldBarred (s.barEntry r k.val) c.target
    eventIf ((s.ports.get q).attrs.notices && !bars.isEmpty) s.timing.frameCounter (.barDone bars.length (barDoneSet bars)) ++
      eventIf (decide ((s.pool.records.get c.index).alloc.map Reservation.owner = some q) ||
        decide (c.requesterPort = some q)) s.timing.frameCounter
        (.moveAbandoned ⟨BitVec.ofNat 8 c.index.val, c.gen⟩ c.tagField c.target .slotBarred)

/-- The reports of the abandonment at context `k` (R20). -/
def State.barReports (k : CtxIx) : List Report :=
  (s.markedOffer r k).elim [] fun c =>
    slotReport (s.barEntry r k.val) (s.barEntry r (k.val + 1)) ++
      [.record ⟨BitVec.ofNat 8 c.index.val, c.gen⟩ (some .live)]

/-- The abandonment at context `k` frees a slot (R19). -/
def State.barFrees (k : CtxIx) : Bool :=
  (s.markedOffer r k).elim false fun c => heldFreed (s.barEntry r k.val) c.target

/-- The part once the run is marked and the marked moves of the contexts below `n` are abandoned. -/
structure State.BarredUpTo (n : Nat) (t : State) : Prop where
  entries : t.map.entries.get = s.barEntry r n
  moves : ∀ k, t.moves.get k = if k.val < n ∧ (s.markedOffer r k).isSome then none else s.moves.get k
  records : ∀ k c, k.val < n → s.markedOffer r k = some c → t.pool.records.get c.index = (s.pool.records.get c.index).live
  otherRecords : ∀ i, (∀ k c, k.val < n → s.markedOffer r k = some c → c.index ≠ i) →
    t.pool.records.get i = s.pool.records.get i
  owners : ∀ i, t.ownerOf i = s.ownerOf i
  ports : ∀ q, t.ports.get q = { s.ports.get q with events := (t.ports.get q).events, lost := (t.ports.get q).lost }
  events : s.EventsBy (fun q => (firstContexts n).flatMap (s.barEvents r q)) t
  reports : t.reports = { s.reports with
    watch := s.reports.watch ++ slotReport s.map.entries.get (s.barEntry r 0) ++ (firstContexts n).flatMap (s.barReports r) }
  engine : t.engine = { s.engine with waitReq := s.engine.waitReq || (firstContexts n).any (s.barFrees r) }
  map : t.map.image = s.map.image ∧ t.map.imageMark = s.map.imageMark ∧ t.map.carry = s.map.carry
  pool : t.pool = { s.pool with records := t.pool.records }
  rest : t.timing = s.timing ∧ t.waits = s.waits ∧ t.marks = s.marks ∧ t.units = s.units ∧ t.params = s.params ∧
    t.resetLow = s.resetLow

theorem State.barEntry_zero : s.barEntry r 0 = s.markedSlot r := funext fun _ => giveUpSlot_nil _ _ _

theorem State.claim_barredUpTo : s.BarredUpTo r 0 (s.claim none (barSlot r)) := by
  have entries : (s.map.rewrite (barSlot r)).entries.get = s.barEntry r 0 := funext fun j => by
    rw [SlotMap.rewrite_entries, State.barEntry_zero, State.markedSlot_eq]
  rw [State.claim_bar]
  refine ⟨entries, fun k => ?_, fun k c no => ?_, fun _ _ => rfl, fun _ => rfl, fun _ => rfl, State.EventsBy.refl s, ?_, ?_,
    ⟨rfl, rfl, rfl⟩, rfl, ⟨rfl, rfl, rfl, rfl, rfl, rfl⟩⟩
  · rw [if_neg (fun h => Nat.not_lt_zero _ h.1)]
  · exact absurd no (Nat.not_lt_zero _)
  · rw [entries]
    simp [firstContexts]
  · simp [firstContexts]

variable {r s}

theorem State.barEntry_succ (k : CtxIx) (j : SlotIx) : s.barEntry r (k.val + 1) j =
    giveUpSlot s.params.guard ((s.markedOffer r k).elim [] MoveContext.target) j.val (s.barEntry r k.val j) := by
  rw [State.barEntry, firstContexts_succ, List.flatMap_append, ← giveUpSlot_append, List.flatMap_cons, List.flatMap_nil,
    List.append_nil, State.barEntry]

/-- The contexts below the next one: those before, and this one. -/
theorem State.below_succ {P : CtxIx → Prop} {k : CtxIx} (before : ∀ o : CtxIx, o.val < k.val → P o) (this : P k) :
    ∀ o : CtxIx, o.val < k.val + 1 → P o := fun o lt => by
  rcases Nat.lt_succ_iff_lt_or_eq.mp lt with lt | e
  · exact before o lt
  · exact Fin.ext e ▸ this

theorem State.barEvents_of_none {k : CtxIx} {q : Port} (h : s.markedOffer r k = none) : s.barEvents r q k = [] := by
  rw [State.barEvents, h]
  rfl

theorem State.barReports_of_none {k : CtxIx} (h : s.markedOffer r k = none) : s.barReports r k = [] := by
  rw [State.barReports, h]
  rfl

theorem State.barFrees_of_none {k : CtxIx} (h : s.markedOffer r k = none) : s.barFrees r k = false := by
  rw [State.barFrees, h]
  rfl

/-- Where the context's move is not marked nothing changes. -/
theorem State.BarredUpTo.next_of_none {k : CtxIx} {t : State} (h : s.BarredUpTo r k.val t) (no : s.markedOffer r k = none) :
    s.BarredUpTo r (k.val + 1) t where
  entries := by
    rw [h.entries]
    funext j
    rw [State.barEntry_succ, no, Option.elim_none, giveUpSlot_nil]
  moves o := by
    rw [h.moves]
    refine if_congr ⟨fun ⟨lt, hit⟩ => ⟨by omega, hit⟩, fun ⟨lt, hit⟩ => ⟨?_, hit⟩⟩ rfl rfl
    rcases Nat.lt_succ_iff_lt_or_eq.mp lt with lt | e
    · exact lt
    · rw [Fin.ext e, no] at hit
      cases hit
  records o c lt := State.below_succ (P := fun o => ∀ c, s.markedOffer r o = some c →
    t.pool.records.get c.index = (s.pool.records.get c.index).live) (fun o lt c => h.records o c lt)
    (fun c hit => by rw [no] at hit; cases hit) o lt c
  otherRecords i other := h.otherRecords i fun o c lt => other o c (by omega)
  owners := h.owners
  ports := h.ports
  events := h.events.congr fun q => by
    rw [firstContexts_succ, List.flatMap_append, List.flatMap_cons, State.barEvents_of_none no]
    simp
  reports := by
    rw [h.reports, firstContexts_succ, List.flatMap_append, List.flatMap_cons, State.barReports_of_none no]
    simp
  engine := by
    rw [h.engine, firstContexts_succ, List.any_append, List.any_cons, State.barFrees_of_none no]
    simp
  map := h.map
  pool := h.pool
  rest := h.rest

/-- The marked move of the context is abandoned (R119). -/
theorem State.BarredUpTo.next_of_some {k : CtxIx} {c : MoveContext} {t : State} (h : s.BarredUpTo r k.val t)
    (hit : s.markedOffer r k = some c) : s.BarredUpTo r (k.val + 1) (t.abandonMove k .slotBarred t.now none) := by
  have used : t.moves.get k = some c := by
    rw [h.moves, if_neg (fun b => Nat.lt_irrefl _ b.1)]
    exact State.markedOffer_used hit
  obtain ⟨timing, waits, marks, units, params, reset⟩ := h.rest
  have entries : (t.abandonMove k .slotBarred t.now none).map.entries.get = s.barEntry r (k.val + 1) := by
    rw [State.abandonMove_map _ _ _ used]
    funext j
    rw [SlotMap.rewrite_entries, State.barEntry_succ, hit, h.entries, params]
    rfl
  have pool := State.abandonMove_pool .slotBarred t.now none used
  have record (i : RecIx) : (t.abandonMove k .slotBarred t.now none).pool.records.get i =
      if c.index = i then (t.pool.records.get i).live else t.pool.records.get i := by
    rw [pool, Table.get_modify]
    rfl
  refine ⟨entries, fun o => ?_, fun o d lt hd => ?_, fun i other => ?_, fun i => ?_, fun q => ?_, ?_, ?_, ?_, ?_, ?_, ?_⟩
  · rw [State.abandonMove_moves _ _ _ used, Table.get_set, h.moves]
    by_cases this : k = o
    · subst this
      rw [if_pos rfl, if_pos ⟨Nat.lt_succ_self _, by rw [hit]; rfl⟩]
    · rw [if_neg this]
      have apart : o.val ≠ k.val := fun e => this (Fin.ext e.symm)
      exact if_congr (and_congr_left fun _ => by omega) rfl rfl
  · rw [record]
    by_cases before : ∃ o' d', o'.val < k.val ∧ s.markedOffer r o' = some d' ∧ d'.index = d.index
    · obtain ⟨o', d', lt', hd', e⟩ := before
      rw [← e, h.records o' d' lt' hd', Record.live_live, ite_self]
    · have first : o = k := by
        refine Fin.ext ((Nat.lt_succ_iff_lt_or_eq.mp lt).resolve_left fun lt => before ⟨o, d, lt, hd, rfl⟩)
      subst first
      rw [hit] at hd
      cases hd
      rw [if_pos rfl, h.otherRecords c.index fun o' d' lt' hd' e => before ⟨o', d', lt', hd', e⟩]
  · rw [record, if_neg (other k c (Nat.lt_succ_self _) hit)]
    exact h.otherRecords i fun o d lt => other o d (by omega)
  · exact (State.abandonMove_ownerOf k .slotBarred t.now none t i).trans (h.owners i)
  · rw [State.abandonMove_others, h.ports]
  · refine (h.events.trans (State.abandonMove_eventsBy .slotBarred t.now none used)).congr fun q => ?_
    have owner : t.ownerOf c.index = (s.pool.records.get c.index).alloc.map Reservation.owner := h.owners c.index
    have attrs : (t.ports.get q).attrs = (s.ports.get q).attrs := by rw [h.ports]
    have now : t.now = s.timing.frameCounter := by rw [State.now, timing]
    rw [firstContexts_succ, List.flatMap_append, List.flatMap_cons, List.flatMap_nil, List.append_nil]
    refine congrArg (_ ++ ·) ?_
    rw [State.barEvents, hit, giveUpSlot_bars, attrs, now, owner, ← h.entries]
    simp [abandonRecipients, mem_ownerThenRequester, heldBarred]
    rfl
  · rw [State.abandonMove_slotReport _ _ used, State.slotReportTo, entries, h.entries, h.reports, firstContexts_succ,
      List.flatMap_append, List.flatMap_cons, State.barReports, hit]
    simp [handleOf]
  · rw [State.abandonMove_waitReq _ _ used, h.engine, h.entries, firstContexts_succ, List.any_append, List.any_cons, State.barFrees, hit]
    simp [Bool.or_assoc]
  · rw [State.abandonMove_map _ _ _ used]
    exact h.map
  · rw [pool, h.pool]
  · exact ⟨(State.abandonMove_timing _ _ _ _ _).trans timing, (State.abandonMove_waits _ _ _ _ _).trans waits,
      (State.abandonMove_marks _ _ _ _ _).trans marks, (State.abandonMove_units _ _ _ _ _).trans units,
      (State.abandonMove_params _ _ _ _ _).trans params, (State.abandonMove_resetLow _ _ _ _ _).trans reset⟩

end

/-- The abandonment of a marked move, and nothing where the move is not marked. -/
theorem State.BarredUpTo.next {r : Run} {s t : State} {k : CtxIx} (h : s.BarredUpTo r k.val t) : s.BarredUpTo r (k.val + 1)
    (if (s.markedOffer r k).isSome then t.abandonMove k .slotBarred t.now none else t) := by
  cases hit : s.markedOffer r k with
  | none => exact h.next_of_none hit
  | some c => exact h.next_of_some hit

/-- BAR marks the run and abandons the marked moves of the four contexts in turn (R119). -/
theorem State.barRun_barred (r : Run) (s : State) : s.BarredUpTo r 4 (s.barRun r) := by
  rw [State.barRun, State.offersMarked_eq, List.foldl_filter]
  have zero := s.claim_barredUpTo r
  exact State.BarredUpTo.next (k := 3) (State.BarredUpTo.next (k := 2) (State.BarredUpTo.next (k := 1)
    (State.BarredUpTo.next (k := 0) zero)))

/-- Settles O24: the run is marked, the marked moves are abandoned in turn, and the response counts what there is then. -/
theorem barMarksRun : Obligations.BarMarksRun := by
  intro p tag r scan s e
  dsimp only
  let u := s.setWork .idle
  let b := u.barRun r
  have h : u.BarredUpTo r 4 b := State.barRun_barred r u
  obtain ⟨timing, waits, marks, units, params, reset⟩ := h.rest
  have port (q : Port) : (b.answer p tag .ok (rangeBytes r ++ b.map.barCounts r)).ports.get q = if p = q then _ else _ :=
    State.answer_ports_get p tag .ok (rangeBytes r ++ b.map.barCounts r) q b
  refine ⟨b.answer p tag .ok (rangeBytes r ++ b.map.barCounts r),
    next_congr (State.complete_of_engaged e _ (State.barCompletion r) rfl), fun j => ?_, fun k => ?_,
    fun k c hit => h.records k c k.isLt hit, fun i other => h.otherRecords i fun k c _ hit => other k c hit, ?_, fun q other => ?_, ?_,
    ?_, ?_, h.engine, ⟨h.map.1, h.map.2.1, timing⟩, (congrArg RecordPool.fifo h.pool :), (congrArg RecordPool.warnArmed h.pool :),
    waits, marks, units, params, h.map.2.2, reset.trans e.high⟩
  · exact congrFun h.entries j
  · exact (h.moves k).trans (if_congr (and_iff_right k.isLt) rfl rfl)
  · rw [SlotMap.barCounts_eq]
    exact State.answer_hasAnswer (s := s) p tag .ok _ e.queue (congrArg ClientPort.queue (h.ports p) :)
      (congrArg ClientPort.stored (h.ports p) :)
  · rw [port, if_neg (Ne.symm other)]
    exact h.ports q
  · rw [port, if_pos rfl, ClientPort.answer_eq, h.ports p]
    exact ⟨rfl, rfl, rfl, rfl, rfl, rfl, rfl⟩
  · refine (h.events.trans (State.answer_eventsBy p tag .ok _ b)).congr fun q => ?_
    rw [List.append_nil]
    rfl
  · have reports := h.reports
    rw [State.barEntry_zero] at reports
    exact reports

end Sys2Proof.Machine
end

section
/-! PROOFS. The Slot Map's reaction to a mark (R12, R14 to R17, R19, R20, R90). -/

namespace Sys2Proof.Machine

/-! ## The promotion report -/

/-- Sets ordered by the index of their record (R17). -/
def AscendingSets (l : List (RecIx × Role)) : Prop := l.Pairwise fun x y => x.1.val ≤ y.1.val

theorem insertPromoted_ascending (x : RecIx × Role) (l : List (RecIx × Role)) (h : AscendingSets l) :
    AscendingSets (insertPromoted x l) := by
  induction l with
  | nil => exact List.pairwise_singleton _ _
  | cons y ys ih =>
    obtain ⟨first, rest⟩ := List.pairwise_cons.mp h
    unfold insertPromoted
    split
    · exact h
    · split
      · next less =>
        refine List.pairwise_cons.mpr ⟨fun z hz => ?_, h⟩
        rcases List.mem_cons.mp hz with rfl | hz
        · exact less.le
        · exact less.le.trans (first z hz)
      · next notLess =>
        refine List.pairwise_cons.mpr ⟨fun z hz => ?_, ih rest⟩
        rcases (mem_insertPromoted z x ys).mp hz with rfl | hz
        · exact Nat.le_of_not_lt notLess
        · exact first z hz

theorem insertPromoted_nodup (x : RecIx × Role) (l : List (RecIx × Role)) (h : AscendingSets l) (nodup : l.Nodup) :
    (insertPromoted x l).Nodup := by
  induction l with
  | nil => exact List.nodup_singleton _
  | cons y ys ih =>
    obtain ⟨first, rest⟩ := List.pairwise_cons.mp h
    obtain ⟨fresh, others⟩ := List.nodup_cons.mp nodup
    unfold insertPromoted
    split
    · exact nodup
    · next other =>
      split
      · next less =>
        refine List.nodup_cons.mpr ⟨fun hx => ?_, nodup⟩
        rcases List.mem_cons.mp hx with rfl | hx
        · exact other rfl
        · exact Nat.not_le_of_lt less (first x hx)
      · refine List.nodup_cons.mpr ⟨fun hy => ?_, ih rest others⟩
        rcases (mem_insertPromoted y x ys).mp hy with rfl | hy
        · exact other rfl
        · exact fresh hy

theorem SlotMap.promotedSets_ordered (map : SlotMap) : AscendingSets map.promotedSets ∧ map.promotedSets.Nodup := by
  unfold SlotMap.promotedSets
  induction map.entries.toList with
  | nil => exact ⟨List.Pairwise.nil, List.nodup_nil⟩
  | cons e es ih =>
    rw [List.foldr_cons]
    cases e with
    | held i role armed b =>
      cases armed with
      | false => exact ih
      | true => exact ⟨insertPromoted_ascending _ _ ih.1, insertPromoted_nodup _ _ ih.1 ih.2⟩
    | _ => exact ih

theorem Slot.phase_eq_armed {e : Slot} {i : RecIx} {role : Role} :
    e.phase = some (i, role, some true) ↔ ∃ b, e = .held i role true b := by
  cases e <;> simp [Slot.phase]

/-! ## What ends at a mark -/

/-- The mark ends the drain of the slot, with or without a bar pending (R15). -/
def Slot.endsDrain (carried : Option Port) (bar : Bool) : Slot → Bool
  | .draining n b => decide (n ≤ 1) && decide (b = bar) && carried.isNone
  | _ => false

theorem markSlot_frees (carried : Nat → Option Port) (j : Nat) (e : Slot) :
    (decide (e.state ≠ (markSlot carried j e).state) && decide ((markSlot carried j e).state = .free)) =
      e.endsDrain (carried j) false := by
  cases e with
  | held i role armed b => cases armed <;> rfl
  | draining n b =>
    cases hc : carried j with
    | some p => simp [markSlot, Slot.endsDrain, Slot.state, hc]
    | none => by_cases hn : n ≤ 1 <;> cases b <;> simp [markSlot, Slot.endsDrain, Slot.state, hc, hn]
  | _ => rfl

theorem markSlot_bars (carried : Nat → Option Port) (j : Nat) (e : Slot) :
    (decide ((markSlot carried j e).state = .barred) && decide (e.state ≠ .barred) && decide (e.state ≠ .free)) =
      e.endsDrain (carried j) true := by
  cases e with
  | held i role armed b => cases armed <;> rfl
  | draining n b =>
    cases hc : carried j with
    | some p => simp [markSlot, Slot.endsDrain, Slot.state, hc]
    | none => by_cases hn : n ≤ 1 <;> cases b <;> simp [markSlot, Slot.endsDrain, Slot.state, hc, hn]
  | _ => rfl

/-! ## The reaction, part by part -/

theorem State.mapReaction_entries (m : Word) (s : State) (j : SlotIx) :
    (s.mapReaction m).map.entries.get j = markSlot (s.map.carried m) j.val (s.map.entries.get j) := by
  rw [State.mapReaction_map]
  exact SlotMap.rewrite_entries _ _ j

theorem State.latchOwner_eq (carried : Nat → Option Port) (s : State) (i : Nat) (e : Slot) :
    s.latchOwner carried i e = match carried i, e with
      | some p, _ => some p
      | none, .live idx _ _ => (s.pool.records.get idx).alloc.map Reservation.owner
      | none, _ => none := by
  unfold State.latchOwner
  cases carried i with
  | some p => rfl
  | none => cases e <;> rfl

theorem State.mapReaction_engine (m : Word) (s : State) : (s.mapReaction m).engine = { s.engine with
    waitReq := s.engine.waitReq ||
      (List.finRange 512).any fun j => (s.map.entries.get j).endsDrain (s.map.carried m j.val) false } := by
  have freed : (s.map.changes (markSlot (s.map.carried m))).any (fun c => decide (c.after = .free)) =
      (List.finRange 512).any fun j => (s.map.entries.get j).endsDrain (s.map.carried m j.val) false := by
    rw [SlotMap.any_changes]
    exact congrArg (List.any _) (funext fun j => markSlot_frees _ _ _)
  rw [← freed]
  unfold State.mapReaction State.handPromotion
  dsimp only
  rw [State.reportChanges_engine]
  split <;> rfl

theorem State.mapReaction_watch (m : Word) (s : State) :
    (s.mapReaction m).reports.watch = s.reports.watch ++ s.slotReportTo (s.mapReaction m) := by
  rw [State.slotReportTo, State.mapReaction_map]
  refine Eq.trans ?_ (congrArg (s.reports.watch ++ ·) (s.map.report_changes (markSlot (s.map.carried m))))
  unfold State.mapReaction State.handPromotion
  dsimp only
  rw [State.reportChanges_reports]
  split <;> rfl

theorem State.mapReaction_eventsBy (m : Word) (s : State) :
    let bars := ((List.finRange 512).filter fun j =>
      (s.map.entries.get j).endsDrain (s.map.carried m j.val) true).map Fin.val
    s.EventsBy (fun q => eventIf ((s.ports.get q).attrs.notices && !bars.isEmpty) m
      (.barDone bars.length (barDoneSet bars))) (s.mapReaction m) := by
  dsimp only
  have completed : completedBars (s.map.changes (markSlot (s.map.carried m))) = ((List.finRange 512).filter fun j =>
      (s.map.entries.get j).endsDrain (s.map.carried m j.val) true).map Fin.val := by
    rw [SlotMap.completedBars_changes]
    exact congrArg (fun P => List.map Fin.val (List.filter P _)) (funext fun j => markSlot_bars _ _ _)
  rw [← completed]
  have ports (r : PromotionReport) : (State.handPromotion r { s with
      map := s.latchMap m, timing := { s.timing with frameCounter := m } }).ports = s.ports := by
    unfold State.handPromotion; split <;> rfl
  have now (r : PromotionReport) : (State.handPromotion r { s with
      map := s.latchMap m, timing := { s.timing with frameCounter := m } }).now = m := by
    unfold State.handPromotion; split <;> rfl
  apply State.EventsBy.of_postAll
  intro q
  unfold State.mapReaction
  dsimp only
  rw [State.reportChanges_ports, ports, now]
  refine ClientPort.post_if ?_ _ _ _
  rw [Bool.and_eq_true, Bool.not_eq_true', List.isEmpty_eq_false_iff]
  exact ⟨fun ⟨notices, bars⟩ => ⟨bars, notices, by simp⟩, fun ⟨bars, notices, _⟩ => ⟨notices, bars⟩⟩

theorem State.drainNearEnd_of_ends {s : State} {m : Word} {rest : List Word} (hm : s.marks.slotMap = m :: rest)
    {j : SlotIx} {bar : Bool} (h : (s.map.entries.get j).endsDrain (s.map.carried m j.val) bar = true) :
    s.drainNearEnd j = true := by
  unfold State.drainNearEnd
  revert h
  cases s.map.entries.get j with
  | draining n b =>
    intro h
    simp only [Slot.endsDrain, Bool.and_eq_true] at h
    obtain ⟨⟨last, -⟩, none⟩ := h
    simp only [hm, List.head?_cons, Option.any_some, last, none, Bool.and_self]
  | _ => exact fun h => Bool.noConfusion h

/-- Settles O47: the three stages slot by slot, the promotion report ordered, and the reports of the changes. -/
theorem slotMapReaction : Obligations.SlotMapReaction := by
  intro s m rest high locked hm
  dsimp only
  have takes : s.takesMarks = true := s.takesMarks_iff.mpr ⟨high, locked⟩
  have eq := State.mapTakeMark_of_cons takes hm
  generalize hu : ({ s with marks := { s.marks with slotMap := rest } } : State) = u at eq
  have promotions := u.mapReaction_promotions m
  have entries := u.mapReaction_entries m
  have image (j : SlotIx) : (u.mapReaction m).map.image.get j =
      u.latchOwner (u.map.carried m) j.val ((u.mapReaction m).map.entries.get j) := by
    rw [State.mapReaction_map]
    exact Table.get_map _ _ _
  have others := fun q => u.mapReaction_others m q
  subst hu
  refine ⟨_, next_congr eq, fun j b ends => ?_, fun j => ?_, fun j => ?_, ?_, ?_, State.mapReaction_timing m _,
    State.mapReaction_watch m _, ⟨s.map.promotedSets, s.map.promotedSets_ordered.2, s.map.promotedSets_ordered.1, fun x => ?_, ?_, ?_⟩,
    State.mapReaction_engine m _, State.mapReaction_eventsBy m _, others, State.mapReaction_marks m _,
    State.mapReaction_pool m _, State.mapReaction_waits m _, State.mapReaction_moves m _, State.mapReaction_units m _,
    State.mapReaction_params m _, (State.mapReaction_resetLow m _).trans high⟩
  · exact next_congr ((if_pos (State.drainNearEnd_of_ends hm (bar := b) (by exact ends))).trans eq)
  · rw [entries]
    cases s.map.entries.get j <;> rfl
  · exact (image j).trans (State.latchOwner_eq _ _ _ _)
  · rw [State.mapReaction_map]
    rfl
  · rw [State.mapReaction_map]
    rfl
  · rw [SlotMap.mem_promotedSets]
    exact exists_congr fun j => Slot.phase_eq_armed
  · rw [promotions.1]
    unfold SlotMap.promotions
    simp only [List.isEmpty_iff]
  · rw [promotions.2]
    unfold SlotMap.promotions
    simp only [List.isEmpty_iff]

end Sys2Proof.Machine
end

section
/-! PROOFS. The Frame Timing Unit: frame starts, the running out of the timer, slot edges (R86 to R94). -/

namespace Sys2Proof.Machine

/-- Notices change event queues and lost counts and nothing else of any port. -/
theorem State.postNotices_others (mute : Option Port) (stamp : Word) (body : EventBody) (s : State) (q : Port) :
    (s.postNotices mute stamp body).ports.get q = { s.ports.get q with
      events := ((s.postNotices mute stamp body).ports.get q).events
      lost := ((s.postNotices mute stamp body).ports.get q).lost } := by
  rw [State.postNotices_ports]
  split
  · rw [ClientPort.post_eq]
  · rfl

/-! ## Taking first what is due -/

theorem State.NothingDue.settle {s : State} (none : s.NothingDue) : s.settle = s :=
  State.settle_of_nothingDue none.marks none.pool none.moves

theorem exec_frameStart {s : State} (high : s.resetLow = false) : exec .frameStart s = .next s.settle.acceptFrame :=
  next_congr (if_neg (by rw [high]; exact Bool.false_ne_true))

theorem exec_syncWatchTimeout {s : State} (high : s.resetLow = false) (locked : s.timing.sync = .locked)
    (runs : s.timing.timer ≠ none) : exec .syncWatchTimeout s = .next s.settle.loseSync :=
  next_congr (if_pos (by rw [high, locked, Option.isSome_iff_ne_none.mpr runs]; rfl))

/-- The six parts take in turn what is due of a mark. -/
def takings : List Instr :=
  [.slotMapFrameReaction, .promotionReportPool, .promotionReportMove, .leaseCounterReaction, .moveUnitFrameReaction,
    .waitListFrameReaction]

theorem State.takings_settle {s : State} (high : s.resetLow = false) : s.RunsTo takings s.settle :=
  ⟨_, rfl, _, next_congr (if_neg (by simp [high])), _, next_congr (if_neg (by simp [high])), _, rfl, _, rfl, _, rfl, rfl⟩

theorem State.MarksAgree.settle_settle {s : State} (h : s.MarksAgree) (high : s.resetLow = false) :
    s.settle.settle = s.settle :=
  (h.settle_nothingDue high).settle

/-! ## Frame starts and the timer -/

theorem State.acceptFrame_eventsBy (s : State) : s.EventsBy (fun q => eventIf ((s.ports.get q).attrs.notices &&
    decide (s.timing.sync ≠ .locked)) (s.timing.lastMark + 1#16) .syncLocked) s.acceptFrame := by
  unfold State.acceptFrame
  dsimp only
  split
  · next locked =>
    exact (State.EventsBy.of_ports rfl).congr fun q => by simp [locked, eventIf]
  · next out =>
    refine ((State.EventsBy.of_ports (t := { s with
        timing := s.timing.accept s.params.syncWindow
        marks := s.marks.hand (s.timing.accept s.params.syncWindow).lastMark }) rfl).trans
      (State.postNotices_eventsBy none _ .syncLocked _)).congr fun q => ?_
    simp only [List.nil_append, ne_eq, reduceCtorEq, not_false_eq_true, decide_true, Bool.and_true, out]
    rfl

theorem State.acceptFrame_others (s : State) (q : Port) : s.acceptFrame.ports.get q = { s.ports.get q with
    events := (s.acceptFrame.ports.get q).events, lost := (s.acceptFrame.ports.get q).lost } := by
  unfold State.acceptFrame
  dsimp only
  split
  · rfl
  · exact State.postNotices_others _ _ _ _ q

theorem State.acceptFrame_frame (s : State) : s.acceptFrame = { s with
    timing := s.timing.accept s.params.syncWindow
    marks := s.marks.hand (s.timing.lastMark + 1#16)
    ports := s.acceptFrame.ports } := by
  unfold State.acceptFrame
  dsimp only
  split
  · rfl
  · exact State.postNotices_frame _ _ _ _

theorem State.loseSync_eventsBy (s : State) : s.EventsBy (fun q =>
    eventIf (s.ports.get q).attrs.notices s.timing.frameCounter .syncLost) s.loseSync := by
  refine ((State.EventsBy.of_ports (t := { s with timing := { s.timing with sync := .lost, timer := none } }) rfl).trans
    (State.postNotices_eventsBy none _ .syncLost _)).congr fun q => ?_
  simp only [List.nil_append, ne_eq, reduceCtorEq, not_false_eq_true, decide_true, Bool.and_true]
  rfl

/-! ## Slot edges -/

theorem exec_slotEdge {s : State} (high : s.resetLow = false) (begun : s.timing.sync ≠ .searching) :
    exec .slotEdge s = .next s.takeEdge :=
  next_congr (if_neg (by simp [high, begun]))

theorem State.takeEdge_of_slot {s : State} (none : s.marks.slotMap = []) (i : SlotIx) (counted : s.timing.edgeCount = i.val) :
    s.takeEdge = { s with timing := { s.timing with
      edgeCount := i.val + 1
      slotIndex := .slot i
      ownv := (s.map.image.get i).isSome
      own := BitVec.ofNat 3 ((s.map.image.get i).elim 0 fun p => p.val) } } := by
  have index : slotIndexOf (s.timing.edgeCount + 1) = .slot i := by
    rw [counted]
    exact dif_pos (by omega)
  have count : min 513 (s.timing.edgeCount + 1) = i.val + 1 := by omega
  unfold State.takeEdge State.driveLines FrameTiming.edge FrameTiming.drive
  rw [State.mapTakeMark_of_none none]
  dsimp only
  rw [index, count]
  dsimp only
  cases s.map.image.get i <;> rfl

theorem State.takeEdge_of_beyond {s : State} (none : s.marks.slotMap = []) (past : 512 ≤ s.timing.edgeCount) :
    s.takeEdge = { s with timing := { s.timing with edgeCount := 513, slotIndex := .beyond, ownv := false, own := 0#3 } } := by
  have index : slotIndexOf (s.timing.edgeCount + 1) = .beyond := dif_neg (by omega)
  have count : min 513 (s.timing.edgeCount + 1) = 513 := by omega
  unfold State.takeEdge State.driveLines FrameTiming.edge FrameTiming.drive
  rw [State.mapTakeMark_of_none none]
  dsimp only
  rw [index, count]

theorem State.MarksAgree.takeEdge_mapTaken {s : State} (h : s.MarksAgree) (high : s.resetLow = false) :
    s.mapTakeMark.takeEdge = s.takeEdge := by
  unfold State.takeEdge
  rw [State.mapTakeMark_of_none (h.mapTaken_none high)]

/-- Settles O45: what is due is taken first, and where nothing is, the unit's own rules are all that happens. -/
theorem frameTimingRuns : Obligations.FrameTimingRuns := by
  intro s high
  dsimp only
  refine ⟨?accept, ?lose, ?settle, ?searching, ?edge, ?due⟩
  case accept =>
    rintro ⟨marks, pool, moves⟩
    have start := exec_frameStart high
    rw [State.settle_of_nothingDue marks pool moves] at start
    have frame := s.acceptFrame_frame
    refine ⟨_, start, congrArg State.timing frame, (congrArg State.marks frame).trans ?_, s.acceptFrame_eventsBy,
      s.acceptFrame_others, ?_⟩
    · rw [marks]
      rfl
    · rw [congrArg State.timing frame, congrArg State.marks frame]
      exact frame
  case lose =>
    rintro ⟨marks, pool, moves⟩ locked runs
    have out := exec_syncWatchTimeout high locked runs
    rw [State.settle_of_nothingDue marks pool moves] at out
    exact ⟨_, out, rfl, s.loseSync_eventsBy, State.postNotices_others _ _ _ _, rfl⟩
  case settle =>
    intro agree
    have none := agree.settle_nothingDue high
    have high' : s.settle.resetLow = false := s.settle_resetLow.trans high
    refine ⟨s.settle, State.takings_settle high, none.marks, none.pool, none.moves, ?_, fun locked runs => ?_⟩
    · rw [exec_frameStart high, exec_frameStart high', none.settle]
    · have timing := s.settle_timing
      rw [exec_syncWatchTimeout high locked runs, exec_syncWatchTimeout high' (by rw [timing]; exact locked)
        (by rw [timing]; exact runs), none.settle]
  case searching =>
    intro searching
    exact next_congr (if_pos (by simp [searching]))
  case edge =>
    intro begun none
    rw [exec_slotEdge high begun]
    exact ⟨fun i counted => next_congr (State.takeEdge_of_slot none i counted),
      fun past => next_congr (State.takeEdge_of_beyond none past)⟩
  case due =>
    intro locked agree
    have high' : s.mapTakeMark.resetLow = false := s.mapTakeMark_resetLow.trans high
    have sync : s.mapTakeMark.timing.sync = .locked := by rw [State.mapTakeMark_timing]; exact locked
    refine ⟨s.mapTakeMark, rfl, agree.mapTaken_none high, ?_⟩
    rw [exec_slotEdge high (by rw [locked]; decide), exec_slotEdge high' (by rw [sync]; decide),
      agree.takeEdge_mapTaken high]

end Sys2Proof.Machine
end

section
/-! PROOFS. A port reset at one record of the port: under RECLAIM it is released, under RETAIN an offered move of it is abandoned
(R32, R43, R118, R120, R188). -/

namespace Sys2Proof.Machine

/-- The events at a port other than the reset one as the reset deals with a record of handle `h` and fields `a`. -/
def State.dealingEvents (policy : ResetPolicy) (h : Handle) (a : Reservation) (s : State) (o : Port) : List Event :=
  let reclaims := decide (policy = .reclaim)
  let bars := heldBarred s.map.entries.get (s.givenOf policy a)
  eventIf ((s.ports.get o).attrs.notices && !bars.isEmpty) s.now (.barDone bars.length (barDoneSet bars)) ++
    (match s.contextOf a with
      | some (_, c) => eventIf (decide (c.requesterPort = some o) && (reclaims || c.isOffered)) s.now
          (.moveAbandoned h c.tagField c.target (if reclaims then .released else .ownerReset))
      | none => []) ++
    eventIf ((s.ports.get o).attrs.notices && (reclaims && s.recoveryAfterFreeing)) s.now
      (.poolRecovered (s.freeRecords + 1))

/-- The reports handed to the Watch Units as the reset deals with a record of handle `h` and fields `a`. -/
def State.dealingReports (policy : ResetPolicy) (h : Handle) (a : Reservation) (s : State) : List Report :=
  let given := slotReport s.map.entries.get fun j =>
    giveUpSlot s.params.guard (s.givenOf policy a) j.val (s.map.entries.get j)
  if policy = .reclaim then given ++ [.record h none]
  else if (s.contextOf a).any fun x => x.2.isOffered then given ++ [.record h (some .live)]
  else []

/-- What the reset of port `q` makes of `s` at record `i` of the port, whose fields are `a`. -/
structure State.DealtWith (q : Port) (policy : ResetPolicy) (i : RecIx) (a : Reservation) (s t : State) : Prop where
  entries : s.EntriesBy (giveUpSlot s.params.guard (s.givenOf policy a)) t
  records : t.pool.records = s.pool.records.set i
    (resetRecordBy q policy ((s.contextOf a).map Prod.snd) (s.pool.records.get i))
  fifo : t.pool.fifo = s.pool.fifo ++ if policy = .reclaim then [i] else []
  warnArmed : t.pool.warnArmed = (s.pool.warnArmed || (decide (policy = .reclaim) && s.recoveryAfterFreeing))
  moves : ∀ k, t.moves.get k = if (s.contextOf a).map Prod.fst = some k then
    (s.moves.get k).bind (resetContextBy q policy (some q)) else s.moves.get k
  engine : t.engine = { s.engine with
    waitReq := s.engine.waitReq || decide (policy = .reclaim) || heldFreed s.map.entries.get (s.givenOf policy a) }
  reports : t.reports = { s.reports with
    watch := s.reports.watch ++ s.dealingReports policy (handleOf i (s.pool.records.get i).gen) a }
  frame : s.SameFrame t
  carry : t.map.carry = s.map.carry
  ports : ∀ o, t.ports.get o = { s.ports.get o with
    events := (t.ports.get o).events
    lost := (t.ports.get o).lost
    ownedSlots := if q = o ∧ policy = .reclaim then (s.ports.get o).ownedSlots - setTotal a.set
      else (s.ports.get o).ownedSlots
    ownedRecords := if q = o ∧ policy = .reclaim then (s.ports.get o).ownedRecords - 1
      else (s.ports.get o).ownedRecords }
  events : s.EventsBy (fun o => if o = q then [] else
    s.dealingEvents policy (handleOf i (s.pool.records.get i).gen) a o) t

/-! ## The three ways to deal with a record -/

section
variable {q : Port} {i : RecIx} {a : Reservation} {s : State} (used : s.reservation i = some a) (own : a.owner = q)
include used own

theorem State.resetRecord_of_reclaim : s.resetRecord q .reclaim i = s.releaseRecord i .reset (some q) := by
  unfold State.resetRecord State.ownerOf
  rw [used]
  exact if_pos (congrArg some own)

theorem State.resetRecord_of_offered {k : CtxIx} {c : MoveContext} (moving : s.contextOf a = some (k, c))
    (offered : c.isOffered = true) : s.resetRecord q .retain i = s.abandonMove k .ownerReset s.now (some q) := by
  unfold State.resetRecord State.ownerOf
  rw [used, Option.bind_some, moving]
  refine (if_pos (congrArg some own)).trans ?_
  unfold MoveContext.isOffered at offered
  dsimp only
  cases stage : c.stage with
  | offered n => rfl
  | _ => rw [stage] at offered; cases offered

theorem State.resetRecord_of_kept (kept : ((s.contextOf a).any fun x => x.2.isOffered) = false) :
    s.resetRecord q .retain i = s := by
  unfold State.resetRecord State.ownerOf
  rw [used, Option.bind_some]
  refine (if_pos (congrArg some own)).trans ?_
  cases moving : s.contextOf a with
  | none => rfl
  | some x =>
    rw [moving, Option.any_some] at kept
    unfold MoveContext.isOffered at kept
    dsimp only
    cases stage : x.2.stage with
    | offered n => rw [stage] at kept; cases kept
    | _ => rfl

theorem State.DealtWith.reclaimed : State.DealtWith q .reclaim i a s (s.releaseRecord i .reset (some q)) := by
  have pool := State.releaseRecord_pool .reset (some q) used
  have map := State.releaseRecord_map .reset (some q) used
  have given : s.givenOf .reclaim a = a.set ++ s.targetOf a := rfl
  have alloc : (s.pool.records.get i).alloc = some a := used
  have released : resetRecordBy q .reclaim ((s.contextOf a).map Prod.snd) (s.pool.records.get i) =
      ⟨(s.pool.records.get i).gen + 1#8, none⟩ := by
    unfold resetRecordBy
    rw [alloc]
    exact if_neg (not_not_intro own)
  refine ⟨(State.releaseRecord_released .reset (some q) used).1, ?records, (congrArg RecordPool.fifo pool :),
    (congrArg RecordPool.warnArmed pool :).trans (by simp), ?moves, ?engine, ?reports,
    ⟨(congrArg SlotMap.image map :), (congrArg SlotMap.imageMark map :), State.releaseRecord_timing _ _ _ _⟩,
    (congrArg SlotMap.carry map :), fun o => ?ports, (State.releaseRecord_eventsBy .reset (some q) used).congr fun o => ?events⟩
  case records => rw [released, pool]
  case moves =>
    intro k
    rw [State.releaseRecord_moves .reset (some q) used]
    cases moving : s.contextOf a with
    | none => exact (if_neg nofun).symm
    | some x =>
      obtain ⟨j, c⟩ := x
      obtain ⟨-, -, used⟩ := State.contextOf_eq_some.mp moving
      dsimp only [Option.map_some]
      rw [Table.get_set]
      by_cases same : j = k
      · subst same
        rw [if_pos rfl, if_pos rfl, used, Option.bind_some]
        exact (if_pos rfl).symm
      · rw [if_neg same, if_neg (by simpa using same)]
  case engine =>
    rw [State.releaseRecord_engine .reset (some q) used]
    simp
  case reports =>
    rw [State.releaseRecord_slotReport .reset (some q) used, State.dealingReports, if_pos rfl, State.slotReportTo,
      List.append_assoc, funext (State.releaseRecord_released .reset (some q) used).1]
    rfl
  case ports =>
    rw [State.releaseRecord_others o .reset (some q) used]
    simp [own]
  case events =>
    unfold State.releaseEvents State.dealingEvents
    dsimp only
    rw [State.releaseClaim, giveUpSlot_bars, ← heldBarred, given]
    by_cases self : o = q
    · subst self
      rw [if_pos rfl]
      unfold releasedEvents
      cases s.contextOf a <;> simp [muteOf, own, causeEvents]
    · rw [if_neg self]
      unfold releasedEvents
      cases s.contextOf a <;> simp [muteOf, own, causeEvents, Ne.symm self]

theorem State.DealtWith.kept (still : ((s.contextOf a).any fun x => x.2.isOffered) = false) :
    State.DealtWith q .retain i a s s := by
  have given : s.givenOf .retain a = [] := if_neg (by rw [still]; exact Bool.false_ne_true)
  have alloc : (s.pool.records.get i).alloc = some a := used
  have untold (o : Port) : s.dealingEvents .retain (handleOf i (s.pool.records.get i).gen) a o = [] := by
    unfold State.dealingEvents
    rw [given]
    cases moving : s.contextOf a with
    | none => simp [heldBarred, inSet]
    | some x =>
      rw [moving, Option.any_some] at still
      simp [heldBarred, inSet, still]
  refine ⟨fun j => by rw [given, giveUpSlot_nil], ?records, (List.append_nil _).symm, by simp, ?moves, ?engine,
    ?reports, ⟨rfl, rfl, rfl⟩, rfl, fun o => by simp, (State.EventsBy.refl s).congr fun o => by simp [untold]⟩
  case records =>
    refine (Table.set_of_get ?_).symm
    unfold resetRecordBy
    rw [alloc, Option.any_map]
    refine ((if_neg (not_not_intro own)).trans (if_neg ?_)).symm
    rw [Bool.not_eq_true]
    exact still
  case moves =>
    intro k
    cases moving : s.contextOf a with
    | none => exact (if_neg nofun).symm
    | some x =>
      obtain ⟨j, c⟩ := x
      obtain ⟨-, -, inUse⟩ := State.contextOf_eq_some.mp moving
      rw [moving, Option.any_some] at still
      split
      · next same =>
        obtain rfl : j = k := Option.some_inj.mp same
        rw [inUse, Option.bind_some, resetContextBy, if_pos rfl]
        exact (if_neg (by rw [still]; exact Bool.false_ne_true)).symm
      · rfl
  case engine =>
    have freed : heldFreed s.map.entries.get [] = false := by simp [heldFreed, inSet]
    rw [given, freed]
    simp
  case reports =>
    rw [State.dealingReports, if_neg nofun, if_neg (by rw [still]; exact Bool.false_ne_true), List.append_nil]

omit used in
theorem State.DealtWith.abandoned {k : CtxIx} {c : MoveContext} (agree : s.MovesAgree) (used : s.reservation i = some a)
    (moving : s.contextOf a = some (k, c)) (offered : c.isOffered = true) :
    State.DealtWith q .retain i a s (s.abandonMove k .ownerReset s.now (some q)) := by
  obtain ⟨isMoving, context, inUse⟩ := State.contextOf_eq_some.mp moving
  have alloc : (s.pool.records.get i).alloc = some a := used
  have given : s.givenOf .retain a = c.target := by
    refine (if_pos ?_).trans ?_
    · rw [moving]
      exact offered
    · rw [State.targetOf, moving]
  obtain ⟨index, gen⟩ : c.index = i ∧ c.gen = (s.pool.records.get i).gen := by
    have named := agree.2 i a alloc
    rw [if_pos isMoving] at named
    obtain ⟨j, d, hj, hd, rfl⟩ := named
    obtain rfl : k = j := Option.some_inj.mp (context.symm.trans hj)
    obtain rfl : c = d := Option.some_inj.mp (inUse.symm.trans hd)
    obtain ⟨b, record, -, -⟩ := agree.1 k c inUse
    exact ⟨rfl, (congrArg Record.gen record).symm⟩
  have record : s.pool.records.get c.index = ⟨c.gen, some a⟩ := by
    rw [index, gen, ← alloc]
  have pool := State.abandonMove_record .ownerReset s.now inUse record (some q)
  have map := State.abandonMove_map .ownerReset s.now (some q) inUse
  refine ⟨?entries, ?records, (congrArg RecordPool.fifo pool :).trans (List.append_nil _).symm,
    (congrArg RecordPool.warnArmed pool :).trans (by simp), fun j => ?moves, ?engine, ?reports,
    State.abandonMove_sameFrame .ownerReset s.now inUse (some q), (congrArg SlotMap.carry map :), fun o => ?ports,
    (State.abandonMove_eventsBy .ownerReset s.now (some q) inUse).congr fun o => ?events⟩
  case entries =>
    rw [given]
    exact State.abandonMove_entriesBy .ownerReset s.now inUse (some q)
  case records =>
    rw [pool, ← index, record, moving]
    unfold resetRecordBy
    dsimp only
    rw [if_neg (not_not_intro own), Option.map_some, Option.any_some, if_pos offered]
  case moves =>
    rw [State.abandonMove_moves .ownerReset s.now (some q) inUse, moving]
    by_cases same : k = j
    · subst same
      rw [Table.get_set_self, Option.map_some, if_pos rfl, inUse, Option.bind_some, resetContextBy, if_pos rfl]
      exact (if_pos offered).symm
    · rw [Table.get_set_ne _ _ same, if_neg (by simpa using same)]
  case engine =>
    rw [State.abandonMove_waitReq .ownerReset s.now inUse (some q), given]
    simp
  case reports =>
    rw [State.abandonMove_slotReport .ownerReset s.now inUse (some q), State.dealingReports, if_neg nofun,
      if_pos (by rw [moving]; exact offered), State.slotReportTo, List.append_assoc, given, index, gen,
      funext (State.abandonMove_entriesBy .ownerReset s.now inUse (some q))]
  case ports =>
    rw [State.abandonMove_others]
    simp
  case events =>
    rw [giveUpSlot_bars, ← heldBarred, index, gen]
    unfold State.dealingEvents
    rw [given, moving]
    by_cases self : o = q
    · subst self
      simp
    · rw [if_neg self]
      simp [abandonRecipients, Ne.symm self, offered, eq_comm]

theorem State.resetRecord_dealtWith (agree : s.MovesAgree) (policy : ResetPolicy) :
    State.DealtWith q policy i a s (s.resetRecord q policy i) := by
  cases policy with
  | reclaim =>
    rw [State.resetRecord_of_reclaim used own]
    exact .reclaimed used own
  | retain =>
    cases offered : (s.contextOf a).any fun x => x.2.isOffered with
    | false =>
      rw [State.resetRecord_of_kept used own offered]
      exact .kept used own offered
    | true =>
      cases moving : s.contextOf a with
      | none =>
        rw [moving] at offered
        cases offered
      | some x =>
      obtain ⟨k, c⟩ := x
      rw [moving, Option.any_some] at offered
      rw [State.resetRecord_of_offered used own moving offered]
      exact .abandoned own agree used moving offered

end

end Sys2Proof.Machine
end

section
/-! PROOFS. A port reset up to a record of the pool, in terms of the state before it (R32, R43, R83, R118, R120, R145, R185, R188). -/

namespace Sys2Proof.Machine

/-! ## What the reset speaks of -/

/-- The handles and the fields of the records of port `q` among `l`. -/
def State.ownedBy (q : Port) (l : List RecIx) (s : State) : List (Handle × Reservation) :=
  l.filterMap fun i => match s.pool.records.get i with
    | ⟨gen, some a⟩ => if a.owner = q then some (Handle.mk (BitVec.ofNat 8 i.val) gen, a) else none
    | ⟨_, none⟩ => none

/-- What records give up in a reset under a policy. -/
def State.givenBy (policy : ResetPolicy) (owned : List (Handle × Reservation)) (s : State) : List Run :=
  owned.flatMap fun x => s.givenOf policy x.2

/-- A slot after the give-ups of the first `k` records. -/
def State.entryAfter (policy : ResetPolicy) (owned : List (Handle × Reservation)) (s : State) (k : Nat) (j : SlotIx) : Slot :=
  giveUpSlot s.params.guard (s.givenBy policy (owned.take k)) j.val (s.map.entries.get j)

/-- The freeing of the `k`-th record, counted from 0, brings the recovery. -/
def State.recoversAt (policy : ResetPolicy) (s : State) (k : Nat) : Bool :=
  let level := min 192 (s.params.poolLow + 4)
  decide (policy = .reclaim) && !s.pool.warnArmed && decide (level ≤ s.pool.fifo.length + k + 1) &&
    (decide (k = 0) || decide (s.pool.fifo.length + k < level))

/-- The events at a port as the reset deals with a record, which comes `x.2`-th of the port's. -/
def State.recordTells (policy : ResetPolicy) (owned : List (Handle × Reservation)) (s : State) (o : Port)
    (x : (Handle × Reservation) × Nat) : List Event :=
  let now := s.timing.frameCounter
  let reclaims := decide (policy = .reclaim)
  let bars := heldBarred (s.entryAfter policy owned x.2) (s.givenOf policy x.1.2)
  eventIf ((s.ports.get o).attrs.notices && !bars.isEmpty) now (.barDone bars.length (barDoneSet bars)) ++
    (match s.contextOf x.1.2 with
      | some (_, c) => eventIf (decide (c.requesterPort = some o) && (reclaims || c.isOffered)) now
          (.moveAbandoned x.1.1 c.tagField c.target (if reclaims then .released else .ownerReset))
      | none => []) ++
    eventIf ((s.ports.get o).attrs.notices && s.recoversAt policy x.2) now (.poolRecovered (s.pool.fifo.length + x.2 + 1))

/-- The reports as the reset deals with a record, which comes `x.2`-th of the port's. -/
def State.recordReports (policy : ResetPolicy) (owned : List (Handle × Reservation)) (s : State)
    (x : (Handle × Reservation) × Nat) : List Report :=
  let abandons := (s.contextOf x.1.2).any fun y => y.2.isOffered
  if decide (policy = .reclaim) then
    slotReport (s.entryAfter policy owned x.2) (s.entryAfter policy owned (x.2 + 1)) ++ [.record x.1.1 none]
  else if abandons then
    slotReport (s.entryAfter policy owned x.2) (s.entryAfter policy owned (x.2 + 1)) ++ [.record x.1.1 (some .live)]
  else []

/-- What the reset of port `q` makes of `s` once the records of `l` are dealt with. -/
structure State.ResetUpTo (q : Port) (policy : ResetPolicy) (l : List RecIx) (s t : State) : Prop where
  agree : t.MovesAgree
  records : ∀ i, t.pool.records.get i = if i ∈ l then
    resetRecordBy q policy (((s.reservation i).bind s.contextOf).map Prod.snd) (s.pool.records.get i)
    else s.pool.records.get i
  fifo : t.pool.fifo = s.pool.fifo ++ if policy = .reclaim then l.filter fun i => decide (s.ownerOf i = some q) else []
  warnArmed : t.pool.warnArmed = (s.pool.warnArmed || (decide (policy = .reclaim) && !(s.ownedBy q l).isEmpty &&
    decide (min 192 (s.params.poolLow + 4) ≤ s.pool.fifo.length + (s.ownedBy q l).length)))
  moves : ∀ k, t.moves.get k = (s.moves.get k).bind fun c => if s.ownerOf c.index = some q ∧ c.index ∉ l then some c
    else resetContextBy q policy (s.ownerOf c.index) c
  entries : s.EntriesBy (giveUpSlot s.params.guard (s.givenBy policy (s.ownedBy q l))) t
  frame : s.SameFrame t
  carry : t.map.carry = s.map.carry
  params : t.params = s.params
  engine : t.engine = { s.engine with
    work := s.engine.work.withdraw q
    waitReq := s.engine.waitReq || s.waits.entries.any (fun e => decide (e.port = q)) ||
      decide (policy = .reclaim) && !(s.ownedBy q l).isEmpty ||
      heldFreed s.map.entries.get (s.givenBy policy (s.ownedBy q l)) }
  reports : t.reports = { s.reports with
    watch := s.reports.watch ++ (s.ownedBy q l).zipIdx.flatMap (s.recordReports policy (s.ownedBy q l)) }
  others : ∀ o, o ≠ q → t.ports.get o = { s.ports.get o with events := (t.ports.get o).events, lost := (t.ports.get o).lost }
  self : t.ports.get q = { (s.ports.get q).clear with
    promised := 0
    ownedSlots := if policy = .reclaim then (s.ports.get q).ownedSlots - ((s.ownedBy q l).map fun x => setTotal x.2.set).sum
      else (s.ports.get q).ownedSlots
    ownedRecords := if policy = .reclaim then (s.ports.get q).ownedRecords - (s.ownedBy q l).length
      else (s.ports.get q).ownedRecords }
  events : ∀ o, o ≠ q →
    (t.ports.get o).events = ((s.ports.get o).postAll
      ((s.ownedBy q l).zipIdx.flatMap (s.recordTells policy (s.ownedBy q l) o))).events ∧
    (t.ports.get o).lost = ((s.ports.get o).postAll
      ((s.ownedBy q l).zipIdx.flatMap (s.recordTells policy (s.ownedBy q l) o))).lost

/-! ## The records of the port -/

section
variable {q : Port} (l : List RecIx) {i : RecIx} {s : State}

theorem State.ownedBy_own {a : Reservation} (used : s.reservation i = some a) (own : a.owner = q) :
    s.ownedBy q (l ++ [i]) = s.ownedBy q l ++ [(handleOf i (s.pool.records.get i).gen, a)] := by
  have alloc : (s.pool.records.get i).alloc = some a := used
  have record : s.pool.records.get i = ⟨(s.pool.records.get i).gen, some a⟩ := by rw [← alloc]
  rw [State.ownedBy, List.filterMap_append, ← State.ownedBy]
  refine congrArg (s.ownedBy q l ++ ·) (List.filterMap_cons_some ?_)
  rw [record]
  exact if_pos own

theorem State.ownedBy_other (other : s.ownerOf i ≠ some q) : s.ownedBy q (l ++ [i]) = s.ownedBy q l := by
  rw [State.ownedBy, List.filterMap_append, ← State.ownedBy]
  refine (congrArg (s.ownedBy q l ++ ·) (List.filterMap_cons_none ?_)).trans (List.append_nil _)
  cases record : s.pool.records.get i with | mk gen alloc =>
  cases alloc with
  | none => rfl
  | some a =>
    refine if_neg fun own => other ?_
    rw [State.ownerOf, State.reservation, record]
    exact congrArg some own

theorem State.ownedBy_length : (s.ownedBy q l).length = (l.filter fun i => decide (s.ownerOf i = some q)).length := by
  induction l using List.reverseRecOn with
  | nil => rfl
  | append_singleton l i ih =>
    rw [List.filter_append, List.length_append, ← ih]
    by_cases own : s.ownerOf i = some q
    · obtain ⟨a, used, rfl⟩ := Option.map_eq_some_iff.mp own
      rw [State.ownedBy_own l used rfl, List.length_append]
      simp [own]
    · rw [State.ownedBy_other l own, List.filter_singleton, decide_eq_false own]
      rfl

end

/-- A list that reads no more of `xs` than the elements up to its own grows by what the new element adds. -/
theorem flatMap_zipIdx_concat {α β : Type} {f : List α → α × Nat → List β}
    (reads : ∀ {xs ys : List α} {x : α × Nat}, xs.take (x.2 + 1) = ys.take (x.2 + 1) → f xs x = f ys x) (xs : List α) (y : α) :
    (xs ++ [y]).zipIdx.flatMap (f (xs ++ [y])) = xs.zipIdx.flatMap (f xs) ++ f (xs ++ [y]) (y, xs.length) := by
  rw [List.zipIdx_append, List.flatMap_append]
  congr 1
  · refine List.flatMap_congr fun x hx => reads ?_
    have below : x.2 < xs.length := by
      have := List.snd_lt_of_mem_zipIdx hx
      omega
    exact List.take_append_of_le_length below
  · simp

/-! ## Moves -/

theorem State.MovesAgree.contextOf_iff {s : State} (agree : s.MovesAgree) {i : RecIx} {a : Reservation}
    (used : s.reservation i = some a) {k : CtxIx} {c : MoveContext} :
    s.contextOf a = some (k, c) ↔ s.moves.get k = some c ∧ c.index = i := by
  rw [State.contextOf_eq_some]
  constructor
  · rintro ⟨moving, context, inUse⟩
    have named := agree.2 i a used
    rw [if_pos moving] at named
    obtain ⟨j, d, hj, hd, rfl⟩ := named
    obtain rfl : k = j := Option.some_inj.mp (context.symm.trans hj)
    obtain rfl : c = d := Option.some_inj.mp (inUse.symm.trans hd)
    exact ⟨inUse, rfl⟩
  · rintro ⟨inUse, rfl⟩
    obtain ⟨b, record, moving, context⟩ := agree.1 k c inUse
    obtain rfl : b = a := Option.some_inj.mp ((congrArg Record.alloc record).symm.trans used)
    exact ⟨moving, context, inUse⟩

theorem resetContextBy_index {q : Port} {policy : ResetPolicy} {owner : Option Port} {c d : MoveContext}
    (h : resetContextBy q policy owner c = some d) : d.index = c.index := by
  unfold resetContextBy at h
  split at h
  · split at h
    · cases h
    · split at h
      · cases h
      · rw [Option.some_inj.mp h]
  · rw [← Option.some_inj.mp h]
    split <;> rfl

section
variable {q : Port} {policy : ResetPolicy} {l : List RecIx} {s t : State} (agree : s.MovesAgree) (h : s.ResetUpTo q policy l t)
  {i : RecIx} (fresh : i ∉ l)
include h fresh

theorem State.ResetUpTo.record : t.pool.records.get i = s.pool.records.get i := (h.records i).trans (if_neg fresh)

theorem State.ResetUpTo.reservation : t.reservation i = s.reservation i := congrArg Record.alloc (h.record fresh)

include agree

/-- A record not yet dealt with has the context it had. -/
theorem State.ResetUpTo.contextOf {a : Reservation} (used : s.reservation i = some a) (own : a.owner = q) :
    t.contextOf a = s.contextOf a := by
  have owner : s.ownerOf i = some q := by rw [State.ownerOf, used, ← own]; rfl
  ext ⟨k, c⟩
  rw [h.agree.contextOf_iff ((h.reservation fresh).trans used), agree.contextOf_iff used, h.moves k]
  refine and_congr_left fun index => ?_
  cases s.moves.get k with
  | none => rfl
  | some d =>
    rw [Option.bind_some]
    by_cases same : d.index = i
    · rw [if_pos ⟨by rw [same]; exact owner, by rw [same]; exact fresh⟩]
    · constructor
      · intro after
        split at after
        · exact after
        · exact absurd ((resetContextBy_index after).symm.trans index) same
      · intro before
        obtain rfl := Option.some_inj.mp before
        exact absurd index same

theorem State.ResetUpTo.givenOf {a : Reservation} (used : s.reservation i = some a) (own : a.owner = q) :
    t.givenOf policy a = s.givenOf policy a := by
  have context := h.contextOf agree fresh used own
  unfold State.givenOf State.targetOf
  rw [context]

end

end Sys2Proof.Machine
end

section
/-! PROOFS. A port reset record by record (R32, R43, R83, R118, R120, R145, R185, R188). -/

namespace Sys2Proof.Machine

/-! ## Give-ups one after the other -/

theorem State.givenBy_concat (policy : ResetPolicy) (owned : List (Handle × Reservation)) (s : State) (x : Handle × Reservation) :
    s.givenBy policy (owned ++ [x]) = s.givenBy policy owned ++ s.givenOf policy x.2 := by
  simp [State.givenBy]

theorem State.entryAfter_concat (policy : ResetPolicy) (owned : List (Handle × Reservation)) (s : State)
    (x : Handle × Reservation) : s.entryAfter policy (owned ++ [x]) (owned.length + 1) = fun j =>
      giveUpSlot s.params.guard (s.givenOf policy x.2) j.val (giveUpSlot s.params.guard (s.givenBy policy owned) j.val (s.map.entries.get j)) := by
  funext j
  rw [giveUpSlot_append, ← State.givenBy_concat]
  unfold State.entryAfter
  rw [List.take_of_length_le (by simp)]

theorem State.entryAfter_length (policy : ResetPolicy) (owned : List (Handle × Reservation)) (s : State)
    (x : Handle × Reservation) : s.entryAfter policy (owned ++ [x]) owned.length = fun j =>
      giveUpSlot s.params.guard (s.givenBy policy owned) j.val (s.map.entries.get j) := by
  funext j
  unfold State.entryAfter
  rw [List.take_left]

theorem State.entryAfter_reads (policy : ResetPolicy) (s : State) {xs ys : List (Handle × Reservation)} {k : Nat}
    (same : xs.take k = ys.take k) : s.entryAfter policy xs k = s.entryAfter policy ys k := by
  funext j
  unfold State.entryAfter
  rw [same]

theorem take_of_take_succ {α : Type} {xs ys : List α} {k : Nat} (same : xs.take (k + 1) = ys.take (k + 1)) :
    xs.take k = ys.take k := by
  have := congrArg (List.take k) same
  rwa [List.take_take, List.take_take, Nat.min_eq_left (Nat.le_succ k)] at this

theorem State.recordTells_reads (policy : ResetPolicy) (s : State) (o : Port) {xs ys : List (Handle × Reservation)}
    {x : (Handle × Reservation) × Nat} (same : xs.take (x.2 + 1) = ys.take (x.2 + 1)) :
    s.recordTells policy xs o x = s.recordTells policy ys o x := by
  unfold State.recordTells
  rw [State.entryAfter_reads policy s (take_of_take_succ same)]

theorem State.recordReports_reads (policy : ResetPolicy) (s : State) {xs ys : List (Handle × Reservation)}
    {x : (Handle × Reservation) × Nat} (same : xs.take (x.2 + 1) = ys.take (x.2 + 1)) :
    s.recordReports policy xs x = s.recordReports policy ys x := by
  unfold State.recordReports
  rw [State.entryAfter_reads policy s (take_of_take_succ same), State.entryAfter_reads policy s same]

theorem heldFreed_append (guard : Nat) (entry : SlotIx → Slot) (xs ys : List Run) : heldFreed entry (xs ++ ys) =
    (heldFreed entry xs || heldFreed (fun j => giveUpSlot guard xs j.val (entry j)) ys) := by
  have slot (j : SlotIx) : (inSet (xs ++ ys) j.val && !(entry j).barPending && decide ((entry j).state = .held)) =
      ((inSet xs j.val && !(entry j).barPending && decide ((entry j).state = .held)) ||
        (inSet ys j.val && !(giveUpSlot guard xs j.val (entry j)).barPending &&
          decide ((giveUpSlot guard xs j.val (entry j)).state = .held))) := by
    rw [inSet_append]
    unfold giveUpSlot
    cases inSet xs j.val with
    | false => simp
    | true =>
      cases entry j with
      | held i role armed b => cases b <;> simp [Slot.barPending, Slot.state]
      | _ => simp [Slot.state]
  unfold heldFreed
  rw [Bool.eq_iff_iff]
  simp only [List.any_eq_true, Bool.or_eq_true, List.mem_finRange, true_and, slot]
  exact exists_or

/-! ## The recovery -/

theorem decide_lt_eq_not_le (level n : Nat) : decide (n < level) = !decide (level ≤ n) := by
  rw [← decide_not]
  simp only [Nat.not_le]

/-- A flag set where the level is reached, at the first freeing that reaches it, is the flag of the freeings so far. -/
theorem flag_or_becomes_set (flag first : Bool) (level n : Nat) :
    ((flag || !first && decide (level ≤ n)) || (!flag && decide (level ≤ n + 1) && (first || decide (n < level)))) =
      (flag || decide (level ≤ n + 1)) := by
  rw [decide_lt_eq_not_le]
  by_cases reached : level ≤ n
  · have later : level ≤ n + 1 := Nat.le_succ_of_le reached
    cases flag <;> cases first <;> simp [reached, later]
  · cases flag <;> cases first <;> simp [reached]

/-! ## The steps -/

section
variable {q : Port} {l : List RecIx} {s t : State} (agree : s.MovesAgree)

/-- Before the records the port's dealings are cleared. -/
theorem State.resetUpTo_nil (policy : ResetPolicy) (agree : s.MovesAgree) : s.ResetUpTo q policy [] (s.resetDealings q) where
  agree := (State.resetDealings_acts q s).keeps (fun _ _ a => a.keeps_moves) agree
  records i := by simp
  fifo := by simp
  warnArmed := by simp [State.ownedBy]
  moves k := by
    rw [State.resetDealings_moves]
    cases s.moves.get k with
    | none => rfl
    | some c =>
      rw [Option.map_some, Option.bind_some]
      by_cases own : s.ownerOf c.index = some q
      · simp [own]
      · simp [own, resetContextBy]
  entries j := by simp [State.givenBy, State.ownedBy]
  frame := by simp [State.SameFrame]
  carry := by simp
  params := by simp
  engine := by
    have freed : heldFreed s.map.entries.get [] = false := by simp [heldFreed, inSet]
    rw [State.resetDealings_engine, State.ownedBy, List.filterMap_nil, State.givenBy, List.flatMap_nil, freed]
    simp
  reports := by simp [State.ownedBy]
  others o other := by rw [State.resetDealings_ports, Table.get_modify_ne _ _ (Ne.symm other)]
  self := by simp [State.ownedBy, ClientPort.clear]
  events o other := by
    rw [State.resetDealings_ports, Table.get_modify_ne _ _ (Ne.symm other)]
    exact ⟨rfl, rfl⟩

variable {policy : ResetPolicy} (h : s.ResetUpTo q policy l t) {i : RecIx} (fresh : i ∉ l)
include agree h fresh

omit agree in
theorem State.ResetUpTo.next_other (other : s.ownerOf i ≠ some q) : s.ResetUpTo q policy (l ++ [i]) t := by
  have owned := State.ownedBy_other l other
  have kept : resetRecordBy q policy (((s.reservation i).bind s.contextOf).map Prod.snd) (s.pool.records.get i) =
      s.pool.records.get i := by
    unfold resetRecordBy
    cases alloc : (s.pool.records.get i).alloc with
    | none => rfl
    | some a =>
      refine if_pos fun own => other ?_
      rw [State.ownerOf, State.reservation, alloc]
      exact congrArg some own
  refine ⟨h.agree, fun j => ?_, ?_, by rw [owned]; exact h.warnArmed, fun k => ?_, by rw [owned]; exact h.entries, h.frame,
    h.carry, h.params, by rw [owned]; exact h.engine, by rw [owned]; exact h.reports, h.others, by rw [owned]; exact h.self,
    by rw [owned]; exact h.events⟩
  · rw [h.records j]
    by_cases same : j = i
    · subst same
      rw [if_neg fresh, if_pos (by simp), kept]
    · simp [same]
  · rw [h.fifo, List.filter_append, List.filter_singleton, decide_eq_false other, cond_false, List.append_nil]
  · rw [h.moves k]
    cases s.moves.get k with
    | none => rfl
    | some c =>
      refine if_congr (and_congr_right fun own => ?_) rfl rfl
      have apart : c.index ≠ i := fun same => other (by rw [← same]; exact own)
      simp [apart]

omit agree fresh in
/-- The recovery comes with the freeing of the next record where it is due then and was not due before (R32). -/
theorem State.ResetUpTo.recovery :
    (decide (policy = .reclaim) && t.recoveryAfterFreeing) = s.recoversAt policy (s.ownedBy q l).length := by
  unfold State.recoversAt State.recoveryAfterFreeing State.recoveryLevel State.freeRecords
  cases policy with
  | retain => rfl
  | reclaim =>
    rw [h.warnArmed, h.fifo, h.params, if_pos rfl, List.length_append, ← State.ownedBy_length, Config.recoveryStep]
    generalize min 192 (s.params.poolLow + 4) = level
    cases s.ownedBy q l with
    | nil => simp
    | cons x xs => cases s.pool.warnArmed <;> simp [Bool.and_comm, decide_lt_eq_not_le]

theorem State.ResetUpTo.next_own {u : State} {a : Reservation} (used : s.reservation i = some a) (own : a.owner = q)
    (keeps : u.MovesAgree) (params : u.params = t.params) (d : State.DealtWith q policy i a t u) :
    s.ResetUpTo q policy (l ++ [i]) u := by
  have owner : s.ownerOf i = some q := by rw [State.ownerOf, used, ← own]; rfl
  have owned := State.ownedBy_own l used own
  have record := h.record fresh
  have context := h.contextOf agree fresh used own
  have given := h.givenOf agree fresh used own
  have entries : t.map.entries.get = fun j =>
      giveUpSlot s.params.guard (s.givenBy policy (s.ownedBy q l)) j.val (s.map.entries.get j) := funext h.entries
  refine ⟨keeps, fun j => ?records, ?fifo, ?warnArmed, fun k => ?moves, fun j => ?entries, ?frame, d.carry.trans h.carry,
    params.trans h.params, ?engine, ?reports, fun o other => ?others, ?self, fun o other => ?events⟩
  case records =>
    rw [d.records, Table.get_set]
    by_cases same : i = j
    · subst same
      rw [if_pos rfl, if_pos (by simp), context, record, used, Option.bind_some]
    · rw [if_neg same, h.records j]
      simp [Ne.symm same]
  case fifo =>
    rw [d.fifo, h.fifo, List.filter_append]
    split <;> simp [owner]
  case warnArmed =>
    rw [d.warnArmed, h.recovery, h.warnArmed, owned, State.recoversAt, List.length_append, List.length_singleton, ← Nat.add_assoc]
    generalize min 192 (s.params.poolLow + 4) = level
    generalize s.pool.fifo.length = free
    cases policy with
    | retain => simp
    | reclaim =>
      have empty : (s.ownedBy q l).isEmpty = decide ((s.ownedBy q l).length = 0) := by cases s.ownedBy q l <;> rfl
      have more (x : Handle × Reservation) : (s.ownedBy q l ++ [x]).isEmpty = false := by cases s.ownedBy q l <;> rfl
      have step := flag_or_becomes_set s.pool.warnArmed (decide ((s.ownedBy q l).length = 0)) level
        (free + (s.ownedBy q l).length)
      rw [more]
      simpa [empty] using step
  case moves =>
    rw [d.moves k, h.moves k, context]
    cases inUse : s.moves.get k with
    | none => simp
    | some c =>
      rw [Option.bind_some, Option.bind_some]
      by_cases same : c.index = i
      · have mine := (agree.contextOf_iff used).mpr ⟨inUse, same⟩
        rw [mine, Option.map_some, if_pos rfl, if_pos ⟨by rw [same]; exact owner, by rw [same]; exact fresh⟩,
          Option.bind_some, same, owner, if_neg (by simp)]
      · have notMine : (s.contextOf a).map Prod.fst ≠ some k := fun mine => by
          obtain ⟨⟨j, e⟩, moving, rfl⟩ := Option.map_eq_some_iff.mp mine
          obtain ⟨inUse', index⟩ := (agree.contextOf_iff used).mp moving
          obtain rfl : c = e := Option.some_inj.mp (inUse.symm.trans inUse')
          exact same index
        rw [if_neg notMine]
        simp [same]
  case entries =>
    rw [d.entries, h.entries, h.params, given, giveUpSlot_append, owned, State.givenBy_concat]
  case frame =>
    obtain ⟨image, mark, timing⟩ := h.frame
    obtain ⟨image', mark', timing'⟩ := d.frame
    exact ⟨image'.trans image, mark'.trans mark, timing'.trans timing⟩
  case engine =>
    rw [d.engine, h.engine, entries, given, owned, State.givenBy_concat, heldFreed_append s.params.guard]
    cases policy <;> simp [Bool.or_assoc]
  case reports =>
    have told : t.dealingReports policy (handleOf i (s.pool.records.get i).gen) a = s.recordReports policy
        (s.ownedBy q l ++ [(handleOf i (s.pool.records.get i).gen, a)])
        ((handleOf i (s.pool.records.get i).gen, a), (s.ownedBy q l).length) := by
      unfold State.dealingReports State.recordReports
      dsimp only
      rw [State.entryAfter_length, State.entryAfter_concat, context, given, entries, h.params]
      simp only [decide_eq_true_eq]
    rw [d.reports, h.reports, owned, flatMap_zipIdx_concat (State.recordReports_reads policy s), record, told, List.append_assoc]
  case others =>
    rw [d.ports o, h.others o other]
    simp [Ne.symm other]
  case self =>
    have silent := d.events q
    dsimp only at silent
    rw [if_pos rfl] at silent
    rw [d.ports q, silent.1, silent.2, owned]
    simp only [ClientPort.postAll, List.foldl_nil, h.self]
    cases policy <;> simp [Nat.sub_sub]
  case events =>
    have notices : (t.ports.get o).attrs = (s.ports.get o).attrs := by rw [h.others o other]
    have now : t.now = s.timing.frameCounter := by rw [State.now, h.frame.2.2]
    have told : t.dealingEvents policy (handleOf i (s.pool.records.get i).gen) a o = s.recordTells policy
        (s.ownedBy q l ++ [(handleOf i (s.pool.records.get i).gen, a)]) o
        ((handleOf i (s.pool.records.get i).gen, a), (s.ownedBy q l).length) := by
      unfold State.dealingEvents State.recordTells
      dsimp only
      rw [State.entryAfter_length, context, given, entries, notices, now, h.recovery]
      cases policy with
      | retain => rw [show s.recoversAt .retain (s.ownedBy q l).length = false from rfl, Bool.and_false] <;> rfl
      | reclaim =>
        rw [State.freeRecords, h.fifo, if_pos rfl, List.length_append, ← State.ownedBy_length] <;> rfl
    obtain ⟨events, lost⟩ := h.events o other
    obtain ⟨events', lost'⟩ := d.events o
    dsimp only at events' lost'
    rw [if_neg other, record, told] at events' lost'
    obtain ⟨same, same'⟩ := ClientPort.postAll_congr _ events lost
    rw [owned, flatMap_zipIdx_concat (State.recordTells_reads policy s o), ClientPort.postAll_append]
    exact ⟨events'.trans same, lost'.trans same'⟩

end

end Sys2Proof.Machine
end

section
/-! PROOFS. RESET_PORT and SELF_RESET (R20, R32, R43, R83, R118, R120, R145, R171, R185 to R188). -/

namespace Sys2Proof.Machine

/-! ## All records in turn -/

theorem State.ResetUpTo.next {q : Port} {policy : ResetPolicy} {l : List RecIx} {s t : State} (agree : s.MovesAgree)
    (h : s.ResetUpTo q policy l t) {i : RecIx} (fresh : i ∉ l) : s.ResetUpTo q policy (l ++ [i]) (t.resetRecord q policy i) := by
  have same := h.reservation fresh
  by_cases own : s.ownerOf i = some q
  · obtain ⟨a, used, owner⟩ := Option.map_eq_some_iff.mp own
    exact h.next_own agree fresh used owner ((State.resetRecord_acts q policy t i).keeps (fun _ _ a => a.keeps_moves) h.agree)
      (State.resetRecord_params _ _ _ _) (State.resetRecord_dealtWith (same.trans used) owner h.agree policy)
  · have kept : t.resetRecord q policy i = t := by
      unfold State.resetRecord
      exact if_neg (by rw [State.ownerOf, same]; exact own)
    rw [kept]
    exact h.next_other fresh own

theorem State.portReset_upTo (q : Port) {s : State} (agree : s.MovesAgree) :
    s.ResetUpTo q (s.ports.get q).attrs.policy allRecords (s.portReset q) := by
  have policy : ((s.resetDealings q).ports.get q).attrs.policy = (s.ports.get q).attrs.policy := by
    rw [State.resetDealings_ports, Table.get_modify_self]
    rfl
  have upTo (l : List RecIx) (nodup : l.Nodup) : s.ResetUpTo q (s.ports.get q).attrs.policy l
      (l.foldl (fun t i => t.resetRecord q (s.ports.get q).attrs.policy i) (s.resetDealings q)) := by
    induction l using List.reverseRecOn with
    | nil => exact State.resetUpTo_nil _ agree
    | append_singleton l i ih =>
      obtain ⟨nodup, -, apart⟩ := List.nodup_append.mp nodup
      rw [List.foldl_append]
      exact (ih nodup).next agree fun hi => apart i hi i (List.mem_singleton_self i) rfl
  unfold State.portReset
  dsimp only
  rw [policy]
  exact upTo allRecords (List.nodup_finRange 192)

theorem State.givenByReset_eq (q : Port) (s : State) :
    s.givenByReset q = s.givenBy (s.ports.get q).attrs.policy (s.ownedBy q allRecords) := by
  unfold State.givenByReset State.givenBy State.ownedBy
  rw [List.filterMap_eq_flatMap_toList, List.flatMap_assoc]
  refine List.flatMap_congr fun i _ => ?_
  unfold State.reservation State.givenOf
  cases s.pool.records.get i with | mk gen alloc =>
  cases alloc with
  | none => rfl
  | some a =>
    by_cases own : a.owner = q
    · simp only [own, ne_eq, not_true_eq_false, if_false, if_true, Option.toList_some, List.flatMap_cons, List.flatMap_nil,
        List.append_nil]
    · simp only [own, ne_eq, not_false_eq_true, if_true, if_false, Option.toList_none, List.flatMap_nil]

theorem State.portReset_moves (q : Port) {s : State} (agree : s.MovesAgree) (k : CtxIx) : (s.portReset q).moves.get k =
    (s.moves.get k).bind fun c => resetContextBy q (s.ports.get q).attrs.policy (s.ownerOf c.index) c := by
  rw [(State.portReset_upTo q agree).moves k]
  refine congrArg _ (funext fun c => ?_)
  rw [if_neg fun kept => kept.2 (List.mem_finRange c.index)]

theorem State.portReset_resetBy (q : Port) {s : State} (agree : s.MovesAgree) : s.ResetBy q (s.portReset q) := by
  have h := State.portReset_upTo q agree
  have all (i : RecIx) : i ∈ allRecords := List.mem_finRange i
  refine ⟨?_, State.portReset_waits q s, fun k => State.portReset_units q k s,
    State.portReset_moves q agree, fun i => ?_, h.fifo, ?_, fun retain => ?_,
    (congrArg Reports.pool h.reports :), (congrArg Reports.move h.reports :), h.frame, State.portReset_marks q s, h.params, h.carry,
    State.portReset_resetLow q s⟩
  · rw [h.self]
    exact ⟨rfl, rfl, rfl, rfl, rfl, rfl, rfl, rfl, rfl⟩
  · rw [h.records i, if_pos (all i)]
  · rw [State.givenByReset_eq]
    exact h.entries
  · rw [h.self, retain]
    exact ⟨rfl, rfl⟩

theorem State.portReset_resetTells (q : Port) {s : State} (agree : s.MovesAgree) : s.ResetTells q (s.portReset q) := by
  have h := State.portReset_upTo q agree
  refine ⟨h.events, (congrArg Reports.watch h.reports :), h.warnArmed, fun reclaims => ?_, ?_⟩
  · rw [h.self, if_pos (of_decide_eq_true reclaims), if_pos (of_decide_eq_true reclaims)]
    exact ⟨rfl, rfl⟩
  · have unrewritten : s.entryAfter (s.ports.get q).attrs.policy (s.ownedBy q allRecords) 0 = s.map.entries.get := by
      funext j
      exact giveUpSlot_nil _ _ _
    rw [h.engine, ← unrewritten]
    rfl

/-! ## The answer -/

theorem countP_eq_add {α : Type} {p r d : α → Bool} (l : List α) (parts : ∀ x, (p x).toNat = (r x).toNat + (d x).toNat) :
    l.countP p = l.countP r + l.countP d := by
  induction l with
  | nil => rfl
  | cons x l ih =>
    have one (b : Bool) : (if b = true then 1 else 0) = b.toNat := by cases b <;> rfl
    rw [List.countP_cons, List.countP_cons, List.countP_cons, ih, one, one, one, parts]
    omega

/-- The contexts a reset frees are the abandoned moves it counts. -/
theorem State.contextsInUse_freed {q : Port} {policy : ResetPolicy} {s t : State}
    (moves : ∀ k, t.moves.get k = (s.moves.get k).bind fun c => resetContextBy q policy (s.ownerOf c.index) c) :
    s.contextsInUse - t.contextsInUse = s.moves.toList.countP fun m => m.any fun c =>
      decide (s.ownerOf c.index = some q) && (decide (policy = .reclaim) || c.isOffered) := by
  unfold State.contextsInUse
  rw [Table.countP_toList, Table.countP_toList, Table.countP_toList]
  refine (congrArg (· - _) (countP_eq_add _ fun k => ?_)).trans (Nat.add_sub_cancel_left _ _)
  rw [moves k]
  cases s.moves.get k with
  | none => rfl
  | some c =>
    rw [Option.bind_some, Option.any_some]
    unfold resetContextBy
    by_cases own : s.ownerOf c.index = some q
    · cases policy with
      | reclaim => simp [own]
      | retain => cases offered : c.isOffered <;> simp [own]
    · simp [own]

theorem State.resetBody_eq (q : Port) {s : State} (agree : s.MovesAgree) :
    s.resetBody q = (s.ports.get q).attrs.policy.code :: s.CountsOfReset q := by
  unfold State.resetBody State.resetCounts State.CountsOfReset
  dsimp only
  rw [State.contextsInUse_freed (State.portReset_moves q agree)]
  rfl

/-- Where a port of `t` takes a response, the tables, the events and the holdings stay. -/
theorem State.ResetBy.respond {q : Port} {s t u : State} (h : s.ResetBy q t) (rest : u = { t with ports := u.ports })
    (self : ∃ stored inFlight, u.ports.get q = { t.ports.get q with stored := stored, inFlight := inFlight }) :
    s.ResetBy q u := by
  obtain ⟨stored, inFlight, self⟩ := self
  rw [rest]
  obtain ⟨port, waits, units, moves, records, fifo, entries, holdings, others⟩ := h
  refine ⟨?_, waits, units, moves, records, fifo, entries, fun retain => ?_, others⟩
  · dsimp only
    rw [self]
    exact port
  · dsimp only
    rw [self]
    exact holdings retain

theorem State.ResetTells.respond {q : Port} {s t u : State} (h : s.ResetTells q t) (rest : u = { t with ports := u.ports })
    (self : ∃ stored inFlight, u.ports.get q = { t.ports.get q with stored := stored, inFlight := inFlight })
    (others : ∀ o, (u.ports.get o).events = (t.ports.get o).events ∧ (u.ports.get o).lost = (t.ports.get o).lost) :
    s.ResetTells q u := by
  obtain ⟨stored, inFlight, self⟩ := self
  rw [rest]
  obtain ⟨events, watch, flag, holdings, pass⟩ := h
  refine ⟨fun o other => ?_, watch, flag, fun reclaims => ?_, pass⟩
  · obtain ⟨events', lost'⟩ := others o
    exact ⟨events'.trans (events o other).1, lost'.trans (events o other).2⟩
  · dsimp only
    rw [self]
    exact holdings reclaims

/-! ## RESET_PORT and SELF_RESET -/

section
variable {p q : Port} (tag : Byte) (body : List Byte) (t : State)

theorem State.placeResetAnswer_ports (o : Port) : (t.modPort q (ClientPort.placeResetAnswer tag body)).ports.get o =
    if q = o then { t.ports.get o with stored := (t.ports.get o).stored ++ [⟨tag, .ok, body, true⟩], inFlight := [tag] }
    else t.ports.get o := by
  rw [State.modPort_ports, Table.get_modify]
  rfl

end

/-- A command in the engine that resets port `q`: the reset, then the response of the last step. -/
theorem exec_resetPort {p q : Port} {tag : Byte} {scan : Option Scan} {s : State} (e : s.Engaged p tag (.resetPort q) scan) :
    exec .resetPort s = .next (State.resetPortCompletion q ⟨p, tag, .resetPort q, false, scan⟩ (s.setWork .idle)) :=
  next_congr (State.complete_of_engaged e _ (State.resetPortCompletion q) rfl)

end Sys2Proof.Machine
end

section
/-! PROOFS. The port reset of RESET_PORT and SELF_RESET, and what it tells the rest of the part (R145, R185 to R188). -/

namespace Sys2Proof.Machine

section
variable {q : Port} {policy : ResetPolicy} {l : List RecIx} {s t : State} (h : s.ResetUpTo q policy l t) (tag : Byte) (body : List Byte)

/-! ## A port that resets itself -/

section
include h

theorem State.ResetUpTo.silent : (t.ports.get q).events = [] ∧ (t.ports.get q).lost = 0 := by
  rw [h.self]
  exact ⟨rfl, rfl⟩

theorem State.ResetUpTo.unanswered : (t.ports.get q).stored = [] ∧ (t.ports.get q).inFlight = [] := by
  rw [h.self]
  exact ⟨rfl, rfl⟩

theorem State.ResetUpTo.own_self : (t.modPort q (ClientPort.placeResetAnswer tag body)).ports.get q =
    { t.ports.get q with stored := [⟨tag, .ok, body, true⟩], inFlight := [tag] } := by
  rw [State.placeResetAnswer_ports, if_pos rfl, h.unanswered.1]
  rfl

theorem State.ResetUpTo.own_others : s.OthersBut q (t.modPort q (ClientPort.placeResetAnswer tag body)) := by
  intro o other
  rw [State.placeResetAnswer_ports, if_neg (Ne.symm other)]
  exact h.others o other

theorem State.ResetUpTo.own_resetBy (done : s.ResetBy q t) :
    s.ResetBy q (t.modPort q (ClientPort.placeResetAnswer tag body)) :=
  done.respond rfl ⟨_, _, h.own_self tag body⟩

theorem State.ResetUpTo.own_resetTells (done : s.ResetTells q t) :
    s.ResetTells q (t.modPort q (ClientPort.placeResetAnswer tag body)) :=
  done.respond rfl ⟨_, _, h.own_self tag body⟩ fun o => by
    rw [State.placeResetAnswer_ports]
    split <;> exact ⟨rfl, rfl⟩

end

/-! ## A port reset by another -/

variable {p : Port} (other : p ≠ q) (queue : (s.ports.get p).queue ≠ [])
include h other queue

theorem State.ResetUpTo.answer_ports (o : Port) : (t.answer p tag .ok body).ports.get o =
    if p = o then { s.ports.get o with
      queue := (s.ports.get o).queue.tail
      stored := (s.ports.get o).stored ++ [⟨tag, .ok, body, true⟩]
      events := (t.ports.get o).events
      lost := (t.ports.get o).lost }
    else t.ports.get o := by
  rw [State.answer_ports_get]
  split
  · next same =>
    subst same
    have caller := h.others p other
    rw [ClientPort.answer_of_ne _ _ _ (by rw [caller]; exact queue), caller]
  · rfl

theorem State.ResetUpTo.answer_resetBy (done : s.ResetBy q t) : s.ResetBy q (t.answer p tag .ok body) :=
  done.respond rfl ⟨_, _, by rw [h.answer_ports tag body other queue, if_neg other]⟩

theorem State.ResetUpTo.answer_resetTells (done : s.ResetTells q t) : s.ResetTells q (t.answer p tag .ok body) :=
  done.respond rfl ⟨_, _, by rw [h.answer_ports tag body other queue, if_neg other]⟩ fun o => by
    rw [h.answer_ports tag body other queue]
    split <;> exact ⟨rfl, rfl⟩

end

/-! ## The commands -/

section
variable {p q : Port} (tag : Byte) (req : Request) (scan : Option Scan) (s : State)

theorem State.resetPortCompletion_own : s.resetPortCompletion p ⟨p, tag, req, false, scan⟩ =
    (s.portReset p).modPort p (ClientPort.placeResetAnswer tag (byteOf p.val :: s.resetBody p)) := if_pos rfl

theorem State.resetPortCompletion_other (other : p ≠ q) : s.resetPortCompletion q ⟨p, tag, req, false, scan⟩ =
    (s.portReset q).answer p tag .ok (byteOf q.val :: s.resetBody q) := if_neg (Ne.symm other)

end

section
variable {p : Port} {q : QueuedCommand} {rest : List QueuedCommand} {s : State} (high : s.resetLow = false)
  (queue : (s.ports.get p).queue = q :: rest) (code : q.code = 0x22#8)
include high queue code

theorem exec_selfReset : exec (.selfReset p) s = .next (State.selfResetAnswer p q s) :=
  next_congr (State.answerLocal_of_head high queue (State.selfResetAnswer p) code)

/-- SELF_RESET with no body: the reset, and its response in a free place (R186). -/
theorem exec_selfReset_of_empty (empty : q.body = []) : exec (.selfReset p) s =
    .next ((s.portReset p).modPort p (ClientPort.placeResetAnswer q.tag (s.resetBody p))) := by
  rw [exec_selfReset high queue code, State.selfResetAnswer, empty]

end

/-- Settles O41: the reset of all records in turn, and the response of the last step. -/
theorem portResetMade : Obligations.PortResetMade := by
  refine ⟨fun p q tag scan s e agree => ?_, fun p q rest s high agree queue code => ⟨fun some => ?_, fun empty => ?_⟩⟩
  · have idle : (s.setWork .idle).MovesAgree := agree
    have run := exec_resetPort e
    have h := State.portReset_upTo q idle
    have done := State.portReset_resetBy q idle
    have body := State.resetBody_eq q idle
    dsimp only
    by_cases own : p = q
    · subst own
      rw [State.resetPortCompletion_own, body] at run
      generalize (s.setWork .idle).portReset p = t at run h done
      refine ⟨_, run, h.own_resetBy tag _ done, (congrArg Engine.work h.engine :), (congrArg Engine.rrPos h.engine :),
        (congrArg Engine.rover h.engine :), fun apart => absurd rfl apart, fun _ => ?_, fun o other _ => h.own_others tag _ o other⟩
      rw [h.own_self]
      exact ⟨rfl, rfl⟩
    · rw [State.resetPortCompletion_other _ _ _ _ own, body] at run
      generalize (s.setWork .idle).portReset q = t at run h done
      have ports (body : List Byte) := h.answer_ports tag body own e.queue
      refine ⟨_, run, h.answer_resetBy tag _ own e.queue done, (congrArg Engine.work h.engine :), (congrArg Engine.rrPos h.engine :),
        (congrArg Engine.rover h.engine :), fun _ => ⟨?_, ?_⟩, fun same => absurd same own, fun o notCaller other => ?_⟩
      · refine ⟨(congrArg ClientPort.queue (ports _ p)).trans ?_, (congrArg ClientPort.stored (ports _ p)).trans ?_⟩ <;> rw [if_pos rfl] <;> rfl
      · refine ⟨(congrArg ClientPort.stored (ports _ q)).trans ?_, (congrArg ClientPort.inFlight (ports _ q)).trans ?_⟩ <;>
          rw [if_neg own]
        · exact h.unanswered.1
        · exact h.unanswered.2
      · rw [(ports _ o).trans (if_neg (Ne.symm notCaller))]
        exact h.others o other
  · refine (exec_selfReset high queue code).trans (next_congr ?_)
    unfold State.selfResetAnswer
    cases body : q.body with
    | nil => exact absurd body some
    | cons b bs => exact State.answer_of_cons queue q.tag .badArgument []
  · have run := exec_selfReset_of_empty high queue code empty
    have h := State.portReset_upTo p agree
    have done := State.portReset_resetBy p agree
    rw [State.resetBody_eq p agree] at run
    generalize s.portReset p = t at run h done
    refine ⟨_, run, h.own_resetBy q.tag _ done, ?_, ?_, h.own_others q.tag _, (congrArg Engine.rrPos h.engine :),
      (congrArg Engine.rover h.engine :), fun c inEngine => (congrArg Engine.work h.engine :).trans ?_⟩
    · rw [h.own_self]
    · rw [h.own_self]
    · dsimp only
      rw [inEngine]
      rfl

/-- Settles O42: the events, the reports, the holdings and the request of the records in turn; the responses tell no other. -/
theorem portResetTellsOthers : Obligations.PortResetTellsOthers := by
  refine ⟨fun p q tag scan s e agree => ?_, fun p q rest s high agree queue code empty => ?_⟩
  · have idle : (s.setWork .idle).MovesAgree := agree
    have run := exec_resetPort e
    have h := State.portReset_upTo q idle
    have done := State.portReset_resetTells q idle
    by_cases own : p = q
    · subst own
      rw [State.resetPortCompletion_own] at run
      generalize (s.setWork .idle).portReset p = t at run h done
      refine ⟨_, run, h.own_resetTells tag _ done, ?_⟩
      rw [h.own_self]
      exact h.silent
    · rw [State.resetPortCompletion_other _ _ _ _ own] at run
      generalize (s.setWork .idle).portReset q = t at run h done
      refine ⟨_, run, h.answer_resetTells tag _ own e.queue done, ?_⟩
      rw [h.answer_ports tag _ own e.queue, if_neg own]
      exact h.silent
  · have run := exec_selfReset_of_empty high queue code empty
    have h := State.portReset_upTo p agree
    have done := State.portReset_resetTells p agree
    generalize s.portReset p = t at run h done
    refine ⟨_, run, h.own_resetTells q.tag _ done, ?_⟩
    rw [h.own_self]
    exact h.silent

end Sys2Proof.Machine
end

section
/-! PROOFS. The links under RESET and under a port reset (R127, R137, R145, R146). -/

namespace Sys2Proof.Machine

/-! ## Under RESET -/

theorem State.powerOn_link (low : Bool) (right : Nat → Bool) (s : State) (p : Port) :
    ((s.powerOn low right).ports.get p).link = if (s.ports.get p).link = .none then .none else .ignored := by
  rw [State.powerOn_ports, ← Link.underReset_eq]
  rfl

section
variable {p : Port} {s : State} (ended : s.resetLow = true ∨ (s.ports.get p).link = .ignored)
include ended

/-- A transfer that RESET has ignored only ends (R146). -/
theorem State.endTransfer_of_ended (judge : ClientPort → ClientPort) :
    s.endTransfer p judge = s.modPort p fun c => { c with link := .none } := by
  rcases ended with low | ignored
  · exact State.endTransfer_of_resetLow low p judge
  · exact State.endTransfer_of_ignored judge ignored

theorem exec_collectEnd_of_ended (edges : Nat) :
    exec (.collectEnd p edges) s = .next (s.modPort p fun c => { c with link := .none }) := by
  by_cases low : s.resetLow = true
  · exact next_congr (if_pos low)
  · rw [exec_collectEnd_of_high p edges (by simpa using low)]
    refine next_congr (State.modPort_congr ?_)
    rw [ClientPort.endCollect, ended.resolve_left low]

end

theorem State.modPort_of_unchanged {p : Port} {f : ClientPort → ClientPort} {s : State}
    (same : f (s.ports.get p) = s.ports.get p) : s.modPort p f = s := by
  unfold State.modPort
  rw [Table.modify_eq_set, Table.set_of_get same.symm]

theorem State.chooseResponse_of_ignored {p : Port} {s : State} (ignored : (s.ports.get p).link = .ignored) :
    s.chooseResponse p = s := by
  unfold State.chooseResponse
  split
  · rfl
  · refine State.modPort_of_unchanged ?_
    rw [ignored]

theorem ClientPort.endCollect_of_empty {c : ClientPort} {edges : Nat} {st : Byte} (opened : c.link = .opened st) (empty : edges < 8) :
    c.endCollect edges = { c with link := .none } := by
  rw [ClientPort.endCollect, opened]
  exact if_pos empty

/-! ## Under a port reset -/

/-- The links after a reset of port `q`: its open collect forgets the chosen response (R137, R145). -/
def Link.afterReset (reset : Bool) (l : Link) : Link :=
  match l with
  | .collecting st frame b => .collecting st frame (b && !reset)
  | l => l

theorem State.resetRecord_link (q : Port) (policy : ResetPolicy) (s : State) (i : RecIx) (o : Port) :
    ((s.resetRecord q policy i).ports.get o).link = (s.ports.get o).link := by
  unfold State.resetRecord
  split
  · next own =>
    obtain ⟨a, used, -⟩ := Option.map_eq_some_iff.mp own
    split
    · rw [State.releaseRecord_others o .reset (some q) used]
    · split
      · split
        · rw [State.abandonMove_others]
        · rfl
        · rfl
      · rfl
  · rfl

theorem State.portReset_link (q : Port) (s : State) (o : Port) :
    ((s.portReset q).ports.get o).link = (s.ports.get o).link.afterReset (decide (o = q)) := by
  unfold State.portReset
  dsimp only
  rw [State.foldl_keeps _ (fun t => (t.ports.get o).link) (fun t i => State.resetRecord_link q _ t i o),
    State.resetDealings_ports, Table.get_modify]
  by_cases same : q = o
  · subst same
    rw [if_pos rfl, decide_eq_true rfl]
    change (s.ports.get q).link.forget = _
    cases (s.ports.get q).link with
    | collecting st frame b => exact congrArg _ (Bool.and_false b).symm
    | _ => rfl
  · rw [if_neg same, decide_eq_false (Ne.symm same)]
    cases (s.ports.get o).link with
    | collecting st frame b => exact congrArg _ (Bool.and_true b).symm
    | _ => rfl

/-- The answer leaves the links as they are. -/
theorem State.answer_link (p : Port) (tag : Byte) (status : Status) (body : List Byte) (s : State) (o : Port) :
    ((s.answer p tag status body).ports.get o).link = (s.ports.get o).link := by
  rw [State.answer_ports_get]
  split
  · rw [ClientPort.answer]
    split <;> rfl
  · rfl

theorem State.placeResetAnswer_link (q : Port) (tag : Byte) (body : List Byte) (s : State) (o : Port) :
    ((s.modPort q (ClientPort.placeResetAnswer tag body)).ports.get o).link = (s.ports.get o).link := by
  rw [State.placeResetAnswer_ports]
  split <;> rfl

theorem State.resetPortCompletion_link (q : Port) (c : Command) (s : State) (o : Port) :
    ((s.resetPortCompletion q c).ports.get o).link = ((s.portReset q).ports.get o).link := by
  unfold State.resetPortCompletion
  dsimp only
  split
  · exact State.placeResetAnswer_link q c.tag _ _ o
  · exact State.answer_link c.port c.tag .ok _ _ o

/-- Settles O10: RESET ends or ignores every transfer, and a port reset makes an open collect forget its response. -/
theorem linksUnderReset : Obligations.LinksUnderReset := by
  refine ⟨fun p s => ⟨⟨_, rfl, State.powerOn_link _ _ s p⟩, fun low straps => ⟨_, exec_resetRelease straps low, State.powerOn_link _ _ s p⟩,
    fun low => ⟨next_congr (State.startTransfer_of_resetLow low p), next_congr (if_pos low)⟩, fun ended => ⟨fun octets rest part => ?_,
    fun b notCommand notCollect => ?_, exec_collectEnd_of_ended ended⟩, fun ignored => next_congr (State.chooseResponse_of_ignored ignored),
    fun st edges high opened empty => ?_⟩, fun p q tag scan s e => ?_, fun p q rest s high queue code empty => ?_⟩
  · exact next_congr ((if_neg (by omega)).trans (State.endTransfer_of_ended ended _))
  · exact next_congr ((if_neg (by simp [notCommand, notCollect])).trans (State.endTransfer_of_ended ended _))
  · exact (exec_collectEnd_of_high p edges high).trans
      (next_congr (State.modPort_congr (ClientPort.endCollect_of_empty opened empty)))
  · refine ⟨_, exec_resetPort e, fun o => ?_⟩
    rw [State.resetPortCompletion_link, State.portReset_link, decide_not, State.setWork_ports]
    cases (s.ports.get o).link <;> rfl
  · refine ⟨_, exec_selfReset_of_empty high queue code empty, fun o => ?_⟩
    rw [State.placeResetAnswer_link, State.portReset_link, decide_not]
    cases (s.ports.get o).link <;> rfl

end Sys2Proof.Machine
end

section
/-! PROOFS. The layouts that cross the link and the small functions other statements use (R12, R65, R162, R163, R167, R191 to R193). -/

namespace Sys2Proof.Machine

/-! ## Sets and events -/

/-- The last run word of a set alone carries the flag (R191). -/
theorem setBytes_concat (rs : List Run) (r : Run) : setBytes (rs ++ [r]) =
    rs.flatMap (fun q => wordBytes (q.first * 128 + (q.len - 1) * 2)) ++ wordBytes (r.first * 128 + (r.len - 1) * 2 + 1) := by
  induction rs with
  | nil => rfl
  | cons q rs ih =>
    rw [List.flatMap_cons, List.append_assoc, ← ih]
    cases rs <;> rfl

/-! ## The CRC -/

/-- One step of the CRC register, as a number (R193). -/
def crcShift (x : Nat) : Nat := if 32768 ≤ x then ((2 * x) % 65536) ^^^ 0x1021 else 2 * x

theorem crcStep_toNat (r : Word) : (crcStep r).toNat = crcShift r.toNat := by
  have bound := r.isLt
  unfold crcStep crcShift
  rw [BitVec.msb_eq_decide]
  by_cases top : 32768 ≤ r.toNat
  · rw [if_pos top, if_pos (decide_eq_true top), BitVec.toNat_xor, BitVec.toNat_shiftLeft, Nat.shiftLeft_eq]
    rw [Nat.mul_comm]
    rfl
  · rw [if_neg top, if_neg (by simpa using top), BitVec.toNat_shiftLeft, Nat.shiftLeft_eq]
    omega

theorem crcByte_toNat (r : Word) (b : Byte) : (crcByte r b).toNat =
    (List.range 8).foldl (fun x _ => crcShift x) (r.toNat ^^^ (b.toNat * 256)) := by
  have taken : (r ^^^ (b.zeroExtend 16 <<< 8)).toNat = r.toNat ^^^ (b.toNat * 256) := by
    have bound := b.isLt
    rw [BitVec.toNat_xor, BitVec.toNat_shiftLeft, Nat.shiftLeft_eq]
    congr 1
    simp only [BitVec.truncate_eq_setWidth, BitVec.toNat_setWidth]
    omega
  unfold crcByte
  rw [show List.range 8 = [0, 1, 2, 3, 4, 5, 6, 7] from rfl]
  simp only [crcStep_toNat, taken, List.foldl_cons, List.foldl_nil]

theorem crcOf_toNat (bytes : List Byte) : (crcOf bytes).toNat = bytes.foldl (fun register b =>
    (List.range 8).foldl (fun x _ => crcShift x) (register ^^^ (b.toNat * 256))) 65535 := by
  have from_ (r : Word) : (bytes.foldl crcByte r).toNat = bytes.foldl (fun register b =>
      (List.range 8).foldl (fun x _ => crcShift x) (register ^^^ (b.toNat * 256))) r.toNat := by
    induction bytes generalizing r with
    | nil => rfl
    | cons b bytes ih => rw [List.foldl_cons, List.foldl_cons, ih, crcByte_toNat]
  exact from_ 0xFFFF#16

/-! ## The slot set of BAR_DONE -/

/-- The run that follows is apart from the one before it. -/
def Run.Apart (q r : Run) : Prop := q.first + q.len < r.first

/-- The run that follows is apart, or continues a run of 64 slots. -/
def Run.Follows (q r : Run) : Prop := q.first + q.len < r.first ∨ q.first + q.len = r.first ∧ q.len = 64

/-- The slots of runs, run by run. -/
def slotsOf (runs : List Run) : List Nat := runs.flatMap fun r => List.range' r.first r.len

/-- The maximal stretches of slots, in order. -/
structure BarRuns (slots : List Nat) (runs : List Run) : Prop where
  slots : slotsOf runs = slots
  some : ∀ r ∈ runs, 1 ≤ r.len
  apart : runs.IsChain Run.Apart

theorem barRuns_spec {slots : List Nat} (ascending : slots.Pairwise (· < ·)) : BarRuns slots (barRuns slots) := by
  induction slots with
  | nil => exact ⟨rfl, nofun, .nil⟩
  | cons i rest ih =>
    obtain ⟨first, ascending⟩ := List.pairwise_cons.mp ascending
    obtain ⟨slots, some, apart⟩ := ih ascending
    unfold barRuns
    cases runs : barRuns rest with
    | nil =>
      rw [runs] at slots
      refine ⟨?_, ?_, .singleton _⟩
      · rw [← slots]
        rfl
      · simp
    | cons r rs =>
      rw [runs] at slots some apart
      have later : i < r.first := by
        have one := some r List.mem_cons_self
        refine first _ ?_
        rw [← slots]
        exact List.mem_append_left _ (by simp; omega)
      dsimp only
      split
      · next next =>
        refine ⟨?_, ?_, ?_⟩
        · rw [← slots, slotsOf, slotsOf, List.flatMap_cons, List.flatMap_cons, next]
          rfl
        · intro q hq
          rcases List.mem_cons.mp hq with rfl | hq
          · exact Nat.le_add_left 1 r.len
          · exact some q (List.mem_cons_of_mem r hq)
        · cases rs with
          | nil => exact .singleton _
          | cons q rs =>
            obtain ⟨gap, apart⟩ := List.isChain_cons_cons.mp apart
            refine List.isChain_cons_cons.mpr ⟨?_, apart⟩
            unfold Run.Apart at gap ⊢
            dsimp only
            omega
      · next gap =>
        refine ⟨?_, ?_, List.isChain_cons_cons.mpr ⟨?_, apart⟩⟩
        · rw [← slots]
          rfl
        · intro q hq
          rcases List.mem_cons.mp hq with rfl | hq
          · exact le_rfl
          · exact some q hq
        · unfold Run.Apart
          dsimp only
          omega

theorem splitRun_succ (k : Nat) (r : Run) : splitRun (k + 1) r =
    if r.len ≤ 64 then [r] else ⟨r.first, 64⟩ :: splitRun k ⟨r.first + 64, r.len - 64⟩ := rfl

theorem splitRun_slots (k : Nat) (r : Run) : slotsOf (splitRun k r) = List.range' r.first r.len := by
  induction k generalizing r with
  | zero => exact List.append_nil _
  | succ k ih =>
    rw [splitRun_succ]
    split
    · exact List.append_nil _
    · next long =>
      rw [slotsOf, List.flatMap_cons, ← slotsOf, ih]
      dsimp only
      rw [List.range'_append_1]
      congr 1
      omega

theorem splitRun_lengths (k : Nat) {r : Run} (some : 1 ≤ r.len) (enough : r.len ≤ 64 * (k + 1)) :
    ∀ q ∈ splitRun k r, 1 ≤ q.len ∧ q.len ≤ 64 := by
  induction k generalizing r with
  | zero =>
    intro q hq
    obtain rfl := List.mem_singleton.mp hq
    exact ⟨some, by omega⟩
  | succ k ih =>
    rw [splitRun_succ]
    split
    · next short =>
      intro q hq
      obtain rfl := List.mem_singleton.mp hq
      exact ⟨some, short⟩
    · next long =>
      intro q hq
      rcases List.mem_cons.mp hq with rfl | hq
      · exact ⟨by dsimp only; omega, le_rfl⟩
      · exact ih (r := ⟨r.first + 64, r.len - 64⟩) (by dsimp only; omega) (by dsimp only; omega) q hq

theorem splitRun_head (k : Nat) (r : Run) : ∀ q ∈ (splitRun k r).head?, q.first = r.first := by
  cases k with
  | zero => simp [splitRun]
  | succ k =>
    rw [splitRun_succ]
    split <;> simp

theorem splitRun_last (k : Nat) (r : Run) : ∀ q ∈ (splitRun k r).getLast?, q.first + q.len = r.first + r.len := by
  induction k generalizing r with
  | zero => simp [splitRun]
  | succ k ih =>
    rw [splitRun_succ]
    split
    · simp
    · next long =>
      intro q hq
      rw [List.getLast?_cons] at hq
      have pieces := ih ⟨r.first + 64, r.len - 64⟩
      cases last : (splitRun k ⟨r.first + 64, r.len - 64⟩).getLast? with
      | none =>
        rw [List.getLast?_eq_none_iff] at last
        have slots := splitRun_slots k ⟨r.first + 64, r.len - 64⟩
        rw [last] at slots
        have empty := congrArg List.length slots
        rw [List.length_range'] at empty
        simp [slotsOf] at empty
        omega
      | some x =>
        rw [last] at hq pieces
        obtain rfl : x = q := Option.some_inj.mp hq
        have := pieces x rfl
        dsimp only at this
        omega

theorem splitRun_follows (k : Nat) (r : Run) : (splitRun k r).IsChain Run.Follows := by
  induction k generalizing r with
  | zero => exact .singleton _
  | succ k ih =>
    rw [splitRun_succ]
    split
    · exact .singleton _
    · have first := splitRun_head k ⟨r.first + 64, r.len - 64⟩
      have pieces := ih ⟨r.first + 64, r.len - 64⟩
      cases split : splitRun k ⟨r.first + 64, r.len - 64⟩ with
      | nil => exact .singleton _
      | cons q qs =>
        rw [split] at first pieces
        exact List.isChain_cons_cons.mpr ⟨.inr ⟨(first q rfl).symm, rfl⟩, pieces⟩

/-- The first pieces of a stretch do not depend on how many more are cut. -/
theorem splitRun_take {n k m : Nat} (hk : n ≤ k) (hm : n ≤ m) (r : Run) : (splitRun k r).take n = (splitRun m r).take n := by
  induction n generalizing k m r with
  | zero => rfl
  | succ n ih =>
    obtain ⟨k, rfl⟩ : ∃ j, k = j + 1 := ⟨k - 1, by omega⟩
    obtain ⟨m, rfl⟩ : ∃ j, m = j + 1 := ⟨m - 1, by omega⟩
    rw [splitRun_succ, splitRun_succ]
    split
    · rfl
    · rw [List.take_succ_cons, List.take_succ_cons, ih (Nat.le_of_succ_le_succ hk) (Nat.le_of_succ_le_succ hm)]

theorem take_append_congr {α : Type} {n : Nat} {xs ys us vs : List α} (first : xs.take n = ys.take n)
    (second : ∀ m ≤ n, us.take m = vs.take m) : (xs ++ us).take n = (ys ++ vs).take n := by
  have lengths := congrArg List.length first
  rw [List.length_take, List.length_take] at lengths
  have left : n - xs.length = n - ys.length := by omega
  rw [List.take_append, List.take_append, first, left, second _ (Nat.sub_le _ _)]

theorem take_flatMap_congr {α β : Type} {f g : α → List β} {n : Nat} (same : ∀ a, ∀ m ≤ n, (f a).take m = (g a).take m)
    (l : List α) : ∀ m ≤ n, (l.flatMap f).take m = (l.flatMap g).take m := by
  induction l with
  | nil => exact fun _ _ => rfl
  | cons a l ih =>
    intro m hm
    exact take_append_congr (same a m hm) fun k hk => ih k (hk.trans hm)

/-- The runs of a BAR_DONE, as many as the slots need. -/
def barPieces (slots : List Nat) : List Run := (barRuns slots).flatMap fun r => splitRun (r.len + 4) r

theorem barDoneSet_eq (slots : List Nat) : barDoneSet slots = (barPieces slots).take 4 :=
  take_flatMap_congr (n := 4) (fun r _ hm => splitRun_take (hm.trans (by decide)) (by omega) r) _ 4 le_rfl

section
variable {slots : List Nat} (ascending : slots.Pairwise (· < ·))
include ascending

theorem barPieces_slots : slotsOf (barPieces slots) = slots := by
  refine Eq.trans ?_ (barRuns_spec ascending).slots
  rw [barPieces, slotsOf, List.flatMap_assoc]
  exact List.flatMap_congr fun r _ => splitRun_slots (r.len + 4) r

theorem barPieces_lengths : ∀ r ∈ barPieces slots, 1 ≤ r.len ∧ r.len ≤ 64 := by
  intro q hq
  obtain ⟨r, hr, hq⟩ := List.mem_flatMap.mp hq
  exact splitRun_lengths (r.len + 4) ((barRuns_spec ascending).some r hr) (by omega) q hq

theorem barPieces_follow : (barPieces slots).IsChain Run.Follows := by
  have some : [] ∉ (barRuns slots).map fun r => splitRun (r.len + 4) r := by
    intro empty
    obtain ⟨r, hr, empty⟩ := List.mem_map.mp empty
    have one := (barRuns_spec ascending).some r hr
    have length := congrArg List.length (splitRun_slots (r.len + 4) r)
    rw [empty, List.length_range'] at length
    exact absurd length (by simp [slotsOf]; omega)
  rw [barPieces, List.flatMap_def, List.isChain_flatten some, List.isChain_map]
  refine ⟨fun l hl => ?_, (barRuns_spec ascending).apart.imp fun q r apart x hx y hy => .inl ?_⟩
  · obtain ⟨r, -, rfl⟩ := List.mem_map.mp hl
    exact splitRun_follows _ r
  · rw [splitRun_last _ q x hx, splitRun_head _ r y hy]
    exact apart

end

/-- Settles O13: each layout by its cases, the CRC step by step, the runs of BAR_DONE by the recursion that cuts them. -/
theorem layoutsHold : Obligations.LayoutsHold := by
  refine ⟨fun _ => rfl, ⟨rfl, setBytes_concat⟩, fun stamp body => ?_, crcOf_toNat, fun _ => rfl, rfl, ⟨rfl, rfl, rfl, rfl⟩,
    fun slots ascending => ⟨barPieces slots, barDoneSet_eq slots, barPieces_slots ascending, barPieces_lengths ascending,
      fun k q r hq hr => ?_⟩, fun rs r p => ?_, fun _ _ _ _ => rfl, fun required ms => ⟨?_, ?_⟩, fun _ => ⟨rfl, rfl, rfl⟩⟩
  · cases body with
    | watch unit result => cases result <;> rfl
    | moveAbandoned h tag target reason => cases reason <;> rfl
    | _ => rfl
  · have chain := List.isChain_iff_getElem.mp (barPieces_follow ascending)
    obtain ⟨more, rfl⟩ := List.getElem?_eq_some_iff.mp hr
    obtain ⟨_, rfl⟩ := List.getElem?_eq_some_iff.mp hq
    exact chain k more
  · rw [roverAfter, List.getLast?_concat]
  · exact List.all_eq_true
  · exact List.any_eq_true

end Sys2Proof.Machine
end

section
/-! PROOFS. What a placement search finds (R61 to R64, R104). -/

namespace Sys2Proof.Machine

/-! ## The free stretches -/

theorem Stretches.nil (free : Nat → Bool) (first : Nat) : Stretches free first 0 [] :=
  ⟨nofun, .nil, fun j from_ below => absurd from_ (by omega)⟩

section
variable {free : Nat → Bool} {first len : Nat} {rs : List Run} (h : Stretches free (first + 1) len rs)
include h

theorem Stretches.skip (taken : free first = false) : Stretches free first (len + 1) rs := by
  obtain ⟨inside, apart, exact_⟩ := h
  refine ⟨fun r hr => ?_, apart, fun j from_ below => ?_⟩
  · obtain ⟨some, low, high⟩ := inside r hr
    omega
  · rcases Nat.eq_or_lt_of_le from_ with rfl | later
    · rw [taken, mem_inSet]
      refine iff_of_false Bool.false_ne_true fun ⟨r, hr, has⟩ => ?_
      obtain ⟨-, low, -⟩ := inside r hr
      have := (Run.has_iff r _).mp has
      omega
    · exact exact_ j later (by omega)

/-- A free slot before stretches that leave the next slot out is a stretch of its own. -/
theorem Stretches.start (isFree : free first = true) (gap : ∀ r ∈ rs, first + 1 < r.first) :
    Stretches free first (len + 1) (⟨first, 1⟩ :: rs) := by
  obtain ⟨inside, apart, exact_⟩ := h
  refine ⟨fun r hr => ?_, List.pairwise_cons.mpr ⟨gap, apart⟩, fun j from_ below => ?_⟩
  · rcases List.mem_cons.mp hr with rfl | hr
    · exact ⟨le_rfl, le_rfl, by dsimp only; omega⟩
    · obtain ⟨some, low, high⟩ := inside r hr
      omega
  · have here : inSet (⟨first, 1⟩ :: rs) j = true ↔ j = first ∨ inSet rs j = true := by
      rw [inSet, List.any_cons, Bool.or_eq_true, Run.has_iff]
      exact or_congr_left (by dsimp only; omega)
    rw [here]
    rcases Nat.eq_or_lt_of_le from_ with rfl | later
    · exact iff_of_true isFree (.inl rfl)
    · rw [exact_ j later (by omega)]
      exact ⟨.inr, fun x => x.resolve_left (by omega)⟩

end

/-- A free slot just before the first stretch makes it longer. -/
theorem Stretches.extend {free : Nat → Bool} {first len n : Nat} {rs : List Run}
    (h : Stretches free (first + 1) len (⟨first + 1, n⟩ :: rs)) (isFree : free first = true) :
    Stretches free first (len + 1) (⟨first, n + 1⟩ :: rs) := by
  obtain ⟨inside, apart, exact_⟩ := h
  obtain ⟨gap, apart⟩ := List.pairwise_cons.mp apart
  obtain ⟨some, -, high⟩ := inside ⟨first + 1, n⟩ List.mem_cons_self
  dsimp only at gap some high
  refine ⟨fun r hr => ?_, List.pairwise_cons.mpr ⟨fun r hr => ?_, apart⟩, fun j from_ below => ?_⟩
  · rcases List.mem_cons.mp hr with rfl | hr
    · exact ⟨Nat.le_add_left 1 n, le_rfl, by dsimp only; omega⟩
    · obtain ⟨some, low, high⟩ := inside r (List.mem_cons_of_mem _ hr)
      omega
  · have := gap r hr
    dsimp only
    omega
  · have here : inSet (⟨first, n + 1⟩ :: rs) j = true ↔ j = first ∨ inSet (⟨first + 1, n⟩ :: rs) j = true := by
      rw [inSet, List.any_cons, inSet, List.any_cons, Bool.or_eq_true, Bool.or_eq_true, Run.has_iff, Run.has_iff, ← or_assoc]
      exact or_congr_left (by dsimp only; omega)
    rw [here]
    rcases Nat.eq_or_lt_of_le from_ with rfl | later
    · exact iff_of_true isFree (.inl rfl)
    · rw [exact_ j later (by omega)]
      exact ⟨.inr, fun x => x.resolve_left (by omega)⟩

/-- The stretches of a segment are its maximal free stretches (R61). -/
theorem stretchesFrom_stretches (free : Nat → Bool) (first len : Nat) :
    Stretches free first len (stretchesFrom first ((List.range' first len).map free)) := by
  induction len generalizing first with
  | zero => exact .nil free first
  | succ len ih =>
    have rest := ih (first + 1)
    rw [List.range'_succ, List.map_cons]
    cases here : free first with
    | false => exact rest.skip here
    | true =>
      rw [stretchesFrom]
      cases found : stretchesFrom (first + 1) ((List.range' (first + 1) len).map free) with
      | nil =>
        rw [found] at rest
        exact rest.start here nofun
      | cons r rs =>
        rw [found] at rest
        dsimp only
        split
        · next next =>
          obtain ⟨first', n⟩ := r
          obtain rfl : first' = first + 1 := next
          exact rest.extend here
        · next apart =>
          refine rest.start here fun q hq => ?_
          obtain ⟨inside, order, -⟩ := rest
          obtain ⟨some, low, -⟩ := inside r List.mem_cons_self
          rcases List.mem_cons.mp hq with rfl | hq
          · omega
          · have := (List.pairwise_cons.mp order).1 q hq
            omega

/-- A search that reads all its slots at once reads its segments one by one. -/
theorem stretchesOf_reads (free : Nat → Bool) (segs : List Run) : stretchesOf segs ((segs.flatMap Run.slots).map free) =
    segs.flatMap fun seg => stretchesFrom seg.first ((List.range' seg.first seg.len).map free) := by
  induction segs with
  | nil => rfl
  | cons seg segs ih =>
    have length : (seg.slots.map free).length = seg.len := by rw [List.length_map, Run.slots, List.length_range']
    rw [stretchesOf, List.flatMap_cons, List.flatMap_cons, List.map_append, ← ih]
    congr 1
    · exact congrArg (stretchesFrom seg.first) (List.take_left' length)
    · exact congrArg (stretchesOf segs) (List.drop_left' length)

/-! ## Shape SPLIT -/

/-- What the collection of runs comes to: the runs, where nothing remains (R63). -/
def splitOutcome (x : List Run × Nat) : Option (List Run) := if x.2 = 0 then some x.1 else none

theorem splitOutcome_cons (q : Run) (x : List Run × Nat) :
    splitOutcome (q :: x.1, x.2) = (splitOutcome x).map fun got => q :: got := by
  unfold splitOutcome
  split <;> rfl

theorem takeRuns_of_short {minRun n : Nat} {r : Run} (left : Nat)
    (short : min r.len (min 64 n) = 0 ∨ min r.len (min 64 n) < min minRun n) : takeRuns minRun left r n = ([], n) := by
  cases left with
  | zero => rfl
  | succ left => exact if_pos short

theorem collectRuns_of_short {minRun n : Nat} {r : Run} (rs : List Run) (left : Nat)
    (short : min r.len (min 64 n) = 0 ∨ min r.len (min 64 n) < min minRun n) :
    collectRuns minRun (r :: rs) left n = collectRuns minRun rs left n := by
  rw [collectRuns, takeRuns_of_short left short]
  rfl

/-- A candidate that is taken leaves the rest of its stretch to be met next (R63). -/
theorem collectRuns_of_taken {minRun n k : Nat} {r : Run} (rs : List Run) (left : Nat) (hk : k = min r.len (min 64 n))
    (some : k ≠ 0) (enough : min minRun n ≤ k) : collectRuns minRun (r :: rs) (left + 1) n =
      (⟨r.first, k⟩ :: (collectRuns minRun (⟨r.first + k, r.len - k⟩ :: rs) left (n - k)).1,
        (collectRuns minRun (⟨r.first + k, r.len - k⟩ :: rs) left (n - k)).2) := by
  have taken : takeRuns minRun (left + 1) r n =
      (⟨r.first, k⟩ :: (takeRuns minRun left ⟨r.first + k, r.len - k⟩ (n - k)).1,
        (takeRuns minRun left ⟨r.first + k, r.len - k⟩ (n - k)).2) := by
    subst hk
    exact if_neg (not_or.mpr ⟨some, Nat.not_lt.mpr enough⟩)
  rw [collectRuns, taken, collectRuns]
  dsimp only
  rw [List.length_cons, Nat.add_sub_add_right]
  rfl

theorem collectRuns_of_nothing (minRun : Nat) (rs : List Run) (left : Nat) : collectRuns minRun rs left 0 = ([], 0) := by
  induction rs with
  | nil => rfl
  | cons r rs ih => rw [collectRuns_of_short rs left (.inl (by omega)), ih]

theorem collectRuns_of_full (minRun : Nat) (rs : List Run) (n : Nat) : collectRuns minRun rs 0 n = ([], n) := by
  induction rs with
  | nil => rfl
  | cons r rs ih =>
    rw [collectRuns, takeRuns]
    dsimp only
    rw [List.length_nil, ih]
    rfl

theorem splitFrom_of_none (minRun : Nat) (rs : List Run) (left : Nat) :
    SplitFrom minRun rs 0 left (splitOutcome (collectRuns minRun rs left 0)) := by
  rw [collectRuns_of_nothing]
  exact .done rs left

theorem splitFrom_collectRuns (minRun left : Nat) {rs : List Run} (some : ∀ r ∈ rs, 1 ≤ r.len) (n : Nat) :
    SplitFrom minRun rs n left (splitOutcome (collectRuns minRun rs left n)) := by
  induction left generalizing rs n with
  | zero =>
    by_cases remains : n = 0
    · subst remains
      exact splitFrom_of_none minRun rs 0
    · rw [collectRuns_of_full, splitOutcome, if_neg remains]
      exact .full rs n remains
  | succ left ih =>
    by_cases remains : n = 0
    · subst remains
      exact splitFrom_of_none minRun rs (left + 1)
    induction rs with
    | nil =>
      rw [collectRuns, splitOutcome, if_neg remains]
      exact .over n (left + 1) remains (Nat.succ_ne_zero left)
    | cons r rs ihs =>
      have one := some r List.mem_cons_self
      have others : ∀ q ∈ rs, 1 ≤ q.len := fun q hq => some q (List.mem_cons_of_mem r hq)
      by_cases short : min r.len (min 64 n) < min minRun n
      · rw [collectRuns_of_short rs (left + 1) (.inr short)]
        exact .pass r rs n left _ remains short (ihs others)
      · obtain ⟨k, hk⟩ : ∃ k, k = min r.len (min 64 n) := ⟨_, rfl⟩
        have enough : min minRun n ≤ k := by omega
        rw [collectRuns_of_taken rs left hk (by omega) enough]
        have rest : collectRuns minRun (⟨r.first + k, r.len - k⟩ :: rs) left (n - k) =
            collectRuns minRun (if k < r.len then ⟨r.first + k, r.len - k⟩ :: rs else rs) left (n - k) := by
          split
          · rfl
          · exact collectRuns_of_short rs left (.inl (by dsimp only; omega))
        rw [rest, splitOutcome_cons]
        exact SplitFrom.take r rs n left k _ remains hk enough (ih (rs := if k < r.len then _ else rs) (by
          split
          · exact List.forall_mem_cons.mpr ⟨by dsimp only; omega, others⟩
          · exact others) (n - k))

/-! ## The set found -/

section
variable (a : SearchArgs) (rover : Nat) (free : Nat → Bool)

/-- A search that begins and ends at once reads every slot as it stands. -/
theorem Scan.readRest_fresh : ((Scan.mk a rover []).readRest free).seen = ((a.segments rover).flatMap Run.slots).map free := rfl

theorem allFree_iff (runs : List Run) :
    (runs.flatMap Run.slots).all free = true ↔ ∀ j, inSet runs j = true → free j = true := by
  rw [List.all_eq_true]
  refine forall_congr' fun j => imp_congr ?_ Iff.rfl
  rw [List.mem_flatMap, mem_inSet]
  refine exists_congr fun r => and_congr_right fun _ => ?_
  rw [Run.slots, List.mem_range'_1, Run.has_iff]

/-- An AT search finds its runs where every slot of them is FREE (R64). -/
theorem Scan.finish_of_at {runs : List Run} (place : a.place = .atRuns runs) :
    (Scan.mk a rover []).finish free = if (runs.flatMap Run.slots).all free then some runs else none := by
  have args : ((Scan.mk a rover []).readRest free).args = a := rfl
  unfold Scan.finish Scan.result
  rw [args, place]
  dsimp only
  rw [Scan.readRest_fresh, SearchArgs.segments, place, List.all_map]
  rfl

/-- The stretches that a search by shape meets, in scan order. -/
def SearchArgs.stretches : List Run :=
  (a.segments rover).flatMap fun seg => stretchesFrom seg.first ((List.range' seg.first seg.len).map free)

theorem Scan.finish_of_shape (place : ∀ runs, a.place ≠ .atRuns runs) :
    (Scan.mk a rover []).finish free = match a.shape with
      | .contiguous => findContiguous a.n (a.stretches rover free)
      | .split minRun maxRuns => findSplit a.n minRun maxRuns (a.stretches rover free) := by
  have args : ((Scan.mk a rover []).readRest free).args = a := rfl
  have start : ((Scan.mk a rover []).readRest free).start = rover := rfl
  unfold Scan.finish Scan.result
  rw [args, start, Scan.readRest_fresh, stretchesOf_reads]
  cases kind : a.place with
  | atRuns runs => exact absurd kind (place runs)
  | _ => rfl

/-! ## The window -/

/-- The scan of the window is cut in two at the pointer where NEXT_FIT finds it inside (R61). -/
theorem SearchArgs.stretches_cut (place : ∀ runs, a.place ≠ .atRuns runs) :
    let cut := decide (a.place = .nextFit) && decide (a.lo ≤ rover) && decide (rover ≤ a.hi)
    let from_ := if cut then rover else a.lo
    a.stretches rover free = stretchesFrom from_ ((List.range' from_ (a.hi + 1 - from_)).map free) ++
      stretchesFrom a.lo ((List.range' a.lo (from_ - a.lo)).map free) := by
  dsimp only
  unfold SearchArgs.stretches SearchArgs.segments
  cases kind : a.place with
  | atRuns runs => exact absurd kind (place runs)
  | lowFit => simp [stretchesFrom]
  | nextFit =>
    by_cases cut : a.lo ≤ rover ∧ rover ≤ a.hi
    · simp [cut]
    · have whole : (decide (a.lo ≤ rover) && decide (rover ≤ a.hi)) = false := by simpa using cut
      simp [cut, whole, stretchesFrom]

end

/-! ## The set found -/

/-- What a search owes its caller: one to four runs of 1 to 64 slots inside the window, no two sharing a slot (R104). -/
structure SetFits (lo hi : Nat) (set : List Run) : Prop where
  some : 1 ≤ set.length
  few : set.length ≤ 4
  apart : runsDisjoint set = true
  inside : ∀ r ∈ set, 1 ≤ r.len ∧ r.len ≤ 64 ∧ lo ≤ r.first ∧ r.first + r.len ≤ hi + 1

theorem atListValid_fits {lo hi : Nat} {runs : List Run} (valid : atListValid lo hi runs = true) : SetFits lo hi runs := by
  unfold atListValid at valid
  simp only [Bool.and_eq_true, decide_eq_true_eq, List.all_eq_true] at valid
  obtain ⟨⟨⟨⟨some, few⟩, lengths⟩, inside⟩, apart⟩ := valid
  refine ⟨some, few, apart, fun r hr => ?_⟩
  have length := lengths r hr
  have within := inside r hr
  unfold Run.valid at length
  unfold Run.inside at within
  simp only [Bool.and_eq_true, decide_eq_true_eq] at length within
  exact ⟨length.1.1, length.1.2, within.1, within.2⟩

section
variable {a : SearchArgs} {rover : Nat} {free : Nat → Bool} (place : ∀ runs, a.place ≠ .atRuns runs) (window : a.lo ≤ a.hi)
include place window

/-- The stretches lie in the window and share no slot. -/
theorem SearchArgs.stretches_apart : ((a.stretches rover free).Pairwise fun r q => r.disjoint q = true) ∧
    ∀ r ∈ a.stretches rover free, 1 ≤ r.len ∧ a.lo ≤ r.first ∧ r.first + r.len ≤ a.hi + 1 := by
  obtain ⟨inside, apart⟩ := SearchArgs.segments_spec a rover place window
  obtain ⟨within, disjoint⟩ := stretchesOf_spec free (a.segments rover)
  rw [stretchesOf_reads] at within disjoint
  refine ⟨disjoint apart, fun r hr => ?_⟩
  obtain ⟨some, ⟨seg, hseg, low, high⟩, -⟩ := within r hr
  obtain ⟨low', high'⟩ := inside seg hseg
  exact ⟨some, low'.trans low, high.trans high'⟩

theorem SearchArgs.contiguous_fits (wanted : 1 ≤ a.n) (most : a.n ≤ 64) {set : List Run}
    (found : findContiguous a.n (a.stretches rover free) = some set) : SetFits a.lo a.hi set := by
  obtain ⟨r, hr, long, rfl⟩ := findContiguous_spec found
  obtain ⟨-, low, high⟩ := (SearchArgs.stretches_apart place window).2 r hr
  refine ⟨le_rfl, by simp, rfl, fun q hq => ?_⟩
  obtain rfl := List.mem_singleton.mp hq
  dsimp only
  omega

theorem SearchArgs.split_fits (wanted : 1 ≤ a.n) {minRun maxRuns : Nat} (few : maxRuns ≤ 4) {set : List Run}
    (found : findSplit a.n minRun maxRuns (a.stretches rover free) = some set) : SetFits a.lo a.hi set := by
  obtain ⟨rfl, total⟩ := findSplit_spec found
  obtain ⟨disjoint, bounds⟩ := SearchArgs.stretches_apart (free := free) (rover := rover) place window
  obtain ⟨within, apart, count, -⟩ := collectRuns_spec minRun (a.stretches rover free) maxRuns a.n
  refine ⟨Nat.one_le_iff_ne_zero.mpr fun none => ?_, count.trans few, (runsDisjoint_iff _).mpr (apart disjoint), fun q hq => ?_⟩
  · rw [List.length_eq_zero_iff.mp none] at total
    exact absurd total (by simp [setTotal]; omega)
  · obtain ⟨one, most, r, hr, low, high⟩ := within q hq
    obtain ⟨-, low', high'⟩ := bounds r hr
    exact ⟨one, most, low'.trans low, high.trans high'⟩

end

theorem Scan.finish_fits {a : SearchArgs} {rover : Nat} {free : Nat → Bool} (wanted : 1 ≤ a.n)
    (valid : placementValid a.shape a.place a.lo a.hi = true) (fits : a.fits = true) {set : List Run}
    (found : (Scan.mk a rover []).finish free = some set) : SetFits a.lo a.hi set := by
  unfold placementValid at valid
  unfold SearchArgs.fits at fits
  rw [Bool.and_eq_true] at valid fits
  obtain ⟨window, valid⟩ := valid
  replace fits := fits.2
  have window : a.lo ≤ a.hi := by
    unfold windowValid at window
    simp only [Bool.and_eq_true, decide_eq_true_eq] at window
    exact window.1
  have shaped (place : ∀ runs, a.place ≠ .atRuns runs) (valid : shapeValid a.shape = true)
      (fits : shapeHolds a.shape a.n = true) : SetFits a.lo a.hi set := by
    rw [Scan.finish_of_shape a rover free place] at found
    cases shape : a.shape with
    | contiguous =>
      rw [shape] at found fits
      exact SearchArgs.contiguous_fits place window wanted (of_decide_eq_true fits) found
    | split minRun maxRuns =>
      rw [shape] at found valid
      unfold shapeValid at valid
      simp only [Bool.and_eq_true, decide_eq_true_eq] at valid
      exact SearchArgs.split_fits place window wanted valid.2 found
  cases place : a.place with
  | atRuns runs =>
    rw [Scan.finish_of_at a rover free place] at found
    rw [place] at valid
    obtain ⟨-, e⟩ := Option.ite_none_right_eq_some.mp found
    exact Option.some_inj.mp e ▸ atListValid_fits valid
  | nextFit =>
    rw [place] at valid fits
    exact shaped (by rw [place]; exact nofun) valid fits
  | lowFit =>
    rw [place] at valid fits
    exact shaped (by rw [place]; exact nofun) valid fits

/-- Settles O50: the stretches of the segments are maximal, and the runs are those the shape takes from them. -/
theorem searchFindsSet : Obligations.SearchFindsSet := by
  intro a rover free wanted _ valid fits
  refine ⟨fun runs place => ?_, fun place => ?_, fun set found => ?_⟩
  · rw [Scan.finish_of_at a rover free place]
    refine ⟨fun all => if_pos ((allFree_iff free runs).mpr all), fun ⟨j, inRuns, taken⟩ => if_neg fun all => ?_⟩
    have isFree := (allFree_iff free runs).mp all j inRuns
    rw [taken] at isFree
    exact Bool.false_ne_true isFree
  · refine ⟨_, _, stretchesFrom_stretches free _ _, stretchesFrom_stretches free _ _, ?_⟩
    have cut := SearchArgs.stretches_cut a rover free place
    dsimp only at cut ⊢
    rw [← cut, Scan.finish_of_shape a rover free place]
    cases a.shape with
    | contiguous => rfl
    | split minRun maxRuns =>
      have one : ∀ r ∈ a.stretches rover free, 1 ≤ r.len := by
        intro r hr
        obtain ⟨seg, -, hr⟩ := List.mem_flatMap.mp hr
        exact ((stretchesFrom_stretches free seg.first seg.len).1 r hr).1
      exact splitFrom_collectRuns minRun maxRuns one a.n
  · have atTotal : ∀ runs, a.place = .atRuns runs → setTotal runs = a.n := by
      intro runs place
      unfold SearchArgs.fits at fits
      rw [Bool.and_eq_true, place] at fits
      exact of_decide_eq_true fits.2
    obtain ⟨one, few, apart, inside⟩ := Scan.finish_fits wanted valid fits found
    exact ⟨Scan.setTotal_of_finish found atTotal, one, few, apart, inside,
      fun j hj => Scan.free_of_finish (Scan.holds_of_nil rfl) found hj⟩

end Sys2Proof.Machine
end

section
/-! PROOFS. Fields of the bodies of table commands (R22, R40, R42, R164, R179, R182, R191, Tables 11-4, 11-5, 11-10). -/

namespace Sys2Proof.Machine

/-! ## Numbers of one and two bytes -/

theorem ofNat_toNat (b : Byte) : BitVec.ofNat 8 b.toNat = b := BitVec.eq_of_toNat_eq (by simp)

theorem toNat_ofNat_of_lt {n : Nat} (h : n < 256) : (BitVec.ofNat 8 n).toNat = n := by
  rw [BitVec.toNat_ofNat]
  omega

theorem byte_of_toNat {b : Byte} {n : Nat} (h : b.toNat = n) : b = BitVec.ofNat 8 n := by
  rw [← h, ofNat_toNat]

theorem fromBe16_lt (a b : Byte) : fromBe16 a b < 65536 := by
  have ha := a.isLt
  have hb := b.isLt
  unfold fromBe16
  omega

/-- Two bytes spell the number they carry. -/
theorem wordBytes_fromBe16 (a b : Byte) : wordBytes (fromBe16 a b) = [a, b] := by
  have ha := a.isLt
  have hb := b.isLt
  have high : BitVec.ofNat 8 (fromBe16 a b / 256) = a := BitVec.eq_of_toNat_eq (by
    rw [BitVec.toNat_ofNat, fromBe16]
    omega)
  have low : BitVec.ofNat 8 (fromBe16 a b) = b := BitVec.eq_of_toNat_eq (by
    rw [BitVec.toNat_ofNat, fromBe16]
    omega)
  rw [wordBytes, high, low]

/-- A number of two bytes is read as it was spelled. -/
theorem fromBe16_word {n : Nat} (h : n < 65536) : fromBe16 (BitVec.ofNat 8 (n / 256)) (BitVec.ofNat 8 n) = n := by
  rw [fromBe16, BitVec.toNat_ofNat, BitVec.toNat_ofNat]
  omega

/-! ## Handles, tickets, units and ports -/

theorem readHandle_iff (body : List Byte) (h : Handle) : readHandle body = some h ↔ body = [h.index, h.gen] := by
  constructor
  · intro read
    unfold readHandle at read
    split at read
    · rw [← Option.some_inj.mp read]
    · cases read
  · rintro rfl
    rfl

theorem readHandles_iff (body : List Byte) (hs : List Handle) :
    readHandles body = some hs ↔ body = hs.flatMap fun h => [h.index, h.gen] := by
  constructor
  · intro read
    fun_induction readHandles body generalizing hs with
    | case1 => rw [← Option.some_inj.mp read]; rfl
    | case2 i g rest ih =>
      obtain ⟨tail, reads, rfl⟩ := Option.map_eq_some_iff.mp read
      rw [ih tail reads]
      rfl
    | case3 => cases read
  · rintro rfl
    induction hs with
    | nil => rfl
    | cons h hs ih =>
      rw [List.flatMap_cons, List.cons_append, List.cons_append, List.nil_append, readHandles, ih]
      rfl

theorem readTicket_iff (body : List Byte) (t : Byte) : readTicket body = some t ↔ body = [t] := by
  constructor
  · intro read
    unfold readTicket at read
    split at read
    · rw [← Option.some_inj.mp read]
    · cases read
  · rintro rfl
    rfl

theorem readEmpty_iff (body : List Byte) (u : Unit) : readEmpty body = some u ↔ body = [] := by
  constructor
  · intro read
    unfold readEmpty at read
    split at read
    · rfl
    · cases read
  · rintro rfl
    rfl

theorem readUnit_iff (body : List Byte) (u : UnitIx) : readUnit body = some u ↔ body = [BitVec.ofNat 8 u.val] := by
  constructor
  · intro read
    unfold readUnit at read
    split at read
    · split at read
      · rw [← Option.some_inj.mp read, ofNat_toNat]
      · cases read
    · cases read
  · rintro rfl
    have value := toNat_ofNat_of_lt (n := u.val) (by omega)
    rw [readUnit, dif_pos (by omega)]
    exact congrArg some (Fin.ext value)

theorem readPort_iff (body : List Byte) (p : Port) : readPort body = some p ↔ body = [BitVec.ofNat 8 p.val] := by
  constructor
  · intro read
    unfold readPort at read
    split at read
    · split at read
      · rw [← Option.some_inj.mp read, ofNat_toNat]
      · cases read
    · cases read
  · rintro rfl
    have value := toNat_ofNat_of_lt (n := p.val) (by omega)
    rw [readPort, dif_pos (by omega)]
    exact congrArg some (Fin.ext value)

theorem readStart_iff (body : List Byte) (n : Nat) : readStart body = some n ↔ n ≤ 191 ∧ body = [BitVec.ofNat 8 n] := by
  constructor
  · intro read
    unfold readStart at read
    split at read
    · obtain ⟨small, e⟩ := Option.ite_none_right_eq_some.mp read
      rw [← Option.some_inj.mp e, ofNat_toNat]
      exact ⟨small, rfl⟩
    · cases read
  · rintro ⟨small, rfl⟩
    have value := toNat_ofNat_of_lt (n := n) (by omega)
    rw [readStart, value]
    exact if_pos small

theorem readRenew_iff (body : List Byte) (h : Handle) (n : Nat) :
    readRenew body = some (h, n) ↔ n < 65536 ∧ body = [h.index, h.gen] ++ wordBytes n := by
  constructor
  · intro read
    unfold readRenew at read
    split at read
    · next i g l1 l0 =>
      obtain ⟨rfl, rfl⟩ := Prod.mk.inj (Option.some_inj.mp read)
      rw [wordBytes_fromBe16]
      exact ⟨fromBe16_lt l1 l0, rfl⟩
    · cases read
  · rintro ⟨small, rfl⟩
    exact congrArg (fun m => some (h, m)) (fromBe16_word small)

/-! ## Runs -/

/-- The three bytes of a run (R191). -/
def Run.bytes (r : Run) : List Byte := wordBytes r.first ++ [BitVec.ofNat 8 r.len]

theorem Run.bytes_eq (r : Run) :
    r.bytes = [BitVec.ofNat 8 (r.first / 256), BitVec.ofNat 8 r.first, BitVec.ofNat 8 r.len] := rfl

/-- Three bytes hold the run. -/
def Run.Short (r : Run) : Prop := r.first < 65536 ∧ r.len < 256

theorem Run.bytes_of_read (a b c : Byte) : Run.bytes ⟨fromBe16 a b, c.toNat⟩ = [a, b, c] := by
  rw [Run.bytes, wordBytes_fromBe16, ofNat_toNat]
  rfl

theorem Run.read_bytes {r : Run} (short : r.Short) :
    (⟨fromBe16 (BitVec.ofNat 8 (r.first / 256)) (BitVec.ofNat 8 r.first), (BitVec.ofNat 8 r.len).toNat⟩ : Run) = r := by
  rw [fromBe16_word short.1, toNat_ofNat_of_lt short.2]

theorem Run.valid_iff (r : Run) : r.valid = true ↔ 1 ≤ r.len ∧ r.len ≤ 64 ∧ r.first + r.len ≤ 512 := by
  simp only [Run.valid, Bool.and_eq_true, decide_eq_true_eq, and_assoc]
  rfl

theorem readRun_iff (body : List Byte) (r : Run) : readRun body = some r ↔
    1 ≤ r.len ∧ r.len ≤ 64 ∧ r.first + r.len ≤ 512 ∧ body = r.bytes := by
  constructor
  · intro read
    unfold readRun at read
    split at read
    · next a b c =>
      obtain ⟨valid, e⟩ := Option.ite_none_right_eq_some.mp read
      obtain ⟨one, most, last⟩ := (Run.valid_iff _).mp valid
      rw [← Option.some_inj.mp e]
      exact ⟨one, most, last, (Run.bytes_of_read a b c).symm⟩
    · cases read
  · rintro ⟨one, most, last, rfl⟩
    have read : readRun r.bytes = if r.valid then some r else none := by
      rw [Run.bytes_eq, readRun, Run.read_bytes ⟨by omega, by omega⟩]
    rw [read]
    exact if_pos ((Run.valid_iff r).mpr ⟨one, most, last⟩)

theorem readRanges_of_bytes {runs : List Run} (short : ∀ r ∈ runs, r.Short) : readRanges (runs.flatMap Run.bytes) = some runs := by
  induction runs with
  | nil => rfl
  | cons r runs ih =>
    obtain ⟨first, others⟩ := List.forall_mem_cons.mp short
    rw [List.flatMap_cons, Run.bytes_eq, List.cons_append, List.cons_append, List.cons_append, List.nil_append, readRanges,
      ih others, Run.read_bytes first]
    rfl

theorem bytes_of_readRanges {body : List Byte} {runs : List Run} (read : readRanges body = some runs) :
    body = runs.flatMap Run.bytes := by
  fun_induction readRanges body generalizing runs with
  | case1 => rw [← Option.some_inj.mp read]; rfl
  | case2 a b c rest ih =>
    obtain ⟨tail, reads, rfl⟩ := Option.map_eq_some_iff.mp read
    rw [List.flatMap_cons, Run.bytes_of_read, ← ih reads]
    rfl
  | case3 => cases read
  | case4 => cases read

/-! ## SET_PARAM and SET_PORT -/

theorem readParamName_iff (id : Byte) (name : ParamName) : readParamName id = some name ↔ id = name.code := by
  constructor
  · intro read
    unfold readParamName at read
    split at read <;> cases read
    all_goals exact byte_of_toNat (by assumption)
  · rintro rfl
    cases name <;> rfl

theorem ParamName.ranges_iff (id : Byte) (v : Nat) (name : ParamName) :
    name.Ranges id v ↔ id = name.code ∧ name.inRange v = true := by
  cases name <;> simp only [ParamName.Ranges, ParamName.code, ParamName.inRange, Bool.and_eq_true, decide_eq_true_eq]

theorem ParamName.lt_of_inRange {name : ParamName} {v : Nat} (h : name.inRange v = true) : v < 65536 := by
  cases name <;> simp only [ParamName.inRange, Bool.and_eq_true, decide_eq_true_eq] at h <;> omega

theorem readSetParam_iff (body : List Byte) (name : ParamName) (v : Nat) : readSetParam body = some (name, v) ↔
    ∃ id, name.Ranges id v ∧ body = id :: wordBytes v := by
  simp only [ParamName.ranges_iff]
  constructor
  · intro read
    unfold readSetParam at read
    split at read
    · next id v1 v0 =>
      split at read
      · next named =>
        obtain ⟨inRange, e⟩ := Option.ite_none_right_eq_some.mp read
        obtain ⟨rfl, rfl⟩ := Prod.mk.inj (Option.some_inj.mp e)
        exact ⟨id, ⟨(readParamName_iff _ _).mp named, inRange⟩, by rw [wordBytes_fromBe16]⟩
      · cases read
    · cases read
  · rintro ⟨id, ⟨named, inRange⟩, rfl⟩
    have value := fromBe16_word (ParamName.lt_of_inRange inRange)
    rw [wordBytes, readSetParam, (readParamName_iff _ _).mpr named, value]
    exact if_pos inRange

theorem attributeFlags_eq {b : Byte} (few : b.toNat < 8) : BitVec.ofNat 8 ((if b.getLsbD 2 then 4 else 0) +
    (if b.getLsbD 1 then 2 else 0) + (if b.getLsbD 0 then 1 else 0)) = b := by
  rw [← ofNat_toNat b]
  generalize b.toNat = n at few
  interval_cases n <;> rfl

theorem attributeFlags_read (x y z : Bool) (b : Byte)
    (h : b = BitVec.ofNat 8 ((if x then 4 else 0) + (if y then 2 else 0) + (if z then 1 else 0))) :
    b.toNat < 8 ∧ b.getLsbD 2 = x ∧ b.getLsbD 1 = y ∧ b.getLsbD 0 = z := by
  subst h
  cases x <;> cases y <;> cases z <;> decide

theorem readPolicy_iff (b : Byte) (policy : ResetPolicy) :
    readPolicy b = some policy ↔ b = if policy = .reclaim then 0#8 else 1#8 := by
  constructor
  · intro read
    unfold readPolicy at read
    split at read <;> cases read
    all_goals exact byte_of_toNat (by assumption)
  · rintro rfl
    cases policy <;> rfl

theorem readSetPort_iff (body : List Byte) (p : Port) (a : Attributes) : readSetPort body = some (p, a) ↔
    a.slotQuota ≤ 512 ∧ a.recordQuota ≤ 192 ∧
      body = BitVec.ofNat 8 p.val :: wordBytes a.slotQuota ++ [BitVec.ofNat 8 a.recordQuota,
        if a.policy = .reclaim then 0#8 else 1#8,
        BitVec.ofNat 8 ((if a.urgent then 4 else 0) + (if a.unleased then 2 else 0) + (if a.notices then 1 else 0))] := by
  constructor
  · intro read
    unfold readSetPort at read
    split at read
    · next b q1 q0 r pol flags =>
      split at read
      · next port policy =>
        obtain ⟨⟨slots, records, few⟩, e⟩ := Option.ite_none_right_eq_some.mp read
        obtain ⟨rfl, rfl⟩ := Prod.mk.inj (Option.some_inj.mp e)
        refine ⟨slots, records, ?_⟩
        dsimp only
        rw [wordBytes_fromBe16, ofNat_toNat, attributeFlags_eq few, ← (readPolicy_iff _ _).mp policy,
          List.head_eq_of_cons_eq ((readPort_iff _ _).mp port)]
        rfl
      · cases read
    · cases read
  · rintro ⟨slots, records, rfl⟩
    obtain ⟨few, urgent, unleased, notices⟩ := attributeFlags_read a.urgent a.unleased a.notices _ rfl
    have port := (readPort_iff _ p).mpr rfl
    have policy := (readPolicy_iff _ a.policy).mpr rfl
    rw [wordBytes, List.cons_append, List.cons_append, List.cons_append, List.nil_append, readSetPort, port, policy]
    dsimp only
    rw [fromBe16_word (by omega), toNat_ofNat_of_lt (by omega), urgent, unleased, notices]
    exact if_pos ⟨slots, records, few⟩

end Sys2Proof.Machine
end

section
/-! PROOFS. The body of SET_WATCH, and its window (R162, R163, R164, Tables 11-4, 11-10). -/

namespace Sys2Proof.Machine

/-! ## SET_WATCH -/

theorem readUnitOrAny_iff (b : Byte) (u : Option UnitIx) :
    readUnitOrAny b = some u ↔ b = u.elim 0xFF#8 fun u => BitVec.ofNat 8 u.val := by
  constructor
  · intro read
    unfold readUnitOrAny at read
    split at read
    · next any =>
      rw [← Option.some_inj.mp read]
      exact any
    · split at read
      · rw [← Option.some_inj.mp read]
        exact (ofNat_toNat b).symm
      · cases read
  · rintro rfl
    cases u with
    | none => rfl
    | some u =>
      have value := toNat_ofNat_of_lt (n := u.val) (by omega)
      have named : BitVec.ofNat 8 u.val ≠ 0xFF#8 := fun e => by
        rw [e] at value
        have := u.isLt
        simp at value
        omega
      rw [Option.elim_some, readUnitOrAny, if_neg named, dif_pos (by omega)]
      exact congrArg (fun i => some (some i)) (Fin.ext value)

/-- The edge byte (Table 11-4). -/
def Edge.byte : Edge → Byte
  | .rise => 0#8
  | .fall => 1#8
  | .both => 2#8

theorem readEdge_iff (b : Byte) (e : Edge) : readEdge b = some e ↔ b = e.byte := by
  constructor
  · intro read
    unfold readEdge at read
    split at read <;> cases read
    all_goals exact byte_of_toNat (by assumption)
  · rintro rfl
    cases e <;> rfl

theorem readMode_iff (b : Byte) (m : WatchMode) : readMode b = some m ↔ b = if m = .oneShot then 0#8 else 1#8 := by
  constructor
  · intro read
    unfold readMode at read
    split at read <;> cases read
    all_goals exact byte_of_toNat (by assumption)
  · rintro rfl
    cases m <;> rfl

theorem readRequired_iff (b : Byte) (r : Required) : readRequired b = some r ↔ b = if r = .live then 0#8 else 1#8 := by
  constructor
  · intro read
    unfold readRequired at read
    split at read <;> cases read
    all_goals exact byte_of_toNat (by assumption)
  · rintro rfl
    cases r <;> rfl

theorem readCombination_iff (b : Byte) (c : Combination) :
    readCombination b = some c ↔ b = if c = .all then 0#8 else 1#8 := by
  constructor
  · intro read
    unfold readCombination at read
    split at read <;> cases read
    all_goals exact byte_of_toNat (by assumption)
  · rintro rfl
    cases c <;> rfl

theorem readTargets_iff (b : Byte) (t : BitVec 6) : readTargets b = some t ↔ t ≠ 0#6 ∧ b = BitVec.ofNat 8 t.toNat := by
  constructor
  · intro read
    unfold readTargets at read
    obtain ⟨⟨small, some⟩, e⟩ := Option.ite_none_right_eq_some.mp read
    have value : t.toNat = b.toNat := by
      rw [← Option.some_inj.mp e, BitVec.toNat_setWidth]
      omega
    refine ⟨fun none => some ?_, byte_of_toNat value.symm⟩
    rw [none] at value
    exact byte_of_toNat value.symm
  · rintro ⟨some, rfl⟩
    have bound := t.isLt
    have value := toNat_ofNat_of_lt (n := t.toNat) (by omega)
    unfold readTargets
    rw [if_pos]
    · refine congrArg Option.some (BitVec.eq_of_toNat_eq ?_)
      rw [BitVec.toNat_setWidth, value]
      omega
    · refine ⟨by omega, fun none => some (BitVec.eq_of_toNat_eq ?_)⟩
      rw [none] at value
      exact value.symm

theorem windowValid_iff (lo hi : Nat) : windowValid lo hi = true ↔ lo ≤ hi ∧ hi ≤ 511 := by
  simp only [windowValid, Bool.and_eq_true, decide_eq_true_eq]

/-- The kind byte (Table 11-4). -/
def WatchSpec.kind : WatchSpec → Byte
  | .freeCount _ _ _ => 0#8
  | .resState _ _ _ => 1#8

theorem readSpec_of_members {r c n : Byte} {bytes : List Byte} {required : Required} {comb : Combination} {members : List Handle}
    (reads : readRequired r = some required) (combines : readCombination c = some comb)
    (handles : readHandles bytes = some members) (length : members.length = n.toNat) (one : 1 ≤ members.length)
    (most : members.length ≤ 6) : readSpec 1#8 (r :: c :: n :: bytes) = some (.resState required comb members) := by
  simp [readSpec, reads, combines, handles, ← length, one, most]

theorem readSpec_of_slots {lo hi threshold : Nat} (order : lo ≤ hi) (last : hi ≤ 511) (most : threshold ≤ 512) :
    readSpec 0#8 (wordBytes lo ++ wordBytes hi ++ wordBytes threshold) = some (.freeCount lo hi threshold) := by
  have window := (windowValid_iff lo hi).mpr ⟨order, last⟩
  simp [readSpec, wordBytes, fromBe16_word (n := lo) (by omega), fromBe16_word (n := hi) (by omega),
    fromBe16_word (n := threshold) (by omega), window, most]

theorem readSpec_iff (kind : Byte) (rest : List Byte) (sp : WatchSpec) :
    readSpec kind rest = some sp ↔ kind = sp.kind ∧ sp.Spells rest := by
  constructor
  · intro read
    unfold readSpec at read
    split at read
    · next lo1 lo0 hi1 hi0 t1 t0 isFree =>
      obtain ⟨⟨window, most⟩, e⟩ := Option.ite_none_right_eq_some.mp read
      obtain ⟨order, last⟩ := (windowValid_iff _ _).mp window
      rw [← Option.some_inj.mp e]
      refine ⟨byte_of_toNat isFree, ?_, order, last, most⟩
      rw [wordBytes_fromBe16, wordBytes_fromBe16, wordBytes_fromBe16]
      rfl
    · next required comb count handles isState =>
      split at read
      · next reads combines members =>
        obtain ⟨⟨length, one, most⟩, e⟩ := Option.ite_none_right_eq_some.mp read
        rw [← Option.some_inj.mp e]
        refine ⟨byte_of_toNat isState, ?_, one, most⟩
        rw [← (readRequired_iff _ _).mp reads, ← (readCombination_iff _ _).mp combines, length, ofNat_toNat,
          (readHandles_iff _ _).mp members]
        rfl
      · cases read
    · cases read
  · rintro ⟨rfl, spells⟩
    cases sp with
    | freeCount lo hi threshold =>
      obtain ⟨rfl, order, last, most⟩ := spells
      exact readSpec_of_slots order last most
    | resState required comb members =>
      obtain ⟨rfl, one, most⟩ := spells
      exact readSpec_of_members ((readRequired_iff _ required).mpr rfl) ((readCombination_iff _ comb).mpr rfl)
        ((readHandles_iff _ members).mpr rfl) (toNat_ofNat_of_lt (by omega)).symm one most

theorem readSetWatch_of_fields {unit kind edge mode targets : Byte} {rest : List Byte} {a : SetWatchArgs}
    (units : readUnitOrAny unit = some a.unit) (spec : readSpec kind rest = some a.spec) (edges : readEdge edge = some a.edge)
    (modes : readMode mode = some a.mode) (ports : readTargets targets = some a.targets) :
    readSetWatch (unit :: kind :: edge :: mode :: targets :: rest) = some a := by
  simp [readSetWatch, units, spec, edges, modes, ports]

theorem readSetWatch_iff (body : List Byte) (a : SetWatchArgs) :
    readSetWatch body = some a ↔ (Request.setWatch a).Spells body := by
  constructor
  · intro read
    unfold readSetWatch at read
    split at read
    · next unit kind edge mode targets rest =>
      split at read
      · next units spec edges modes ports =>
        rw [← Option.some_inj.mp read]
        obtain ⟨kinds, fields⟩ := (readSpec_iff _ _ _).mp spec
        obtain ⟨some, named⟩ := (readTargets_iff _ _).mp ports
        have bytes := congrArg₂ List.cons ((readUnitOrAny_iff _ _).mp units) (congrArg₂ List.cons kinds (congrArg₂ List.cons
          ((readEdge_iff _ _).mp edges) (congrArg₂ List.cons ((readMode_iff _ _).mp modes) (congrArg (List.cons · rest) named))))
        exact ⟨rest, fields, some, bytes⟩
      · cases read
    · cases read
  · rintro ⟨fields, spells, some, rfl⟩
    exact readSetWatch_of_fields ((readUnitOrAny_iff _ a.unit).mpr rfl) ((readSpec_iff _ fields a.spec).mpr ⟨rfl, spells⟩)
      ((readEdge_iff _ a.edge).mpr rfl) ((readMode_iff _ a.mode).mpr rfl) ((readTargets_iff _ a.targets).mpr ⟨some, rfl⟩)

end Sys2Proof.Machine
end

section
/-! PROOFS. The bodies of RESERVE and RELOCATE, and the reading of a table command (R51, R55, R105, R190, R191, Tables 3-4, 11-4,
11-8, 11-10). -/

namespace Sys2Proof.Machine

/-! ## Shape and placement -/

theorem readShape_iff (shape least most : Byte) (sh : Shape) :
    readShape shape least most = some sh ↔ ShapeBytes true sh [shape, least, most] := by
  constructor
  · intro read
    unfold readShape at read
    split at read <;> cases read
    · next h => exact ⟨least, most, by rw [byte_of_toNat h]⟩
    · next h => exact ⟨least, most, .inl ⟨by rw [byte_of_toNat h], rfl, rfl⟩⟩
    · next h => exact ⟨least, most, .inr ⟨rfl, by rw [byte_of_toNat h], rfl, rfl⟩⟩
  · rintro ⟨l, m, spells⟩
    cases sh with
    | contiguous =>
      cases spells
      rfl
    | split a b =>
      rcases spells with ⟨spells, rfl, rfl⟩ | ⟨-, spells, rfl, rfl⟩ <;> cases spells <;> rfl

/-- A RESERVE names its shape; the default is of RELOCATE alone (R55, R105). -/
theorem shapeBytes_false_iff (shape least most : Byte) (sh : Shape) :
    ShapeBytes false sh [shape, least, most] ↔ ShapeBytes true sh [shape, least, most] ∧ shape ≠ 2#8 := by
  constructor
  · rintro ⟨l, m, spells⟩
    cases sh with
    | contiguous =>
      cases spells
      exact ⟨⟨_, _, rfl⟩, by decide⟩
    | split a b =>
      rcases spells with ⟨spells, least⟩ | ⟨default, -⟩
      · cases spells
        exact ⟨⟨_, _, .inl ⟨rfl, least⟩⟩, by decide⟩
      · cases default
  · rintro ⟨⟨l, m, spells⟩, named⟩
    refine ⟨l, m, ?_⟩
    cases sh with
    | contiguous => exact spells
    | split a b =>
      rcases spells with spells | ⟨-, spells, -⟩
      · exact .inl spells
      · cases spells
        exact absurd rfl named

theorem ShapeBytes.three {relocates : Bool} {sh : Shape} {bytes : List Byte} (h : ShapeBytes relocates sh bytes) :
    ∃ shape least most, bytes = [shape, least, most] := by
  obtain ⟨least, most, h⟩ := h
  cases sh with
  | contiguous => exact ⟨_, _, _, h⟩
  | split a b =>
    rcases h with ⟨h, -⟩ | ⟨-, h, -⟩
    · exact ⟨_, _, _, h⟩
    · exact ⟨_, _, _, h⟩

theorem PlacementBytes.list {shape : Shape} {place : Placement} {lo hi : Nat} {code : Byte} {list : List Byte}
    (h : PlacementBytes shape place lo hi code list) : ∃ count ranges, list = count :: ranges := by
  obtain ⟨-, -, h⟩ := h
  cases place with
  | atRuns runs => exact ⟨_, _, h.2.1⟩
  | _ => exact ⟨_, _, h.2.1⟩

theorem atListValid_iff (lo hi : Nat) (runs : List Run) : atListValid lo hi runs = true ↔ 1 ≤ runs.length ∧ runs.length ≤ 4 ∧
    (∀ r ∈ runs, 1 ≤ r.len ∧ r.len ≤ 64 ∧ r.first + r.len ≤ 512 ∧ lo ≤ r.first ∧ r.first + r.len ≤ hi + 1) ∧
    runs.Pairwise fun r q => r.first + r.len ≤ q.first ∨ q.first + q.len ≤ r.first := by
  simp only [atListValid, Bool.and_eq_true, decide_eq_true_eq, List.all_eq_true, Run.valid_iff, Run.inside, runsDisjoint_iff,
    Run.disjoint_iff]
  constructor
  · rintro ⟨⟨⟨⟨one, few⟩, valid⟩, inside⟩, apart⟩
    refine ⟨one, few, fun r hr => ?_, apart⟩
    obtain ⟨some, most, last⟩ := valid r hr
    exact ⟨some, most, last, inside r hr⟩
  · rintro ⟨one, few, runs, apart⟩
    refine ⟨⟨⟨⟨one, few⟩, fun r hr => ?_⟩, fun r hr => ?_⟩, apart⟩ <;> obtain ⟨some, most, last, inside⟩ := runs r hr
    · exact ⟨some, most, last⟩
    · exact inside

theorem shapeValid_iff (shape : Shape) : shapeValid shape = true ↔
    ∀ least most, shape = .split least most → 1 ≤ least ∧ least ≤ 64 ∧ 1 ≤ most ∧ most ≤ 4 := by
  cases shape with
  | contiguous => exact iff_of_true rfl nofun
  | split a b =>
    simp only [shapeValid, Bool.and_eq_true, decide_eq_true_eq, and_assoc]
    exact ⟨fun valid _ _ e => by cases e; exact valid, fun valid => valid a b rfl⟩

theorem placementValid_iff (shape : Shape) (place : Placement) (lo hi : Nat) : placementValid shape place lo hi = true ↔
    (lo ≤ hi ∧ hi ≤ 511) ∧ match place with
      | .atRuns runs => atListValid lo hi runs = true
      | _ => shapeValid shape = true := by
  unfold placementValid
  rw [Bool.and_eq_true, windowValid_iff]
  cases place <;> rfl

theorem readPlacement_of_runs {runs : List Run} {count : Byte} {ranges : List Byte} (listed : readRanges ranges = some runs)
    (length : runs.length = count.toNat) : readPlacement 2#8 count ranges = some (.atRuns runs) := by
  simp [readPlacement, listed, length]

/-- The placement byte with its run list is read as it is spelled, and judged by the conditions of form (R105). -/
theorem readPlacement_iff (shape : Shape) (place : Placement) (lo hi : Nat) (code count : Byte) (ranges : List Byte) :
    readPlacement code count ranges = some place ∧ placementValid shape place lo hi = true ↔
      PlacementBytes shape place lo hi code (count :: ranges) := by
  rw [placementValid_iff]
  constructor
  · rintro ⟨read, ⟨order, last⟩, valid⟩
    refine ⟨order, last, ?_⟩
    unfold readPlacement at read
    split at read
    · next named none =>
      obtain ⟨rfl, e⟩ := Option.ite_none_right_eq_some.mp read
      obtain rfl := Option.some_inj.mp e
      exact ⟨byte_of_toNat named, by rw [bytes_of_readRanges none]; rfl, (shapeValid_iff shape).mp valid⟩
    · next named none =>
      obtain ⟨rfl, e⟩ := Option.ite_none_right_eq_some.mp read
      obtain rfl := Option.some_inj.mp e
      exact ⟨byte_of_toNat named, by rw [bytes_of_readRanges none]; rfl, (shapeValid_iff shape).mp valid⟩
    · next runs named listed =>
      obtain ⟨length, e⟩ := Option.ite_none_right_eq_some.mp read
      obtain rfl := Option.some_inj.mp e
      refine ⟨byte_of_toNat named, ?_, (atListValid_iff lo hi runs).mp valid⟩
      rw [length, ofNat_toNat, bytes_of_readRanges listed]
      rfl
    · cases read
  · rintro ⟨order, last, spells⟩
    cases place with
    | atRuns runs =>
      obtain ⟨rfl, list, valid⟩ := spells
      obtain ⟨rfl, rfl⟩ := List.cons.inj list
      obtain ⟨-, few, bounds, -⟩ := id valid
      have listed : readRanges (runs.flatMap Run.bytes) = some runs := readRanges_of_bytes fun r hr => by
        obtain ⟨some, most, inside, -⟩ := bounds r hr
        exact ⟨by omega, by omega⟩
      exact ⟨readPlacement_of_runs listed (toNat_ofNat_of_lt (by omega)).symm, ⟨order, last⟩,
        (atListValid_iff lo hi runs).mpr valid⟩
    | nextFit =>
      obtain ⟨rfl, list, shapes⟩ := spells
      cases list
      exact ⟨rfl, ⟨order, last⟩, (shapeValid_iff shape).mpr shapes⟩
    | lowFit =>
      obtain ⟨rfl, list, shapes⟩ := spells
      cases list
      exact ⟨rfl, ⟨order, last⟩, (shapeValid_iff shape).mpr shapes⟩

theorem SearchArgs.countHolds_iff (a : SearchArgs) : a.CountHolds ↔ 1 ≤ a.n ∧ a.n ≤ 128 ∧ a.fits = true := by
  unfold SearchArgs.CountHolds SearchArgs.fits
  rw [Bool.and_eq_true, decide_eq_true_eq]
  refine and_congr_right fun _ => and_congr_right fun _ => and_congr_right fun _ => ?_
  cases a.place with
  | atRuns runs => exact (decide_eq_true_iff (p := setTotal runs = a.n)).symm
  | _ => cases a.shape <;> exact decide_eq_true_iff.symm

/-! ## RESERVE and RELOCATE -/

theorem readClass_iff (b : Byte) (c : ResClass) : readClass b = some c ↔ b = c.code := by
  constructor
  · intro read
    unfold readClass at read
    split at read <;> cases read
    all_goals exact byte_of_toNat (by assumption)
  · rintro rfl
    cases c <;> rfl

theorem readWait_iff (mode : Byte) (limit : Nat) (w : WaitOption) : readWait mode limit = some w ↔
    mode = (if w = .noWait then 0#8 else 1#8) ∧ ∀ n, w = .wait n → n = limit := by
  constructor
  · intro read
    unfold readWait at read
    split at read <;> cases read
    · next h => exact ⟨byte_of_toNat h, nofun⟩
    · next h => exact ⟨byte_of_toNat h, fun n e => by cases e; rfl⟩
  · rintro ⟨rfl, limited⟩
    cases w with
    | noWait => rfl
    | wait n =>
      cases limited n rfl
      rfl

theorem readReserve_of_fields {n shape least most place lo1 lo0 hi1 hi0 cls l1 l0 mode w1 w0 count : Byte} {ranges : List Byte}
    {a : ReserveArgs} (number : n.toNat = a.search.n) (shapes : readShape shape least most = some a.search.shape)
    (named : shape ≠ 2#8) (places : readPlacement place count ranges = some a.search.place)
    (low : fromBe16 lo1 lo0 = a.search.lo) (high : fromBe16 hi1 hi0 = a.search.hi) (classes : readClass cls = some a.cls)
    (lease : fromBe16 l1 l0 = a.lease) (waits : readWait mode (fromBe16 w1 w0) = some a.wait) (one : 1 ≤ a.search.n)
    (few : a.search.n ≤ 128)
    (valid : placementValid a.search.shape a.search.place a.search.lo a.search.hi = true) (fits : a.search.fits = true) :
    readReserve (n :: shape :: least :: most :: place :: lo1 :: lo0 :: hi1 :: hi0 :: cls :: l1 :: l0 :: mode :: w1 :: w0 ::
      count :: ranges) = some a := by
  simp [readReserve, number, shapes, named, places, low, high, classes, lease, waits, one, few, valid, fits]

theorem readReserve_iff (body : List Byte) (a : ReserveArgs) : readReserve body = some a ↔ (Request.reserve a).Spells body := by
  constructor
  · intro read
    unfold readReserve at read
    split at read
    · next n shape least most place lo1 lo0 hi1 hi0 cls l1 l0 mode w1 w0 count ranges =>
      split at read
      · next sh pl c w shapes places classes waits =>
        obtain ⟨⟨named, one, few, valid, fits⟩, e⟩ := Option.ite_none_right_eq_some.mp read
        obtain rfl := Option.some_inj.mp e
        obtain ⟨rfl, limited⟩ := (readWait_iff _ _ _).mp waits
        obtain rfl := (readClass_iff _ _).mp classes
        refine ⟨place, [shape, least, most], count :: ranges, fromBe16 w1 w0, fromBe16_lt _ _, fromBe16_lt _ _,
          (shapeBytes_false_iff _ _ _ _).mpr ⟨(readShape_iff _ _ _ _).mp shapes, named⟩,
          (SearchArgs.countHolds_iff _).mpr ⟨one, few, fits⟩, (readPlacement_iff _ _ _ _ _ _ _).mp ⟨places, valid⟩, limited, ?_⟩
        dsimp only
        rw [ofNat_toNat, wordBytes_fromBe16, wordBytes_fromBe16, wordBytes_fromBe16, wordBytes_fromBe16]
        rfl
      · cases read
    · cases read
  · rintro ⟨place, shape, list, limit, lease, limited, shapes, counts, places, waits, rfl⟩
    obtain ⟨shape, least, most, rfl⟩ := shapes.three
    obtain ⟨count, ranges, rfl⟩ := places.list
    obtain ⟨shapes, named⟩ := (shapeBytes_false_iff _ _ _ _).mp shapes
    obtain ⟨one, few, fits⟩ := (SearchArgs.countHolds_iff _).mp counts
    obtain ⟨order, last, -⟩ := id places
    obtain ⟨places, valid⟩ := (readPlacement_iff _ _ _ _ _ _ _).mpr places
    exact readReserve_of_fields (toNat_ofNat_of_lt (by omega)) ((readShape_iff _ _ _ _).mpr shapes) named places
      (fromBe16_word (by omega)) (fromBe16_word (by omega)) ((readClass_iff _ a.cls).mpr rfl) (fromBe16_word lease)
      ((readWait_iff _ _ a.wait).mpr ⟨rfl, fun n e => (waits n e).trans (fromBe16_word limited).symm⟩) one few valid fits

theorem readRelocate_of_fields {index gen shape least most place lo1 lo0 hi1 hi0 count : Byte} {ranges : List Byte}
    {a : RelocateArgs} (handle : ⟨index, gen⟩ = a.handle) (shapes : readShape shape least most = some a.shape)
    (places : readPlacement place count ranges = some a.place) (low : fromBe16 lo1 lo0 = a.lo)
    (high : fromBe16 hi1 hi0 = a.hi) (valid : placementValid a.shape a.place a.lo a.hi = true) :
    readRelocate (index :: gen :: shape :: least :: most :: place :: lo1 :: lo0 :: hi1 :: hi0 :: count :: ranges) = some a := by
  simp [readRelocate, handle, shapes, places, low, high, valid]

theorem readRelocate_iff (body : List Byte) (a : RelocateArgs) :
    readRelocate body = some a ↔ (Request.relocate a).Spells body := by
  constructor
  · intro read
    unfold readRelocate at read
    split at read
    · next index gen shape least most place lo1 lo0 hi1 hi0 count ranges =>
      split at read
      · next sh pl shapes places =>
        obtain ⟨valid, e⟩ := Option.ite_none_right_eq_some.mp read
        obtain rfl := Option.some_inj.mp e
        refine ⟨place, [shape, least, most], count :: ranges, (readShape_iff _ _ _ _).mp shapes,
          (readPlacement_iff _ _ _ _ _ _ _).mp ⟨places, valid⟩, ?_⟩
        dsimp only
        rw [wordBytes_fromBe16, wordBytes_fromBe16]
        rfl
      · cases read
    · cases read
  · rintro ⟨place, shape, list, shapes, places, rfl⟩
    obtain ⟨shape, least, most, rfl⟩ := shapes.three
    obtain ⟨count, ranges, rfl⟩ := places.list
    obtain ⟨order, last, -⟩ := id places
    obtain ⟨places, valid⟩ := (readPlacement_iff _ _ _ _ _ _ _).mpr places
    exact readRelocate_of_fields rfl ((readShape_iff _ _ _ _).mpr shapes) places (fromBe16_word (by omega))
      (fromBe16_word (by omega)) valid

/-! ## The readers of the codes -/

/-- `read` gives the requests of code `code` that a body spells, and the engine reads that code with it. -/
structure ReadsCode (code : Byte) (read : List Byte → Option Request) : Prop where
  used : ∀ body, readRequest code body = orBadArgument (read body)
  spells : ∀ body r, read body = some r ↔ r.code = code ∧ r.Spells body

/-- A reader gives the requests of its code, where it gives the arguments that a body spells. -/
theorem readsCode_of_spells {α : Type} {code : Byte} {read : List Byte → Option α} (request : α → Request)
    (spells : ∀ body x, read body = some x ↔ (request x).Spells body)
    (codes : ∀ r : Request, r.code = code ↔ ∃ x, request x = r := by intro r; cases r <;> simp [Request.code])
    (used : ∀ body, readRequest code body = orBadArgument ((read body).map request) := by intros; rfl) :
    ReadsCode code fun body => (read body).map request where
  used := used
  spells body r := by
    rw [Option.map_eq_some_iff, codes]
    constructor
    · rintro ⟨x, reads, rfl⟩
      exact ⟨⟨x, rfl⟩, (spells body x).mp reads⟩
    · rintro ⟨⟨x, rfl⟩, spelled⟩
      exact ⟨x, (spells body x).mpr spelled, rfl⟩

/-- The code of a request has a reader. -/
theorem Request.readsCode (r : Request) : ∃ read, ReadsCode r.code read := by
  cases r with
  | reserve _ => exact ⟨_, readsCode_of_spells .reserve readReserve_iff⟩
  | release _ => exact ⟨_, readsCode_of_spells .release readHandle_iff⟩
  | renew _ _ => exact ⟨_, readsCode_of_spells (fun (h, n) => .renew h n) fun body ⟨h, n⟩ => readRenew_iff body h n⟩
  | query _ => exact ⟨_, readsCode_of_spells .query readHandle_iff⟩
  | listOwned _ => exact ⟨_, readsCode_of_spells .listOwned readStart_iff⟩
  | readMap _ => exact ⟨_, readsCode_of_spells .readMap readRun_iff⟩
  | cancelWait _ => exact ⟨_, readsCode_of_spells .cancelWait readTicket_iff⟩
  | relocate _ => exact ⟨_, readsCode_of_spells .relocate readRelocate_iff⟩
  | confirmMove _ => exact ⟨_, readsCode_of_spells .confirmMove readHandle_iff⟩
  | declineMove _ => exact ⟨_, readsCode_of_spells .declineMove readHandle_iff⟩
  | setWatch _ => exact ⟨_, readsCode_of_spells .setWatch readSetWatch_iff⟩
  | clearWatch _ => exact ⟨_, readsCode_of_spells .clearWatch readUnit_iff⟩
  | rearmWatch _ => exact ⟨_, readsCode_of_spells .rearmWatch readUnit_iff⟩
  | bar _ => exact ⟨_, readsCode_of_spells .bar readRun_iff⟩
  | unbar _ => exact ⟨_, readsCode_of_spells .unbar readRun_iff⟩
  | forceRelease _ => exact ⟨_, readsCode_of_spells .forceRelease readHandle_iff⟩
  | setParam _ _ => exact ⟨_, readsCode_of_spells (fun (name, v) => .setParam name v)
      fun body ⟨name, v⟩ => readSetParam_iff body name v⟩
  | setPort _ _ => exact ⟨_, readsCode_of_spells (fun (p, a) => .setPort p a)
      fun body ⟨p, a⟩ => readSetPort_iff body p a⟩
  | resetPort _ => exact ⟨_, readsCode_of_spells .resetPort readPort_iff⟩
  | readParams => exact ⟨_, readsCode_of_spells (fun _ => .readParams) readEmpty_iff⟩

/-- The commands whose arguments are a record, with arguments that show their codes are named. -/
def someReserve : Request := .reserve ⟨⟨1, .contiguous, .nextFit, 0, 0⟩, .normal, 0, .noWait⟩
def someRelocate : Request := .relocate ⟨⟨0#8, 0#8⟩, .contiguous, .nextFit, 0, 0⟩
def someSetWatch : Request := .setWatch ⟨none, .freeCount 0 0 0, .rise, .oneShot, 1#6⟩

theorem readRequest_of_unnamed {code : Byte} (unnamed : ∀ r : Request, r.code ≠ code) (body : List Byte) :
    readRequest code body = .error .badCommand := by
  have other {n : Nat} (r : Request) (named : code.toNat = n) : r.code ≠ BitVec.ofNat 8 n :=
    fun e => unnamed r (e.trans (byte_of_toNat named).symm)
  unfold readRequest
  split
  · next named => exact absurd rfl (other someReserve named)
  · next named => exact absurd rfl (other (.release ⟨0#8, 0#8⟩) named)
  · next named => exact absurd rfl (other (.renew ⟨0#8, 0#8⟩ 0) named)
  · next named => exact absurd rfl (other (.query ⟨0#8, 0#8⟩) named)
  · next named => exact absurd rfl (other (.listOwned 0) named)
  · next named => exact absurd rfl (other (.readMap ⟨0, 1⟩) named)
  · next named => exact absurd rfl (other (.cancelWait 0#8) named)
  · next named => exact absurd rfl (other someRelocate named)
  · next named => exact absurd rfl (other (.confirmMove ⟨0#8, 0#8⟩) named)
  · next named => exact absurd rfl (other (.declineMove ⟨0#8, 0#8⟩) named)
  · next named => exact absurd rfl (other someSetWatch named)
  · next named => exact absurd rfl (other (.clearWatch 0) named)
  · next named => exact absurd rfl (other (.rearmWatch 0) named)
  · next named => exact absurd rfl (other (.bar ⟨0, 1⟩) named)
  · next named => exact absurd rfl (other (.unbar ⟨0, 1⟩) named)
  · next named => exact absurd rfl (other (.forceRelease ⟨0#8, 0#8⟩) named)
  · next named => exact absurd rfl (other (.setParam .guard 0) named)
  · next named => exact absurd rfl (other (.setPort 0 ⟨0, 0, .reclaim, false, false, false⟩) named)
  · next named => exact absurd rfl (other (.resetPort 0) named)
  · next named => exact absurd rfl (other .readParams named)
  · rfl

theorem ReadsCode.ok_iff {code : Byte} {read : List Byte → Option Request} (reads : ReadsCode code read) (body : List Byte)
    (r : Request) : readRequest code body = .ok r ↔ r.code = code ∧ r.Spells body := by
  rw [reads.used, ← reads.spells]
  cases read body with
  | none => exact iff_of_false nofun nofun
  | some q => exact ⟨fun e => congrArg some (Except.ok.inj e), fun e => congrArg Except.ok (Option.some_inj.mp e)⟩

theorem ReadsCode.badArgument {code : Byte} {read : List Byte → Option Request} (reads : ReadsCode code read) {body : List Byte}
    (unspelled : ∀ r : Request, r.code = code → ¬ r.Spells body) : readRequest code body = .error .badArgument := by
  have none : read body = none := Option.eq_none_iff_forall_ne_some.mpr fun r e => by
    obtain ⟨named, spelled⟩ := (reads.spells body r).mp e
    exact unspelled r named spelled
  rw [reads.used, none]
  rfl

/-- Settles O12: a code some request has is read by a reader of its own, and gives a request where the body spells one; no other code
gives a request. -/
theorem bodiesAreRead : Obligations.BodiesAreRead := by
  unfold Obligations.BodiesAreRead
  intro code body
  refine ⟨fun r => ?_, fun unnamed => readRequest_of_unnamed unnamed body, ?_⟩
  · by_cases h : ∃ q : Request, q.code = code
    · obtain ⟨q, rfl⟩ := h
      obtain ⟨read, reads⟩ := q.readsCode
      exact reads.ok_iff body r
    · have unnamed : ∀ q : Request, q.code ≠ code := fun q e => h ⟨q, e⟩
      rw [readRequest_of_unnamed unnamed body]
      exact iff_of_false nofun fun spelled => unnamed r spelled.1
  · rintro ⟨q, rfl⟩ unspelled
    obtain ⟨read, reads⟩ := q.readsCode
    exact reads.badArgument unspelled

end Sys2Proof.Machine
end
